-- ==== Sys2Proof/Word.lean ====
section
/-! DEFINITION. The word types of the KV1600 (R3: bit 0 is the least significant bit). -/

namespace Sys2Proof

/-- The contents of a general register, an address or a handle (R16, R117, R137). -/
abbrev Word := BitVec 64

/-- One instruction word (R284). -/
abbrev IWord := BitVec 32

/-- One byte of memory. -/
abbrev Byte := BitVec 8

/-- One vector register, 512 bits (R123). -/
abbrev Vec := BitVec 512

/-- One moment register, 1,024 bits (R129). -/
abbrev Mom := BitVec 1024

end Sys2Proof
end

