-- ==== Sys2Proof/Syntax.lean ====
section
/-! DEFINITION. The instructions and events of the KV1600: one constructor for every row of the opcode table,
its fields as the word carries them (R287, R294), and the messages the events carry (R243). -/

namespace Sys2Proof

/-- A 64-byte active message (R243). -/
structure Message where
  /-- bytes 0-7: a hardware code 0x00-0xFF or an entry address -/
  handler : Nat := 0
  /-- bytes 8-39: argument words 0-3 -/
  w0 : Word := 0
  w1 : Word := 0
  w2 : Word := 0
  w3 : Word := 0
  /-- bytes 40-47: sender word -/
  sender : Word := 0
  /-- bytes 48-55: timestamp m (R169) -/
  time : Nat := 0
  /-- bytes 56-57: sender SPACE -/
  space : Nat := 0
  /-- byte 58: class of the sender -/
  cls : Nat := 0
  /-- bytes 60-63: launch tag -/
  tag : Nat := 0
  deriving DecidableEq, Repr

/-- What waits for an answer: a task of a cluster (by slot and the slot's generation count) and the logical
register, or a core in privileged code that no task stands behind. -/
structure Waiter where
  ck : Nat := 0
  slot : Nat := 0
  count : Nat := 0
  /-- the logical index of the destination register, counted on the task's register stack (R117) -/
  reg : Nat := 0
  /-- the waiting core holds on for the answer (a privileged TOUCH, R85) -/
  core : Option Nat := none
  deriving DecidableEq, Repr

/-- One message on its way (R252, R254): where from, where to, the message, the payload flit of an RSTV, the
answer's destination, and how often it was resent (R257). -/
structure Packet where
  srcModule : Nat := 0
  /-- key of the sending cluster -/
  src : Nat := 0
  dstModule : Nat := 0
  /-- key of the target cluster: die times 4096 plus cluster -/
  dst : Nat := 0
  /-- the handle, group name, place word or address the message is for -/
  target : Word := 0
  msg : Message := {}
  payload : Vec := 0
  reply : Waiter := {}
  resent : Nat := 0
  /-- the form bits of the operation: TOUCH variant, keep flag, access size, RSTV control and lane range -/
  form : Nat := 0
  /-- the step at which it arrived at a channel (R98) -/
  arrived : Nat := 0
  /-- its number among the packets that the module sent (R254) -/
  seq : Nat := 0
  /-- the fabric port it leaves by (R253) -/
  port : Option Nat := none
  deriving DecidableEq, Repr

/-- One constructor per row of the opcode table. -/
inductive Instr where
  /-- ADD (R314): Adds two general registers modulo 2^64. -/
  | add (d a b : BitVec 5)
  /-- SUB (R417): Subtracts two general registers modulo 2^64. -/
  | sub (d a b : BitVec 5)
  /-- MUL (R396): Writes the low 64 bits of the product of two registers. -/
  | mul (d a b : BitVec 5)
  /-- MULH (R396): Writes the high 64 bits of the signed 128-bit product of two registers. -/
  | mulh (d a b : BitVec 5)
  /-- DIV (R340): Divides signed 64-bit integers with truncation toward zero, trapping DIVZERO on a zero divisor. -/
  | div (d a b : BitVec 5)
  /-- REM (R403): Writes the remainder of the signed truncating division, trapping DIVZERO on a zero divisor. -/
  | rem (d a b : BitVec 5)
  /-- AND (R321): Bitwise AND of two registers. -/
  | and (d a b : BitVec 5)
  /-- OR (R398): Bitwise OR of two registers. -/
  | or (d a b : BitVec 5)
  /-- XOR (R437): Bitwise exclusive OR of two registers. -/
  | xor (d a b : BitVec 5)
  /-- SHL (R412): Shifts a register left by X[b][5:0]. -/
  | shl (d a b : BitVec 5)
  /-- SHR (R412): Shifts a register right logically by X[b][5:0]. -/
  | shr (d a b : BitVec 5)
  /-- SHA (R412): Shifts a register right arithmetically by X[b][5:0]. -/
  | sha (d a b : BitVec 5)
  /-- MIN (R378): Writes the signed minimum of two registers. -/
  | min (d a b : BitVec 5)
  /-- MAX (R378): Writes the signed maximum of two registers. -/
  | max (d a b : BitVec 5)
  /-- SEL (R411): Selects X[a] or X[b] by bit 0 of X[c]. -/
  | sel (d a b c : BitVec 5)
  /-- MOV (R387): Copies one general register to another. -/
  | mov (d a : BitVec 5)
  /-- CLZ (R333): Counts the leading zero bits of a register. -/
  | clz (d a : BitVec 5)
  /-- POPC (R402): Counts the set bits of a register. -/
  | popc (d a : BitVec 5)
  /-- BFX (R325): Extracts a bit field and zero- or sign-extends it. -/
  | bfx (d a b : BitVec 5) (s : BitVec 1)
  /-- BFI (R324): Inserts a bit field into the destination register. -/
  | bfi (d a b : BitVec 5)
  /-- LEA (R360): Forms X[a] + (X[b] << sh) without any access. -/
  | lea (d a b s : BitVec 5)
  /-- CMP (R335): Compares two registers and writes the result into one bit of the destination. -/
  | cmp (d a b c : BitVec 5) (i : BitVec 6)
  /-- ADDI (R315): Adds a sign-extended immediate to a register. -/
  | addi (d a : BitVec 5) (i : BitVec 16)
  /-- ANDI (R322): Bitwise AND with a sign-extended immediate. -/
  | andi (d a : BitVec 5) (i : BitVec 16)
  /-- ORI (R398): Bitwise OR with a sign-extended immediate. -/
  | ori (d a : BitVec 5) (i : BitVec 16)
  /-- MOVI (R388): Loads a sign-extended immediate into a register. -/
  | movi (d : BitVec 5) (i : BitVec 16)
  /-- BR (R327): Branches when a chosen register bit matches the sense. -/
  | br (r : BitVec 5) (i : BitVec 6) (s : BitVec 1) (d : BitVec 14)
  /-- JMP (R353): Jumps by a 26-bit word displacement. -/
  | jmp (d : BitVec 26)
  /-- JMPI (R354): Jumps to the address in a register, trapping ALIGN on a misaligned target. -/
  | jmpi (a : BitVec 5)
  /-- CALL (R328): Advances the register window, writes the link word and transfers control, or takes WSPILL. -/
  | call (k : BitVec 2) (d : BitVec 24)
  /-- RET (R406): Lowers the window by the link's advance and returns, or takes WFILL or ILLEGAL. -/
  | ret (a : BitVec 5)
  /-- YIELD (R438): Marks a yield point: ends a cancelled task, parks on a pending pre-emption, or reloads WCNT. -/
  | yield (n : BitVec 16)
  /-- HALT (R350): Ends the task, waiting for its jobs, then resolving or poisoning its future, writing back tiles and freeing the core. -/
  | halt (a : BitVec 5)
  /-- HALT_R (R350): Ends the task as HALT does and retains the core's banks for a successor entry. -/
  | haltR (d a : BitVec 5)
  /-- SPAWN (R413): Reads a descriptor, allocates an almanac entry and creates a child task in the issuing cluster. -/
  | spawn (f a : BitVec 5) (d : BitVec 16)
  /-- TOUCH (R418): Takes a future's value, parks on an EMPTY future, or forwards the touch to a remote home. -/
  | touch (d a v : BitVec 5)
  /-- RESOLVE (R400): Fills an EMPTY future with a value and writes a status word. -/
  | resolve (d a b : BitVec 5) (k : BitVec 1)
  /-- POISON (R400): Fills an EMPTY future as POISONED with a code and writes a status word. -/
  | poison (d a b : BitVec 5) (k : BitVec 1)
  /-- CANCEL (R329): Cancels a future or work-ladder object and writes a status word. -/
  | cancel (d a : BitVec 5)
  /-- LAUNCH (R355): Reads a launch record, allocates its completion future and queues or spills the record. -/
  | launch (d a : BitVec 5)
  /-- GANG (R345): Locks an aligned block of cores to the issuing core's stream, waiting for members. -/
  | gang (c : BitVec 2)
  /-- DISBAND (R339): Ends the standing gang after pending follower landings complete. -/
  | disband
  /-- DEPDEC (R338): Decrements the dependence counter of the task a future names. -/
  | depdec (d a : BitVec 5)
  /-- RESIDE (R404): Gives the task a group name and moves it to the job's standing launch. -/
  | reside (d : BitVec 5)
  /-- BIND (R326): Binds, rebinds or unbinds a channel of the context to an entry address. -/
  | bind (d a b : BitVec 5) (n : BitVec 4)
  /-- HOLD (R352): Sets a hold on a vector register for an expected count of group stores. -/
  | hold (d a : BitVec 5)
  /-- FSPILL (R344): Spills the named future to its spill record now. -/
  | fspill (d a : BitVec 5)
  /-- FFILL (R344): Refills the named future from its spill record now. -/
  | ffill (d a : BitVec 5)
  /-- LD (R358): Loads 1, 2, 4 or 8 bytes into a general register, zero-extended. -/
  | ld (t b : BitVec 5) (s : BitVec 2) (o : BitVec 14)
  /-- ST (R415): Stores 1, 2, 4 or 8 bytes of a general register. -/
  | st (t b : BitVec 5) (s : BitVec 2) (o : BitVec 14)
  /-- LDV (R358): Loads 64 bytes into a vector register or a queue slot. -/
  | ldv (t b : BitVec 5) (o : BitVec 14)
  /-- STV (R415): Stores 64 bytes from a vector register or queue slot. -/
  | stv (t b : BitVec 5) (o : BitVec 14)
  /-- LDM (R358): Loads 128 bytes into a moment register. -/
  | ldm (t b : BitVec 5) (o : BitVec 14)
  /-- STM (R415): Stores 128 bytes from a moment register. -/
  | stm (t b : BitVec 5) (o : BitVec 14)
  /-- GATH (R347): Translates indexed element addresses and issues a gather job into a vector register or queue. -/
  | gath (d a i t : BitVec 5)
  /-- SCAT (R409): Translates indexed element addresses and issues a scatter job from a vector register. -/
  | scat (s a i t : BitVec 5)
  /-- AMO (R318): Performs an atomic read-modify-write under a declared use and scope. -/
  | amo (d a : BitVec 5) (s : BitVec 2) (u : BitVec 3) (z : BitVec 1) (o : BitVec 4)
  /-- CAS (R330): Compares and swaps a memory location under a declared use. -/
  | cas (d a : BitVec 5) (u : BitVec 3) (z : BitVec 1)
  /-- FENCE (R343): Waits for earlier use-annotated atomics, and with .e for earlier engine jobs. -/
  | fence (e : BitVec 1)
  /-- ADV (R316): Consumes slots at a queue's head or publishes slots at its tail. -/
  | adv (q : BitVec 5) (e : BitVec 1) (c : BitVec 4)
  /-- PERMIT (R399): Grants or revokes a landing permit for a local region. -/
  | permit (d a b : BitVec 5)
  /-- CPY (R336): Issues a copy job between two addresses. -/
  | cpy (s r d : BitVec 5)
  /-- CPY_Q (R336): Issues a copy job into one of the issuing core's operand queues. -/
  | cpyQ (s r : BitVec 5) (q : BitVec 3)
  /-- AMSG (R320): Sends an active message to the home of a handle or to a group. -/
  | amsg (d a b : BitVec 5)
  /-- AMSG_P (R320): Sends an active message to a place word. -/
  | amsgP (d a b : BitVec 5)
  /-- RSTV (R407): Stores vector lanes 0-15 into a register of a named group. -/
  | rstv (s g n v : BitVec 5)
  /-- RSTV_LANE_RANGE (R407): Stores a lane range of a vector into a register of a named group. -/
  | rstvLaneRange (s g l n v : BitVec 5)
  /-- VADD (R425): Adds vector lanes. -/
  | vadd (d a b t : BitVec 5)
  /-- VSUB (R433): Subtracts vector lanes. -/
  | vsub (d a b t : BitVec 5)
  /-- VMUL (R430): Multiplies vector lanes. -/
  | vmul (d a b t : BitVec 5)
  /-- VFMA (R430): Fused multiply-add of vector lanes into the destination. -/
  | vfma (d a b t : BitVec 5)
  /-- VMIN (R430): Lane-wise minimum. -/
  | vmin (d a b t : BitVec 5)
  /-- VMAX (R430): Lane-wise maximum. -/
  | vmax (d a b t : BitVec 5)
  /-- VABS (R424): Lane-wise absolute value. -/
  | vabs (d a t : BitVec 5)
  /-- VSEL (R433): Selects lanes by the top bit of the old destination lane. -/
  | vsel (d a b t : BitVec 5)
  /-- VMOV (R430): Copies all 512 bits of a vector. -/
  | vmov (d a t : BitVec 5)
  /-- VBIT (R426): Bitwise select with the destination as the mask. -/
  | vbit (d a b t : BitVec 5)
  /-- VPERM (R431): Permutes lanes by index lanes. -/
  | vperm (d a b t : BitVec 5)
  /-- VTRN (R434): Transposes 8x8 lane blocks across eight registers. -/
  | vtrn (d a t : BitVec 5)
  /-- VBCAST (R426): Broadcasts the leader's lane 0 to every lane. -/
  | vbcast (d a t : BitVec 5)
  /-- VIDX (R431): Writes lane 0 plus the lane index into each lane. -/
  | vidx (d a t : BitVec 5)
  /-- VRED (R431): Sums all lanes into lane 0 of the leader's destination. -/
  | vred (d a t : BitVec 5)
  /-- VDOT (R429): Accumulates short dot products into 32-bit lanes. -/
  | vdot (d a b t : BitVec 5)
  /-- VCVT (R428): Converts lanes from a source type to a destination type. -/
  | vcvt (d a e s : BitVec 5)
  /-- VCMP (R427): Compares lanes and writes one bit per lane of a lane group into a general register. -/
  | vcmp (d a b : BitVec 5) (x : BitVec 1) (c : BitVec 4) (y z : BitVec 1) (t : BitVec 4)
  /-- VRCP (R432): Lane-wise reciprocal. -/
  | vrcp (d a t : BitVec 5)
  /-- VRSQ (R432): Lane-wise reciprocal square root. -/
  | vrsq (d a t : BitVec 5)
  /-- VEXP2 (R432): Lane-wise power of two. -/
  | vexp2 (d a t : BitVec 5)
  /-- VLOG2 (R432): Lane-wise base-2 logarithm. -/
  | vlog2 (d a t : BitVec 5)
  /-- VSIN (R432): Lane-wise sine of turns. -/
  | vsin (d a t : BitVec 5)
  /-- VTANH (R432): Lane-wise hyperbolic tangent. -/
  | vtanh (d a t : BitVec 5)
  /-- MADD (R377): Adds moment lanes with covariance. -/
  | madd (d a b : BitVec 5) (t : BitVec 1)
  /-- MSUB (R394): Subtracts moment lanes with covariance. -/
  | msub (d a b : BitVec 5) (t : BitVec 1)
  /-- MMUL (R385): Multiplies moment lanes with covariance. -/
  | mmul (d a b : BitVec 5) (t : BitVec 1)
  /-- MFMA (R381): Multiplies moment lanes and adds the destination as an independent quantity. -/
  | mfma (d a b : BitVec 5) (t : BitVec 1)
  /-- MSCL (R390): Scales moment lanes by deterministic vector lanes. -/
  | mscl (d a b : BitVec 5) (t : BitVec 1)
  /-- MSQ (R393): Squares moment lanes as fully self-correlated. -/
  | msq (d a : BitVec 5) (t : BitVec 1)
  /-- MRELU (R389): Matches a rectified Gaussian per moment lane. -/
  | mrelu (d a : BitVec 5) (t : BitVec 1)
  /-- MEXP (R380): Matches the lognormal moments of an exponential per lane. -/
  | mexp (d a : BitVec 5) (t : BitVec 1)
  /-- MSIGM (R392): Matches the sigmoid by the probit approximation per lane. -/
  | msigm (d a : BitVec 5) (t : BitVec 1)
  /-- MSET (R391): Builds moment lanes from a mean vector and a variance vector. -/
  | mset (d a b : BitVec 5) (t : BitVec 1)
  /-- MCOLL (R379): Collapses moment lanes into a vector by mean, deviation, bound or sample form. -/
  | mcoll (d a : BitVec 5) (f : BitVec 2) (k : BitVec 3) (t : BitVec 1)
  /-- LMBIND (R363): Binds loom slots from block images, optionally scaled and shared. -/
  | lmbind (s r g : BitVec 5) (f : BitVec 1) (t : BitVec 5)
  /-- LMBIND_UNBIND (R363): Releases loom slots, or any slot in the privileged form. -/
  | lmbindUnbind (s r g : BitVec 5) (f : BitVec 1) (t : BitVec 5)
  /-- LMRUN (R369): Queues m x nk loom steps of an A tile against bound slots into accumulators. -/
  | lmrun (s r g t : BitVec 5)
  /-- LMMOM (R368): Queues the moment product of an MB16 tile into an accumulator pair. -/
  | lmmom (s r g : BitVec 5)
  /-- LMZERO (R372): Queues the clearing of accumulators to +0. -/
  | lmzero (s r g t : BitVec 5)
  /-- LMDRN (R366): Queues a drain of accumulators to the array. -/
  | lmdrn (s r g : BitVec 5) (e : BitVec 1) (t : BitVec 5)
  /-- LMDRN_V (R366): Queues a drain of accumulator pieces into vector registers. -/
  | lmdrnV (s r g : BitVec 5) (e : BitVec 1)
  /-- LMSCL_ON (R370): Queues binding of the scale cache to SCBASE and SCSHIFT. -/
  | lmsclOn (s r g t : BitVec 5)
  /-- LMSCL_OFF (R370): Queues unbinding of the scale cache. -/
  | lmsclOff (s r g t : BitVec 5)
  /-- LMCHK (R365): Queues a write of an accumulator with checksum row and column. -/
  | lmchk (s r g t : BitVec 5)
  /-- LMCB (R364): Queues a load of the loom lattice table. -/
  | lmcb (s r g t : BitVec 5)
  /-- LMWT (R371): Sets a core's loom arbitration weight at issue. -/
  | lmwt (s r g t : BitVec 5)
  /-- LMFRZ_ON (R367): Freezes every loom queue at its next step boundary. -/
  | lmfrzOn (s r g t : BitVec 5)
  /-- LMFRZ_OFF (R367): Thaws the loom queues. -/
  | lmfrzOff (s r g t : BitVec 5)
  /-- CKACC (R331): Adds F32 lanes into a checksum register. -/
  | ckacc (d a : BitVec 5)
  /-- CKTST (R332): Compares two vectors against a tolerance, trapping CKFAIL on failure. -/
  | cktst (x y b : BitVec 5)
  /-- MFS (R382): Reads a system register, clearing LMSTAT's failure code when it reads LMSTAT. -/
  | mfs (d : BitVec 5) (n : BitVec 10)
  /-- MTS (R382): Writes a system register after its view and range checks. -/
  | mts (a : BitVec 5) (n : BitVec 10)
  /-- TRAP (R420): Raises cause 0x1F with TVAL from a register. -/
  | trap (a : BitVec 5)
  /-- ERET (R341): Returns from a trap handler, or ends the task on the kill flag or cancel bit. -/
  | eret
  /-- XINV (R436): Invalidates translations and L1 lines on the module and waits for old accesses. -/
  | xinv (a b v : BitVec 5)
  /-- CMO_I (R334): Waits for earlier stores and jobs and discards prefetched instruction words. -/
  | cmoI
  /-- CMO_DROP (R334): Removes the cluster's L1 copy of a line. -/
  | cmoDrop (a : BitVec 5)
  /-- CMO_PF (R334): Prefetches a line into L1 under a fresh lease. -/
  | cmoPf (a : BitVec 5)
  /-- NOP (R397): Does nothing and ends its unit. -/
  | nop
  /-- SPILL_WRITE_ACK (R72): The acknowledgement of a spill write completes the waiting allocation. -/
  | spillWriteAck (ck : Nat)
  /-- LATE_WRITE_LANDS (R313): A pending destination write of a load, atomic or status lands in its register or park image. -/
  | lateWriteLands (k : Nat)
  /-- TRANSLATION_DONE (R151): A transit station finishes translating an off-core access, accepting it or raising XFAULT. -/
  | translationDone (ck space va : Nat)
  /-- HBM_FILL_RETURN (R156): An L2 line fill from HBM lands and is matched for sharing or given a data entry. -/
  | hbmFillReturn (pa ddom : Nat) (eligible streaming : Bool)
  /-- COMBINER_FLUSH (R179): A combiner releases a held .com update after at most 64 cycles. -/
  | combinerFlush (k : Nat)
  /-- COM_BATCH_APPLY (R179): The home applies a batch of merged .com updates as one write. -/
  | comBatchApply (key : Nat)
  /-- PTS_TICK (R162): An agent's pts rises by 1 after 256 cycles without a raising access. -/
  | ptsTick (ck c : Nat)
  /-- WCNT_IDLE_TICK (R102): WCNT falls by 1 after each 8 cycles in which the core issues nothing. -/
  | wcntIdleTick (ck c : Nat)
  /-- OVERLONG_HOLD_WAIT (R104): WCNT reaching zero in a hold-wait makes a yield point that ends, parks or reloads. -/
  | overlongHoldWait (ck c : Nat)
  /-- TASK_DISPATCH (R95): The heddle dispatches one ready task per heddle cycle to a free core of its context. -/
  | taskDispatch (ck : Nat)
  /-- STAGING_START (R99): The heddle starts staging a task, reserving landing regions and issuing its tile pushes. -/
  | stagingStart (ck : Nat)
  /-- TILE_PUSH_LANDED (R36): A staging tile lands; the last one makes the task ready. -/
  | tilePushLanded (ck slot arg : Nat)
  /-- OUTPUT_WRITE_BACK_DONE (R37): Completion of output write-back lets the future be resolved or poisoned. -/
  | outputWriteBackDone (ck slot : Nat)
  /-- WAKE_WAITERS (R45): The home heddle wakes a filled future's waiters one per heddle cycle in join order. -/
  | wakeWaiters (ck slot : Nat)
  /-- COPY_COMPLETE (R236): A copy completes and writes its status word at t_c. -/
  | copyComplete (id : Nat)
  /-- ENGINE_JOB_COMPLETE (R173): A gather or scatter job commits its writes at its completion time. -/
  | engineJobComplete (id : Nat)
  /-- QUEUE_SLOT_LANDING (R126): A producer's 64-byte slot lands at a queue tail and raises n by 1. -/
  | queueSlotLanding (id : Nat)
  /-- LOOM_PIECE_START (R112): At each step boundary the loom chooses and starts the next piece by priority and weighted round robin. -/
  | loomPieceStart (ck : Nat)
  /-- LOOM_COMMAND_COMPLETE (R225): A loom command finishes or fails and writes its status word. -/
  | loomCommandComplete (ck c : Nat)
  /-- LOOM_FREEZE_DONE (R228): Every loom queue has stopped and the freeze status is written. -/
  | loomFreezeDone (ck : Nat)
  /-- PLACER_TASK (R93): The placer takes the next task of a launch record and chooses its die. -/
  | placerTask (die : Nat)
  /-- TASK_PLACEMENT (R94): A placement message at the target placer places the task on a cluster. -/
  | taskPlacement (p : Packet)
  /-- LAUNCH_QUEUE_DRAIN (R89): A spilled launch record moves into the die queue when an entry frees. -/
  | launchQueueDrain (die : Nat)
  /-- LAUNCH_RELEASE (R309): A held launch is released when its predecessors complete or its phase barrier passes. -/
  | launchRelease (die k : Nat)
  /-- SWEEP_START (R114): Every 1,024 heddle cycles the launch's home die starts a meridian sweep. -/
  | sweepStart (die k : Nat)
  /-- SWEEP (R244): A sweep message gathers sent and received counts and idle flags at the combiners. -/
  | sweep (die k : Nat)
  /-- SWEEP_RESULT (R114): A completed sweep decides whether the launch has ended and fills its completion future. -/
  | sweepResult (die k : Nat)
  /-- PHASE_BARRIER_PASS (R56): The barrier passes when enough modules entered, filling the phase future. -/
  | phaseBarrierPass (die k : Nat)
  /-- KEPT_ENTRY_SCAN (R84): After a launch ends, the home frees its kept entries one per heddle cycle. -/
  | keptEntryScan (ck : Nat)
  /-- CANCEL_SCAN_STEP (R83): The cancellation scan examines one almanac entry per heddle cycle and cancels descendants. -/
  | cancelScanStep (ck : Nat)
  /-- BALANCER_CHECK (R109): Every 1,024 heddle cycles the die balancer compares queue lengths and starts moves. -/
  | balancerCheck (die : Nat)
  /-- MIGRATION_COPY_DONE (R110): The destination's copy of a migrating task completes and the task becomes ready there. -/
  | migrationCopyDone (ck slot : Nat)
  /-- FORWARDING_ENTRY_EXPIRY (R111): A forwarding entry expires 64 µs after installation. -/
  | forwardingEntryExpiry (ck k : Nat)
  /-- REMOTE_LOAD (R244): A target station performs a type-100 remote load. -/
  | remoteLoad (p : Packet)
  /-- REMOTE_STORE (R244): A target station performs a type-100 remote store. -/
  | remoteStore (p : Packet)
  /-- REMOTE_AMO (R244): A target station performs a type-100 remote atomic. -/
  | remoteAmo (p : Packet)
  /-- REMOTE_CAS (R244): A target station performs a type-100 remote compare-and-swap. -/
  | remoteCas (p : Packet)
  /-- ANSWER (R244): An answer to a remote request arrives at the issuing station. -/
  | answer (p : Packet)
  /-- REMOTE_TOUCH (R85): The home heddle performs a remote TOUCH and answers or records a remote waiter. -/
  | remoteTouch (p : Packet)
  /-- REMOTE_RESOLVE (R85): The home heddle performs a remote RESOLVE. -/
  | remoteResolve (p : Packet)
  /-- REMOTE_POISON (R85): The home heddle performs a remote POISON. -/
  | remotePoison (p : Packet)
  /-- REMOTE_CANCEL (R85): The home heddle performs a remote CANCEL. -/
  | remoteCancel (p : Packet)
  /-- REMOTE_DEPDEC (R85): The home heddle performs a remote DEPDEC. -/
  | remoteDepdec (p : Packet)
  /-- REMOTE_FSPILL (R85): The home heddle performs a remote FSPILL. -/
  | remoteFspill (p : Packet)
  /-- REMOTE_FFILL (R85): The home heddle performs a remote FFILL. -/
  | remoteFfill (p : Packet)
  /-- REMOTE_WAKE (R45): A wake message makes a remote waiter ready to re-execute its TOUCH. -/
  | remoteWake (p : Packet)
  /-- RSTV_STORE (R250): A group store arrives and is applied, applied to the image, forwarded or bounced. -/
  | rstvStore (p : Packet)
  /-- CHANNEL_DELIVERY (R32): A message to a bound channel is queued and creates a stream-handler activation. -/
  | channelDelivery (p : Packet)
  /-- ACTIVATION_CREATE (R28): A queued channel message gets a freed almanac entry or its gate count and becomes an activation. -/
  | activationCreate (ck space ch : Nat)
  /-- ENTRY_ADDRESS_MESSAGE (R245): An entry-address message makes the target heddle create a task of the sender's launch. -/
  | entryAddressMessage (p : Packet)
  /-- LCMD_CREATE_JOB (R56): Creates a job record, its standing launch and its completion future. -/
  | lcmdCreateJob (die : Nat) (lca lcb : Word)
  /-- LCMD_OPEN_PHASE (R56): Creates a phase record and makes it the job's current phase. -/
  | lcmdOpenPhase (die : Nat) (lca lcb : Word)
  /-- LCMD_CLOSE_JOB (R56): Marks the job's current phase last. -/
  | lcmdCloseJob (die : Nat) (lca lcb : Word)
  /-- ASPLIT_WRITE (R139): Requests a new scratchpad split, refusing it if regions would not fit. -/
  | asplitWrite (ck : Nat) (v : Word)
  /-- ASPLIT_APPLY (R139): At the first idle heddle cycle the pending split takes effect. -/
  | asplitApply (ck : Nat)
  /-- LPOOL_WRITE (R141): Places the landing pool, ignoring an invalid placement. -/
  | lpoolWrite (ck : Nat) (v : Word)
  /-- EBSTAT_CLEAR (R278): Clears an error bank if EBSTAT still holds the written value. -/
  | ebstatClear (bank : Nat) (v : Word)
  /-- L2_COUNTER_CLEAR (R159): A write of zero clears an L2 event counter. -/
  | l2CounterClear (die off : Nat) (v : Word)
  /-- DEVICE_REGISTER_WRITE (R150): An aligned 8-byte write to a device register with no behaviour of its own. -/
  | deviceRegisterWrite (pa : Nat) (v : Word)
  /-- MSIX_VECTOR_SEND (R258): A store to the MSI-X offset sends that vector to the host. -/
  | msixVectorSend (io vec : Nat) (v : Word)
  /-- BOOTE_WRITE (R282): Binds channel 0 of context 0 on cluster 0 of die 0 to the supervisor entry. -/
  | booteWrite (v : Word)
  /-- FILTER_CONSUMER_WRITE (R262): Writes a chronograph filter's consumer index only. -/
  | filterConsumerWrite (io f : Nat) (v : Word)
  /-- HOST_MESSAGE_WRITE (R259): A 64-byte posted write to the message aperture becomes a message to supervisor channel 0. -/
  | hostMessageWrite (port off len : Nat) (data : Vec)
  /-- HOST_MEMORY_ACCESS (R260): A host access through the memory aperture is translated and performed by the port. -/
  | hostMemoryAccess (port va len : Nat) (write : Bool) (data : Nat)
  /-- CHRONOGRAPH_FRAME (R263): A received frame is filtered, landed in a ring slot with a header, and announced by a message. -/
  | chronographFrame (port : Nat) (fcs : Bool) (bytes : List Byte) (sec ns : Nat)
  /-- PTP_MESSAGE (R261): A received IEEE 1588 message is timestamped and disciplines PTIME. -/
  | ptpMessage (port ns : Nat)
  /-- FABRIC_HEADER_ERROR (R257): A switch ends a forwarded packet with a poisoned end flit; priority packets are resent by the previous hop. -/
  | fabricHeaderError (k : Nat)
  /-- END_TO_END_TIMEOUT (R257): After 20 µs a non-priority packet is retransmitted, failing after four tries. -/
  | endToEndTimeout (k : Nat)
  /-- LINK_MARGIN_LOSS (R256): A link falls back to NRZ, then half width, then down. -/
  | linkMarginLoss (port : Nat) (low high : Bool)
  /-- MODULE_FAILURE_MARK (R253): The health controller marks a failed module at its neighbours for detour routing. -/
  | moduleFailureMark (m : Nat)
  /-- CORRECTED_ERROR_WINDOW (R281): At the end of each one-second window the controller checks corrected-error counts. -/
  | correctedErrorWindow (ck errors : Nat)
  /-- PATROL_SCRUB (R281): The patrol scrubber reads and corrects HBM and L2 lines. -/
  | patrolScrub (pa : Nat) (uncorrectable : Bool)
  /-- CLUSTER_RETEST (R280): A drained cluster is retested and moved to a new health state. -/
  | clusterRetest (ck state volts : Nat)
  /-- POWER_ON (R282): Power-on runs bring-up: firmware check, training, zeroing and creation of context 0. -/
  | powerOn (imageOk : Bool)
  /-- RESET_REQUEST (R282): A reset requested through a host status page runs bring-up. -/
  | resetRequest (imageOk : Bool)
  /-- UNASSIGNED_INSTRUCTION_WORD (R297): A fetched word with an unassigned MAJ, fn, loom fn or hint kind, or a non-zero reserved field, takes ILLEGAL whatever its guard. -/
  | unassignedInstructionWord (w : IWord)
  /-- KILL_MESSAGE (R275): A job's kill message reaches each module of the job, which stops its cores, ends its tasks and discards its queued work. -/
  | killMessage (space code : Nat)
  /-- QNT_QUANTUM_WRITE (R180): The home applies the pending .qnt updates of a quantum at a location as one write at the quantum boundary. -/
  | qntQuantumWrite (loc quantum : Nat)
  /-- JOB_READ_PASS_DONE (R173): An engine job finishes reading its read footprint, releasing held same-cluster stores and writes held at an array home. -/
  | jobReadPassDone (id : Nat)
  /-- CONTEXT_SWITCH (R135): The supervisor switches a core to another context, raising pre-emption requests that park every running task of the outgoing context. -/
  | contextSwitch (ck c space : Nat)
  deriving DecidableEq, Repr

end Sys2Proof
end

