-- ==== Sys2Proof/Machine/Accept.lean ====
section
/-! DEFINITION. What a word must hold beyond its layout: register classes, type codes, variants and codes that an
instruction does not accept take ILLEGAL (R295, R297, R311 and each entry). -/

namespace Sys2Proof.Machine

/-- Vector type codes 0 to 10 (R423). -/
def arithType (t : BitVec 5) : Bool := t.toNat ≤ 10
/-- Types of gathers and scatters (R241). -/
def moveType (t : BitVec 5) : Bool := t.toNat ≤ 12 || t.toNat == 15
/-- A field that takes vectors only (R295). -/
def isVec (r : BitVec 5) : Bool := r.toNat < 24
/-- A moment field (R295). -/
def isMom (r : BitVec 5) : Bool := r.toNat < 16

/-- The numbers of system registers (R131). -/
def sysNumber (n : Nat) : Bool :=
  n ≤ 3 || (0x10 ≤ n && n ≤ 0x19) || (0x20 ≤ n && n ≤ 0x2B) || (0x30 ≤ n && n ≤ 0x3F)

/-- AMO's operation, size, use and scope (R317, R318). -/
def amoAccepted (u : BitVec 3) (s : BitVec 2) (z : BitVec 1) (o : BitVec 4) : Bool :=
  o.toNat ≤ 9 && !(o.toNat == 9 && z == 0) && u.toNat ≤ 5 &&
    (if u == 2 || u == 4 then o != 0 else s == 0)

/-- Whether the fields of an instruction are ones it accepts; if not it takes ILLEGAL with the word in TVAL. -/
def accepted : Instr → Bool
  | .cmp _ _ _ c _ => c.toNat < 10
  | .call k _ => k != 0
  | .spawn _ a _ => a.toNat ≤ 28
  | .touch _ _ v => v.toNat ≤ 2
  | .hold d _ => isVec d
  | .ldm t _ _ => isMom t
  | .stm t _ _ => isMom t
  | .gath _ _ _ t => moveType t
  | .scat _ _ _ t => moveType t
  | .amo _ _ s u z o => amoAccepted u s z o
  | .cas d _ u _ => d != 31 && (u == 0 || u == 1 || u == 3 || u == 5)
  | .adv q _ _ => 24 ≤ q.toNat
  | .rstv _ _ n v => isVec n && isVec v
  | .rstvLaneRange _ _ _ n v => isVec n && isVec v
  | .vadd _ _ _ t | .vsub _ _ _ t | .vmul _ _ _ t | .vmin _ _ _ t | .vmax _ _ _ t => arithType t
  | .vfma d _ _ t => arithType t && isVec d
  | .vabs _ _ t => arithType t
  | .vsel d _ _ t => t.toNat ≤ 12 && isVec d
  | .vmov _ _ t => t.toNat ≤ 13
  | .vbit d _ _ t => t.toNat ≤ 13 && isVec d
  | .vperm _ _ _ t => t.toNat ≤ 12
  | .vtrn d a t => t.toNat ≤ 12 && d.toNat ≤ 16 && a.toNat ≤ 16
  | .vbcast _ _ t => t.toNat ≤ 12
  | .vidx _ _ t => t.toNat ≤ 7
  | .vred _ _ t => arithType t
  | .vdot d _ _ t => (t.toNat ≤ 1 || (9 ≤ t.toNat && t.toNat ≤ 12)) && isVec d
  | .vcvt _ _ e s => e.toNat ≤ 13 && s.toNat ≤ 13
  | .vcmp _ _ _ _ c _ _ t => c.toNat < 10 && t.toNat ≤ 10 && !(6 ≤ c.toNat && 8 ≤ t.toNat)
  | .vrcp _ _ t | .vrsq _ _ t | .vexp2 _ _ t | .vlog2 _ _ t | .vsin _ _ t | .vtanh _ _ t =>
    8 ≤ t.toNat && t.toNat ≤ 10
  | .madd d a b _ | .msub d a b _ | .mmul d a b _ | .mfma d a b _ => isMom d && isMom a && isMom b
  | .mscl d a _ _ => isMom d && isMom a
  | .msq d a _ | .mrelu d a _ | .mexp d a _ | .msigm d a _ => isMom d && isMom a
  | .mset d _ _ _ => isMom d
  | .mcoll _ a f k _ => isMom a && (2 ≤ f.toNat || k == 0)
  | .lmbind _ _ _ _ t => t == 9 || (11 ≤ t.toNat && t.toNat ≤ 14)
  | .lmrun _ _ _ t => t == 9 || (11 ≤ t.toNat && t.toNat ≤ 13)
  | .lmdrn _ _ _ _ t => 8 ≤ t.toNat && t.toNat ≤ 12
  | .ckacc d a => isVec d && isVec a
  | .cktst x y _ => isVec x && isVec y
  | .mfs _ n => sysNumber n.toNat
  | .mts _ n => sysNumber n.toNat
  | .xinv a b v => v.toNat ≤ 2 && (v != 0 || a == 0) && (v == 2 || b == 0)
  | _ => true

end Sys2Proof.Machine
end

