-- ==== Sys2Proof/Config.lean ====
section
/-! DEFINITION. What an implementation fixes and the spec does not state: free values. Each is an opaque constant, so
that no proof knows a value of it. -/

namespace Sys2Proof.Config

/-- The free values, one for each number of the counter `State.free` (log entries 3 to 6): what a read of host
memory returns, how far PTIME advances, which of two outcomes the spec allows. -/
opaque freeNat : Nat → Nat

/-- VRCP, VRSQ, VEXP2, VLOG2, VSIN and VTANH of an F32 operand, by function code: the bits that R201 does not fix
(log entry 7). -/
opaque special : Nat → BitVec 32 → BitVec 32

/-- The variance and mean bits of MRELU, MEXP and MSIGM that R205 does not fix, by function code, part (0 mean,
1 variance) and the source's mean and variance bits (log entry 8). -/
opaque moment : Nat → Nat → Nat → Nat → Nat

/-- Whether a fetch of a word that the core stored to since its last CMO.I sees the new word: R284 allows either (log
entry 9). -/
opaque fetchSeesNew : Nat → Bool

/-- Which of several places is taken for a new object, where the spec does not say: a region in the landing pool, a record
of a ladder table (log entries 12 and 20). -/
opaque place : Nat → Nat

/-- The syndrome of an error, by the step that records it and its address: R276 gives none (log entry 6). -/
opaque syndrome : Nat → Nat → Nat

/-- How many output slots a transit station has beside its first (R246; log entry 60). -/
opaque outputSlots : Nat

/-- Whether the supervisor's grant to a job, known by its handle, takes clusters in the held-clock state: no register says it
(R94, R280; log entry 41). -/
opaque grantTakesHeld : Word → Bool

/-- The nanoseconds that pass in a step: the spec gives no step a duration (log entry 4). -/
opaque elapsed : Nat → Nat

end Sys2Proof.Config
end

