-- ==== Sys2Proof/Machine/Bits.lean ====
section
/-! DEFINITION. Bit fields, sign extension, byte order (R3, R20, R21) and the sparse table that holds every
indexed part of the state. -/

namespace Sys2Proof.Machine

/-- Bits [lo + n - 1 : lo] of a natural number, as a natural number. -/
def fld (w lo n : Nat) : Nat := (w >>> lo) % 2 ^ n

/-- Bit i of a natural number. -/
def bit (w i : Nat) : Bool := (w >>> i) % 2 == 1

/-- Bits [lo + n - 1 : lo] of w replaced by v. -/
def putFld (w lo n v : Nat) : Nat := w - fld w lo n * 2 ^ lo + (v % 2 ^ n) * 2 ^ lo

/-- SignExtend(x, n) of R21. -/
def sext (x n : Nat) : Int :=
  let u := x % 2 ^ n
  if 2 * u < 2 ^ n then (u : Int) else (u : Int) - (2 ^ n : Nat)

/-- The low n bits of an integer in two's complement (R20). -/
def lowBits (z : Int) (n : Nat) : Nat := (z % ((2 ^ n : Nat) : Int)).toNat

/-- A general register's value from an integer, modulo 2^64. -/
def wordOfInt (z : Int) : Word := BitVec.ofInt 64 z

/-- A general register's value from a natural number, modulo 2^64. -/
def wordOfNat (n : Nat) : Word := BitVec.ofNat 64 n

/-- One bit as a number. -/
def b2n (b : Bool) : Nat := if b then 1 else 0

/-- The number held by bytes in little-endian order (R3). -/
def leNat : List Byte → Nat
  | [] => 0
  | b :: bs => b.toNat + 256 * leNat bs

/-- The n bytes of a number in little-endian order (R3). -/
def leBytes : Nat → Nat → List Byte
  | 0, _ => []
  | n + 1, v => BitVec.ofNat 8 v :: leBytes n (v / 256)

/-- A sparse table: each key at most once, keys rising. -/
abbrev SMap (α : Type) := List (Nat × α)

/-- The value of a key, and the key's default where the table does not list it. -/
def mget {α : Type} (d : Nat → α) : SMap α → Nat → α
  | [], k => d k
  | (j, v) :: m, k => if j = k then v else mget d m k

/-- Remove a key. -/
def mdel {α : Type} : SMap α → Nat → SMap α
  | [], _ => []
  | (j, v) :: m, k => if j = k then mdel m k else (j, v) :: mdel m k

/-- Insert a key before the first key above it. -/
def mins {α : Type} (k : Nat) (v : α) : SMap α → SMap α
  | [] => [(k, v)]
  | (j, u) :: m => if k < j then (k, v) :: (j, u) :: m else (j, u) :: mins k v m

/-- Give a key a value. -/
def mput {α : Type} (m : SMap α) (k : Nat) (v : α) : SMap α := mins k v (mdel m k)

/-- Give a key a value in the canonical form: a key with its default value is not listed. -/
def mset {α : Type} [DecidableEq α] (d : Nat → α) (m : SMap α) (k : Nat) (v : α) : SMap α :=
  if v = d k then mdel m k else mput m k v

/-- The canonical form of a table: keys strictly rising, no entry equal to its key's default. -/
abbrev mwf {α : Type} [DecidableEq α] (d : Nat → α) (m : SMap α) : Prop :=
  m.Pairwise (fun x y => x.1 < y.1) ∧ ∀ x ∈ m, x.2 ≠ d x.1

/-- The first index below n that satisfies a test. -/
def firstBelow (n : Nat) (p : Nat → Bool) : Option Nat := (List.range n).find? p

/-- The smallest element of a list under a key, an earlier element on a tie. -/
def minBy {α : Type} (key : α → Nat) : List α → Option α
  | [] => none
  | x :: xs =>
    match minBy key xs with
    | none => some x
    | some y => if key y < key x then some y else some x

/-- Insert an element into a sorted list, after those with an equal key. -/
def insertBy {α : Type} (key : α → Nat) (x : α) : List α → List α
  | [] => [x]
  | y :: ys => if key x < key y then x :: y :: ys else y :: insertBy key x ys

/-- Sort a list by a key; equal keys keep their order. -/
def sortBy {α : Type} (key : α → Nat) (l : List α) : List α := l.foldl (fun r x => insertBy key x r) []

end Sys2Proof.Machine
end

