-- ==== Sys2Proof/Machine/State.lean ====
section
/-! DEFINITION. The state of one KV1600 module, plain data, its memory with its canonical form, the reasons a step
can stop, and the state at the end of bring-up (R282, R283). Every default that no rule gives is in log entry 1. -/

namespace Sys2Proof.Machine

/-- The key of an array byte: offset `off` of the scratchpad of cluster `ck` (R137, R146). -/
def arrayKey (ck off : Nat) : Nat := 2199023255552 + ck * 262144 + off

/-- The key of a byte of a chronograph port's landing buffer (R146, type 110). -/
def landingKey (port addr : Nat) : Nat := 1152921504606846976 + port * 4503599627370496 + addr

/-- What a byte that is not listed reads as: the tables and the spill header that bring-up writes (R282, R283), and
zero elsewhere (R282 step 3; for the arrays and the landing buffers log entry 2). -/
def resetByte (k : Nat) : Byte :=
  if k < 2359296 then 0
  else if k = 2359297 then 4
  else if k < 1099509530624 then 0
  else if k < 1099509530632 then BitVec.ofNat 8 (0xFFFFF00001 >>> (8 * (k - 1099509530624)))
  else if k < 1099510579200 then 0
  else if k < 1099510579208 then BitVec.ofNat 8 (0xFFFFF08001 >>> (8 * (k - 1099510579200)))
  else if k < 1099510611968 then 0
  else if k < 1099510614016 then
    BitVec.ofNat 8 ((0x8000000000000363 + ((k - 1099510611968) / 8) * 4294967296) >>> (8 * (k % 8)))
  else 0

/-- Memory: pairs of a key and a byte. -/
abbrev Memory := List Host.Cell

/-- The canonical form of memory: keys strictly rising, no entry equal to what an unlisted key reads as. -/
abbrev Memory.wf (m : Memory) : Prop := mwf resetByte m

/-- The state of an almanac entry (R62). -/
inductive FState where
  | free | empty | full | poisoned | cancelled | spilled
  deriving DecidableEq, Repr

/-- One almanac entry and its slot's count (R62, R63). -/
structure Entry where
  st : FState := .free
  gen : Nat := 0
  /-- generation issued when the slot was last allocated (R63) -/
  count : Nat := 0
  value : Word := 0
  parent : Word := 0
  owner : Word := 0
  /-- waiter list: local slots 0-4095, remote-waiter nodes 4096 + node -/
  waiters : List Nat := []
  /-- those of the waiters that are still to be woken (R45) -/
  toWake : List Nat := []
  refill : List Nat := []
  keep : Bool := false
  age : Nat := 0
  task : Bool := false
  consumed : Bool := false
  /-- scan bits 0 and 1 -/
  scan0 : Bool := false
  scan1 : Bool := false
  /-- fill time (R171) -/
  fillTime : Nat := 0
  /-- launch of a kept future, and whether that launch has ended (R84) -/
  launch : Word := 0
  ended : Bool := false
  /-- context of the future that the slot holds or held last (R66 to R68) -/
  space : Nat := 0
  /-- an uncorrectable error in the entry that nothing has met yet (R272) -/
  ue : Bool := false
  deriving DecidableEq, Repr

/-- Task states (R30). -/
inductive TState where
  | free | waiting | staging | ready | running | parkedTouch | parkedPre | ending
  deriving DecidableEq, Repr

/-- A stretch of bytes at one home (R146): memory by key, host memory, or another module's memory. -/
inductive Seg where
  | mem (key len leaf : Nat)
  | host (port addr len : Nat)
  | remote (module va len : Nat)
  deriving DecidableEq, Repr

/-- One declared tile of a task (R26, R36, R37): argument number, kind 1 to 3, declared address, length, the offset
of its landing region, and whether it landed or was written back. -/
structure Tile where
  arg : Nat
  kind : Nat
  addr : Word
  len : Nat
  region : Option Nat := none
  done : Bool := false
  /-- the bytes of a push that is on its way, the time at which it read them, and its place among the cluster's jobs (R36,
  R173, R174) -/
  data : List Byte := []
  time : Nat := 0
  seq : Nat := 0
  deriving DecidableEq, Repr

/-- One loom command in a queue (R222 to R224, R230). `steps` counts the steps of LMRUN and LMMOM (R225). -/
structure LCmd where
  fn : Nat := 0
  /-- region register, second register, control field -/
  region : Word := 0
  second : Nat := 0
  control : Nat := 0
  /-- logical index of the status destination -/
  dest : Nat := 0
  /-- negative-variance choice at issue (R215) -/
  clamp : Bool := false
  /-- SCBASE and SCSHIFT at issue (R217) -/
  scbase : Word := 0
  scshift : Nat := 0
  space : Nat := 0
  priv : Bool := false
  /-- DDOM of the task when it issued the command (R156, R383) -/
  ddom : Nat := 0
  /-- acceptance order (R224), issue time and issue key (R173; log entry 66) -/
  seq : Nat := 0
  time : Nat := 0
  key : Nat := 0
  /-- steps done, and the failure met so far with its reason (R225) -/
  steps : Nat := 0
  code : Nat := 0
  reason : Nat := 0
  /-- pieces done (R224), and the read time once it began (R173) -/
  piece : Nat := 0
  tr : Option Nat := none
  /-- its first piece was begun -/
  begun : Bool := false
  /-- homes of the scale lines that an LMRUN is still to read, until it begins, and those lines of them that a write has
  reached since, by key of their 64 bytes (R233) -/
  scale : List Seg := []
  kept : SMap Nat := []
  /-- pieces are at an end: results and status word are still to be written -/
  finished : Bool := false
  /-- bytes read for a bind, or to be written at the completion time -/
  out : List Byte := []
  /-- slots that were released while the command was frozen, as a mask (R211) -/
  gone : Nat := 0
  /-- a privileged drain that runs ahead of every queue (R220) -/
  ahead : Bool := false
  /-- lines of the footprint that were copied to the pool while frozen: line offset to copy offset (R233) -/
  copies : SMap Nat := []
  deriving DecidableEq, Repr

/-- The state a loom command finds beside the queue: accumulator flags as 4-bit masks, status parts (R218, R227). -/
structure CoreLoom where
  inUse : Nat := 0
  dirty : Nat := 0
  zero : Nat := 0
  /-- F32 bits of element (i, j) of accumulator k at key 1024 k + 32 i + j -/
  acc : SMap (BitVec 32) := []
  queue : List LCmd := []
  weight : Nat := 0
  firstFail : Nat := 0
  failed : Nat := 0
  frozen : Bool := false
  /-- scale cache binding: base and shift (R217) -/
  cache : Option (Word × Nat) := none
  /-- cached lines: line address to its 64 bytes as one number -/
  lines : SMap Nat := []
  /-- uncorrectable-error marks of accumulators -/
  ue : Nat := 0
  /-- the bindings of resumptions, each with the number of the last command that was accepted before it and still finds the
  earlier binding (R217, R231, R233) -/
  rebinds : List (Nat × Word × Nat) := []
  deriving DecidableEq, Repr

/-- An operand queue of a core (R124, R127): the slots stand in array memory at region + 128 + 64 i. -/
structure OpQueue where
  head : Nat := 0
  n : Nat := 0
  region : Option Nat := none
  /-- a producer waits for space -/
  waits : Bool := false
  /-- slots marked by an uncorrectable error with the TVAL that UE brings -/
  marks : SMap Nat := []
  deriving DecidableEq, Repr

/-- Hold count and arrival count of a vector register (R251). -/
structure Hold where
  cnt : Nat := 0
  arrivals : Nat := 0
  deriving DecidableEq, Repr

/-- The trap registers (R131) and the trap bookkeeping of R342 and R451. -/
structure Trap where
  cause : Word := 0
  pc : Word := 0
  value : Word := 0
  base : Word := 0
  /-- TBASE was written since bring-up (R282) -/
  written : Bool := false
  /-- count of entered handlers (R451) -/
  depth : Nat := 0
  /-- kill flag: 0 clear, 1 set by WDOG, 2 set by FATALX (R342) -/
  kill : Nat := 0
  deriving DecidableEq, Repr

/-- GSTAT (R131) and the gang's followers' save region (R134). -/
structure Gang where
  code : Nat := 0
  standing : Bool := false
  leader : Nat := 0
  member : Nat := 0
  memberTrap : Bool := false
  /-- this core is a follower of the named leader -/
  follows : Option Nat := none
  save : Option Nat := none
  /-- the size of the block that a GANG in execution waits for (R345), 0 where none does -/
  forming : Nat := 0
  deriving DecidableEq, Repr

/-- The unit being executed (R285): the address of its first word and of its last word, the WIDE payloads joined and
their number (R288), the MODE payload, and the last word. -/
structure ExecUnit where
  base : Word := 0
  here : Word := 0
  wide : Nat := 0
  wides : Nat := 0
  mode : Nat := 0
  word : Nat := 0
  deriving DecidableEq, Repr

/-- Task-scope modes of a core (R131). -/
structure Modes where
  fpmode : Nat := 0
  covmode : Nat := 0
  scbase : Word := 0
  scshift : Nat := 0
  deriving DecidableEq, Repr

/-- One core (R7, R117 to R136). -/
structure Core where
  /-- 128 physical general registers -/
  regs : SMap Word := []
  b : Nat := 0
  f : Nat := 0
  pc : Word := 0
  priv : Bool := false
  running : Option Nat := none
  space : Nat := 0
  vregs : SMap Vec := []
  mregs : SMap Mom := []
  queues : SMap OpQueue := []
  trap : Trap := {}
  modes : Modes := {}
  wcnt : Nat := 4096
  /-- unhandled copy, gather or scatter failures in order: the logical register that holds the status, none once it is
  written again, and the code (R273) -/
  fails : List (Option Nat × Nat) := []
  loom : CoreLoom := {}
  pts : Nat := 0
  holds : SMap Hold := []
  gang : Gang := {}
  /-- marked vector, logical general and moment registers with the TVAL that UE brings (R242, R266, R268) -/
  vmarks : SMap Nat := []
  gmarks : SMap Word := []
  mmarks : SMap Word := []
  /-- code words stored since the last CMO.I, with the word that stood there (R284) -/
  oldCode : SMap Nat := []
  unit : ExecUnit := {}
  /-- the next unit waits: nothing was issued (R103) -/
  waiting : Bool := false
  /-- a trap was entered and its vector was not fetched yet (R271) -/
  vectoring : Bool := false
  /-- a pre-emption request is pending (R107) -/
  preempt : Bool := false
  /-- order of the task's dispatch (R107) -/
  dispatched : Nat := 0
  /-- largest time of the task's earlier use-annotated atomics and engine jobs (R182) -/
  usedTime : Nat := 0
  /-- time of the issuer's previous .nord atomic (R178) -/
  nordTime : Nat := 0
  /-- pieces that the core's loom commands have started in this round, and the core's weight in it (R112, R371) -/
  credit : Nat := 0
  share : Nat := 0
  /-- answers of other homes that the waiting unit has received, and how many it has asked for (R168, R419) -/
  answers : List Nat := []
  asked : Nat := 0
  /-- the largest PTIME the core has read (R382) -/
  seen : Nat := 0
  deriving DecidableEq, Repr

/-- What a park by pre-emption keeps beside the park record (R108, R133, R230). -/
structure Parked where
  loom : CoreLoom := {}
  queues : SMap OpQueue := []
  /-- the followers' queues of a parked gang, in member order -/
  followers : List (SMap OpQueue) := []
  /-- the marks of the followers' vector registers, in member order (R242) -/
  followMarks : List (SMap Nat) := []
  holds : SMap Hold := []
  wake : Nat := 0
  vmarks : SMap Nat := []
  gmarks : SMap Word := []
  mmarks : SMap Word := []
  fails : List (Option Nat × Nat) := []
  saveRegion : Option Nat := none
  gangSave : Option Nat := none
  scbase : Word := 0
  scshift : Nat := 0
  /-- the result a remote TOUCH brought: POISONED is taken at the resumed TOUCH (R85) -/
  poisonAt : Bool := false
  /-- vector registers that group stores wrote while the task was ready (R250) -/
  vregs : SMap Vec := []
  /-- kill flag of the handler that was parked (R342) -/
  kill : Nat := 0
  /-- times that a FENCE and the next .nord atomic need (R178, R182) -/
  usedTime : Nat := 0
  nordTime : Nat := 0
  deriving DecidableEq, Repr

/-- A task (R30) and what the heddle keeps beside its record. -/
structure Task where
  st : TState := .free
  space : Nat := 0
  entry : Word := 0
  a0 : Word := 0
  a1 : Word := 0
  a2 : Word := 0
  a3 : Word := 0
  a4 : Word := 0
  touch : Word := 0
  pc : Word := 0
  deadline : Nat := 0
  launch : Word := 0
  deps : Nat := 0
  cls : Nat := 2
  cancel : Bool := false
  retain : Bool := false
  depth : Nat := 0
  gang : Nat := 0
  fpmode : Nat := 0
  covmode : Nat := 0
  /-- dispatched at least once -/
  started : Bool := false
  priv : Bool := false
  /-- the entry is the task's future, with a handle given out (R28) -/
  visible : Bool := false
  /-- the task's own future, in its home almanac -/
  home : Word := 0
  tiles : List Tile := []
  /-- the code of a staging failure to report (R38), 0 none -/
  fail : Nat := 0
  /-- activation of a channel with its priority and its message's arrival (R32, R98), and queue gate (R128) -/
  chan : Option Nat := none
  prio : Nat := 0
  arrival : Nat := 0
  gateQueue : Option Nat := none
  gateMsgs : List Message := []
  handlers : Nat := 0
  /-- logical time kept (R162) -/
  pts : Nat := 0
  /-- order of creation and of becoming ready (R95, R97) -/
  born : Nat := 0
  since : Nat := 0
  bin : Nat := 0
  name : Word := 0
  /-- landing regions held beside the tiles: queue, loom save and gang save regions -/
  saveRegion : Option Nat := none
  parked : Parked := {}
  /-- window base at the park: every register below it is in the stack region (R120) -/
  base : Nat := 0
  /-- the value HALT names (R350) -/
  result : Word := 0
  /-- write footprint of the output write-back and its place among the cluster's jobs (R37, R173, R174) -/
  wsegs : List Seg := []
  wseq : Nat := 0
  wkey : Nat := 0
  /-- DDOM of its context when it halted (R383) -/
  wdom : Nat := 0
  /-- the write-back was made, and so many of its packets to other modules are not acknowledged (R37, R168) -/
  wsent : Bool := false
  wacks : Nat := 0
  prefer : Option Nat := none
  /-- the task moved here by migration, and it is about to move away (R110) -/
  moved : Bool := false
  leaving : Bool := false
  /-- the full state stands in the image of a park by pre-emption (R108, R133) -/
  image : Bool := false
  /-- it goes ahead of its bin, or of its staging order (R96, R100, R110) -/
  front : Bool := false
  deriving DecidableEq, Repr

/-- Context registers in one cluster (R131, R132, R283) and the message queues of its channels (R247). -/
structure Ctx where
  live : Bool := false
  ftBase : Nat := 0
  ftLimit : Nat := 64
  ylim : Nat := 4096
  ddom : Nat := 0
  spilla : Nat := 0x200000
  lspill : Nat := 0x240000
  parkb : Word := 0x8000000000000000
  stkb : Nat := 0x100000
  tdef : Nat := 0
  bounce : Nat := 0
  /-- a spill record of the context was written here (R75) -/
  spilled : Bool := false
  chb : SMap Word := []
  chans : SMap (List Packet) := []
  chanRegion : SMap Nat := []
  /-- the `.region` areas of the context's job, offset and length, which the loader places (R23, R307) -/
  dataRegions : List (Nat × Nat) := []
  deriving DecidableEq, Repr

/-- A reserved landing region (R141): offset, length, owner slot and kind. -/
structure Region where
  off : Nat
  len : Nat
  slot : Nat
  /-- 0 tile, 1 queue, 2 loom save, 3 gang save, 4 channel, 5 copied line, 6 migration -/
  kind : Nat
  deriving DecidableEq, Repr

/-- A landing permit (R240). -/
structure Permit where
  off : Nat
  len : Nat
  slot : Nat
  space : Nat
  deriving DecidableEq, Repr

/-- A group-name record (R404). -/
structure NameRec where
  gen : Nat := 0
  slot : Option Nat := none
  code : Nat := 0
  /-- the group of this generation has migrated (R250) -/
  moved : Bool := false
  deriving DecidableEq, Repr

/-- A loom slot (R209, R210): holder 0 free, 1 private, 2 shared. -/
structure WSlot where
  held : Nat := 0
  slot : Nat := 0
  space : Nat := 0
  type : Nat := 0
  /-- the block image and the 32 column scales, as numbers in little-endian order -/
  image : Nat := 0
  scales : Nat := 0
  ue : Bool := false
  deriving DecidableEq, Repr

/-- The loom shared by a cluster (R209 to R216, R228). -/
structure Loom where
  slots : SMap WSlot := []
  lattice : Nat := 0
  latticeTag : Option Nat := none
  latticeUe : Bool := false
  frozen : Bool := false
  /-- a freeze whose status word is not written yet: slot, count and register of its destination -/
  freezing : List Waiter := []
  /-- the core that began the round, and the core whose turn it is (R112) -/
  lastCore : Nat := 7
  cursor : Nat := 0
  deriving DecidableEq, Repr

/-- Kinds of engine jobs (R173). -/
inductive JobKind where
  | copy | gather | scatter
  deriving DecidableEq, Repr

/-- An engine job in flight (R173, R235, R241). -/
structure Job where
  id : Nat := 0
  kind : JobKind := .copy
  ck : Nat := 0
  core : Nat := 0
  slot : Nat := 0
  count : Nat := 0
  space : Nat := 0
  ddom : Nat := 0
  /-- logical index of the status destination, or the vector specifier -/
  dest : Nat := 0
  src : Word := 0
  dst : Word := 0
  len : Nat := 0
  queue : Option Nat := none
  /-- read and write footprints, in order of the bytes; a gather's or scatter's by lane (R173) -/
  rsegs : List Seg := []
  wsegs : List Seg := []
  /-- bytes of an element of a gather or scatter -/
  width : Nat := 0
  data : List Nat := []
  ti : Nat := 0
  tr : Nat := 0
  seq : Nat := 0
  /-- the read pass is done; then `bytes` holds what was read -/
  readDone : Bool := false
  bytes : List Byte := []
  landed : Nat := 0
  code : Nat := 0
  reason : Nat := 0
  committed : Nat := 0
  members : Nat := 1
  /-- the unit that issued it, where a late FATALX is taken (R149, R268) -/
  base : Word := 0
  /-- issue key (R173; log entry 66) -/
  key : Nat := 0
  /-- lines of its read footprint that were written since it was registered, as they stood before, by key (R173) -/
  kept : SMap Nat := []
  /-- lanes of a gather whose data had an uncorrectable error -/
  mask : Nat := 0
  discard : Bool := false
  dead : Bool := false
  /-- a copy to another module was sent, and so many of its packets are not acknowledged (R257) -/
  sent : Bool := false
  acks : Nat := 0
  /-- what it reads on other modules was asked for, and the pieces that came, by address (R149, R173) -/
  asked : Bool := false
  got : SMap Nat := []
  /-- the class and the launch of its task at issue (R113, R243) -/
  cls : Nat := 0
  launch : Word := 0
  deriving DecidableEq, Repr

/-- A forwarding entry (R111). -/
structure Fwd where
  /-- the task's own future and its group name, by which messages are known -/
  home : Word
  name : Word
  space : Nat
  dst : Nat
  dstSlot : Nat
  since : Nat
  deriving DecidableEq, Repr

/-- What a cluster has reserved for a task that moves to it (R110): where the task is, and its tiles in their new
regions. -/
structure Incoming where
  ck : Nat
  slot : Nat
  tiles : List Tile
  deriving DecidableEq, Repr

/-- An L1 line (R142, R166). -/
structure L1Line where
  space : Nat
  vline : Nat
  key : Nat
  share : Nat
  wts : Nat
  rts : Nat
  data : List Byte
  /-- the page size that the line was reached by, for XINV (R152) -/
  bits : Nat := 12
  /-- an uncorrectable error in the copy (R272) -/
  ue : Bool := false
  deriving DecidableEq, Repr

/-- An error bank (R276). -/
structure ErrBank where
  stat : Nat := 0
  addr : Word := 0
  synd : Word := 0
  time : Nat := 0
  deriving DecidableEq, Repr

/-- The heddle's dispatch bookkeeping (R95 to R98). -/
structure ClassQ where
  bin : Nat := 0
  fromBin : Nat := 0
  run : Nat := 0
  deriving DecidableEq, Repr

structure Heddle where
  /-- classes of the last 13 dispatches, newest first, and whether 13 were made -/
  last : List Nat := []
  classes : SMap ClassQ := []
  /-- cores free, the longest free first (R95) -/
  freeOrder : List Nat := [0, 1, 2, 3, 4, 5, 6, 7]
  /-- entries that wait for a cancellation scan (R83), the head one in progress at `scanPos` -/
  scans : List Nat := []
  scanPos : Nat := 0
  /-- launches whose kept entries are to be freed (R84) and the slot the scan is at -/
  kept : List Word := []
  keptPos : Nat := 0
  /-- a spill write under way: the victim's slot (R72) -/
  spilling : Option Nat := none
  /-- completions that arrived for that slot during the write: context, future, its state, value and time (R72) -/
  heldFills : List (Nat × Word × FState × Word × Nat) := []
  /-- spill timestamp (R171) -/
  spillTime : Nat := 0
  /-- remote-waiter nodes: the handle touched, the waiter's module and the waiter (R85) -/
  nodes : SMap (Word × Nat × Waiter) := []
  /-- spilled kept futures with the launch that keeps them (R84) -/
  keptSpilled : List (Word × Word) := []
  /-- sent and received counts per launch tag (R113) -/
  counts : SMap (Nat × Nat) := []
  /-- banks retained: core to successor entry (R48) -/
  retained : SMap Word := []
  pts : Nat := 0
  deriving DecidableEq, Repr

/-- One cluster (R5, R7). -/
structure Cluster where
  ctxs : SMap Ctx := []
  entries : SMap Entry := []
  tasks : SMap Task := []
  heddle : Heddle := {}
  asplit : Nat := 1
  asplitNext : Option Nat := none
  asplitRefused : Bool := false
  poolBase : Nat := 64
  poolLen : Nat := 64
  regions : List Region := []
  /-- landing regions reserved so far: the counter their places are chosen by (log entry 12) -/
  placed : Nat := 0
  permits : SMap Permit := []
  names : SMap NameRec := []
  loom : Loom := {}
  fwd : SMap Fwd := []
  /-- moves under way to this cluster, by the slot reserved for them (R110) -/
  incoming : SMap Incoming := []
  l1 : List L1Line := []
  /-- wts and rts of array lines, by line number, and the array memory timestamp (R164) -/
  times : SMap (Nat × Nat) := []
  mts : Nat := 0
  bank : ErrBank := {}
  hstate : Nat := 0
  volts : Nat := 0
  deriving DecidableEq, Repr

/-- Kinds of ladder records (R54). -/
inductive LKind where
  | free | launch | graph | phase | job
  deriving DecidableEq, Repr

/-- A record of the ladder table (R54 to R56). -/
structure Ladder where
  kind : LKind := .free
  gen : Nat := 0
  space : Nat := 0
  created : Nat := 0
  complete : Nat := 0
  poisoned : Nat := 0
  cancelled : Nat := 0
  firstError : Nat := 0
  /-- completion future -/
  future : Word := 0
  /-- launch: its graph and phase; graph: its phase; phase: its job; standing launch: its job -/
  parent : Word := 0
  job : Word := 0
  /-- graph tag or phase number; key of the launch in its graph; predecessor keys; final -/
  tag : Nat := 0
  key : Nat := 0
  preds : List Nat := []
  /-- launch: marked final; graph: a final launch was created -/
  final : Bool := false
  /-- graph: the keys of its launches, and whether each has completed (R309) -/
  keys : SMap Bool := []
  /-- the job was killed: the record stands until its SPACE is used again (R275) -/
  killed : Bool := false
  standing : Bool := false
  /-- the placer is done with it, the sweeps' state (R114) -/
  placed : Bool := false
  ended : Bool := false
  wasCancelled : Bool := false
  sweeping : Bool := false
  sweepIdle : Bool := false
  sweepSum : Nat := 0
  sweepRecv : Nat := 0
  /-- the last sweep found every cluster idle and S = V, with this S -/
  candidate : Option Nat := none
  sweeps : Nat := 0
  members : List Nat := []
  /-- phase: the phase that was the job's before it -/
  prev : Word := 0
  /-- job: current phase, last phase opened, standing launch; phase: modules, entered, passed -/
  current : Word := 0
  last : Bool := false
  modules : Nat := 0
  entered : Bool := false
  passed : Bool := false
  maxTime : Nat := 0
  deriving DecidableEq, Repr

/-- A launch record in the die's queue (R88, R308): the 128 bytes as 64-bit words, and how far the placer is. -/
structure QLaunch where
  words : List Word := []
  handle : Word := 0
  space : Nat := 0
  ck : Nat := 0
  cls : Nat := 2
  deadline : Nat := 0
  time : Nat := 0
  next : Nat := 0
  held : Bool := true
  /-- when it was appended to the launch spill area (R89) -/
  order : Nat := 0
  /-- the code for which the record is refused (R309), 0 none -/
  refused : Nat := 0
  deriving DecidableEq, Repr

/-- A translation (R151): SPACE, first page address, page bits, leaf. -/
structure Transl where
  space : Nat
  page : Nat
  bits : Nat
  leaf : Nat
  /-- an error in the cached entry that nothing has met yet (R272) -/
  ue : Bool := false
  deriving DecidableEq, Repr

/-- A tag of an L2 slice (R155, R164). -/
structure L2Tag where
  pa : Nat
  dirty : Bool := false
  dom : Nat := 0
  entry : Nat := 0
  wts : Nat := 0
  rts : Nat := 0
  used : Nat := 0
  deriving DecidableEq, Repr

/-- A data entry of an L2 slice (R155): its hash, count and domain, and where the content index names it. -/
structure L2Entry where
  id : Nat
  hash : Nat := 0
  count : Nat := 1
  dom : Nat := 0
  indexed : Bool := false
  way : Nat := 0
  wayUsed : Nat := 0
  used : Nat := 0
  deriving DecidableEq, Repr

/-- An L2 slice (R155 to R159). The bytes of every line stand in memory. -/
structure L2 where
  tags : List L2Tag := []
  entries : List L2Entry := []
  mts : SMap Nat := []
  nextId : Nat := 0
  shares : Nat := 0
  unshares : Nat := 0
  saturations : Nat := 0
  evictions : Nat := 0
  writebacks : Nat := 0
  /-- uses of index ways so far, the measure of their recency (R155) -/
  uses : Nat := 0
  deriving DecidableEq, Repr

/-- One compute die (R5). -/
structure Die where
  launchQ : List QLaunch := []
  /-- spilled launch bookkeeping: contexts with spilled launches in order (R89) -/
  spilled : List QLaunch := []
  ladder : SMap Ladder := []
  lcmd : Word := 0
  lca : Word := 0
  lcb : Word := 0
  lcres : Word := 0
  spdir : Nat := 0xFFFFE00000
  stations : SMap (List Transl) := []
  llc : List Transl := []
  l2 : L2 := {}
  xsp : SMap Word := []
  misses : Nat := 0
  bank : ErrBank := {}
  /-- placed tasks that wait for an eligible cluster -/
  waitingTasks : List Packet := []
  placerPts : Nat := 0
  deriving DecidableEq, Repr

/-- Link states of a fabric port (R256). -/
inductive Link where
  | pam4 | nrz | half | down
  deriving DecidableEq, Repr

/-- A chronograph port (R261, R262): drop counts, its filters by number as five 64-bit words, and its pts. -/
structure Chrono where
  dropped : Nat := 0
  /-- frames that each filter dropped (R262, R263) -/
  drops : SMap Nat := []
  filters : SMap (List Word) := []
  deriving DecidableEq, Repr

/-- The I/O dies, host ports and the health controller (R258 to R263, R280 to R282). -/
structure Io where
  hmsg : SMap Word := []
  hspace : SMap Word := []
  boote : Word := 0
  msix : List (Nat × Word) := []
  chrono : SMap Chrono := []
  /-- fabric ports; those of a module that stands alone are disabled (R13) -/
  links : SMap Link :=
    [(0, .down), (1, .down), (2, .down), (3, .down), (4, .down), (5, .down), (6, .down), (7, .down)]
  failed : List Nat := []
  health : Nat := 1
  droppedWrites : Nat := 0
  unsupported : Nat := 0
  /-- clusters, L2 slices and HBM stacks that the controller runs below nominal voltage, and how many of the 60 windows are
  left of one that was returned to it (R281; log entry 41): a cluster by its key, of die d the slice by 4096 d + 4094 and the
  stack by 4096 d + 4095 -/
  undervolt : SMap Nat := []
  windows : SMap Nat := []
  /-- the chronograph port whose time disciplines PTIME (R261) -/
  ptpPort : Nat := 0
  headerErrors : Nat := 0
  /-- host accesses that wait, by port in the order of their arrival: port, address, length, whether it writes, data (R167,
  R260) -/
  hostQueue : List (Nat × Nat × Nat × Bool × Nat) := []
  banks : SMap ErrBank := []
  /-- pts of the ports: 0 and 1 PCIe, 2 and 3 chronograph (R161, R167) -/
  portPts : SMap Nat := []
  /-- device registers with no behaviour of their own (R150) -/
  plain : SMap Word := []
  deriving DecidableEq, Repr

/-- A destination write that is still to land (R313, R337): the value, and the time it brings. -/
structure Late where
  dst : Waiter
  /-- as the request names it, by which the answer is known -/
  asked : Waiter := dst
  value : Word
  time : Nat := 0
  /-- failure code of a copy (R273), 0 none, and the mark of data with an uncorrectable error (R268) -/
  fail : Nat := 0
  mark : Option Word := none
  ready : Bool := true
  /-- the address of the unit that asked, for a trap that the answer brings (R268, R269) -/
  base : Word := 0
  /-- what a remote access binds: 1 every later access of the task, 2 those to the same 8 bytes (.unp), 3 the next .nord;
  with its address, its use and its bytes (R163, R168, R178) -/
  order : Nat := 0
  addr : Word := 0
  use : Nat := 0
  n : Nat := 8
  deriving DecidableEq, Repr

/-- A pending .com update (R179) or .qnt update (R180): key, bytes, operation, operand, issue time, quantum. -/
structure Pending where
  key : Nat
  n : Nat
  op : Nat
  operand : Word
  scope : Nat := 3
  /-- still held at a combiner -/
  held : Bool := true
  quantum : Nat := 0
  /-- the issuing task -/
  ck : Nat := 0
  slot : Nat := 0
  space : Nat := 0
  leaf : Nat := 0
  /-- DDOM of the issuer when it issued the atomic (R383) -/
  ddom : Nat := 0
  /-- whom another module's atomic is to tell that it was performed (R182) -/
  srcModule : Nat := 0
  reply : Option Waiter := none
  deriving DecidableEq, Repr

/-- What moves next when the schedule names it (log entry 10). -/
inductive Move where
  | event (e : Instr)
  | core (key : Nat)
  deriving DecidableEq, Repr

/-- The parts of the module that stand outside dies and clusters. -/
structure Pod where
  module : Nat := 0
  populated : List Nat := [0]
  /-- packets in flight on the module, packets handed to the fabric (R252) -/
  net : List Packet := []
  fabric : List Packet := []
  /-- packets sent over the fabric that may be resent (R257) -/
  unacked : List Packet := []
  /-- writes posted to the hosts: port, address, bytes (R146) -/
  hostOut : List (Nat × Nat × List Byte) := []
  late : List Late := []
  /-- remote operations of tasks that have ended, still unanswered, with the launches of those tasks (R113) -/
  orphans : List (Waiter × Word) := []
  /-- .com and .qnt atomics sent to other modules that were not performed yet, with their tasks' launches (R113, R182) -/
  farUsed : List (Waiter × Word) := []
  com : List Pending := []
  qnt : List Pending := []
  /-- last quantum applied and its value, per location (R180) -/
  qntDone : SMap (Nat × Word) := []
  jobs : List Job := []
  jobSeq : Nat := 0
  /-- kill messages on their way: SPACE, the code of R274 or 0 for a cancelled job, and the time m (R170, R275) -/
  kills : List (Nat × Nat × Nat) := []
  /-- kill messages for the job's other modules, handed to the fabric (R275) -/
  killsFar : List (Nat × Nat × Nat) := []
  /-- packets sent so far: the number of the next one -/
  sent : Nat := 0
  /-- barrier entries: space and phase number to modules entered (R56) -/
  barriers : SMap Nat := []
  deriving DecidableEq, Repr

/-- The module. -/
structure State where
  /-- the core whose unit is executed, and its key -/
  core : Core := {}
  cur : Nat := 0
  cores : SMap Core := []
  clusters : SMap Cluster := []
  dies : SMap Die := []
  io : Io := {}
  pod : Pod := {}
  mem : Memory := []
  /-- 8-byte granules with an uncorrectable-error mark (R272) -/
  bad : List Nat := []
  /-- the module waits for a reset (R282) -/
  down : Bool := false
  /-- the schedule: what moves next (log entry 10) -/
  moves : List Move := []
  /-- the counter the free values are applied to -/
  free : Nat := 0
  /-- pod time when it was last set, and the step at which it was (R261; `State.now`) -/
  ptime : Nat := 0
  ptimeAt : Nat := 0
  /-- steps made, the model's measure of heddle cycles (log entry 11) -/
  cycle : Nat := 0
  deriving DecidableEq, Repr

/-- Why the machine stops with a fault. -/
inductive Fault where
  /-- raised by `step` when the module is down or waits for a reset (R282) and no reset is scheduled: no agent moves;
  safe, the hardware makes no step either -/
  | awaitingReset
  deriving DecidableEq, Repr

/-- Why an instruction has no meaning. -/
inductive Refusal where
  /-- raised by `exec` for an instruction that has no meaning in the model yet; safe -/
  | notModelled (mnemonic : String)
  deriving DecidableEq, Repr

/-- The outcome of a step of this machine. -/
abbrev Out := Host.Outcome State Fault Refusal

/-- The module at the end of bring-up (R282, R283): every field has its default, and the context 0 that R283 gives
every cluster is the default context of key 0 (`ctxDefault`). -/
def State.reset : State := {}

end Sys2Proof.Machine
end

