-- ==== Sys2Proof/Machine/Store.lean ====
section
/-! DEFINITION. Access to the parts of the state: cores, clusters, contexts, dies, bytes of memory, landing regions,
error banks. -/

namespace Sys2Proof.Machine

/-- Context registers that bring-up gives (R283): context 0 stands in every cluster, no other does. -/
def ctxDefault (space : Nat) : Ctx := { live := space == 0 }

/-- Key of cluster `cl` of die `d` (R15). -/
def clusterKey (d cl : Nat) : Nat := d * 4096 + cl

/-- The core with a key (cluster key times 8 plus core number). -/
def State.coreAt (s : State) (k : Nat) : Core := if k = s.cur then s.core else mget (fun _ => {}) s.cores k

/-- Replace the core with a key. -/
def State.putCore (s : State) (k : Nat) (c : Core) : State :=
  if k = s.cur then { s with core := c } else { s with cores := mput s.cores k c }

/-- Make another core the one whose unit is executed. -/
def State.select (s : State) (k : Nat) : State :=
  if k = s.cur then s else { s with cores := mput s.cores s.cur s.core, core := s.coreAt k, cur := k }

/-- The cluster with a key. -/
def State.clusterAt (s : State) (ck : Nat) : Cluster := mget (fun _ => {}) s.clusters ck

/-- Replace a cluster. -/
def State.putCluster (s : State) (ck : Nat) (c : Cluster) : State :=
  { s with clusters := mput s.clusters ck c }

/-- The key of the current core's cluster. -/
def State.ck (s : State) : Nat := s.cur / 8

/-- The current core's cluster. -/
def State.cluster (s : State) : Cluster := s.clusterAt s.ck

/-- Change the heddle of a cluster. -/
def State.putHeddle (s : State) (ck : Nat) (h : Heddle) : State :=
  s.putCluster ck { s.clusterAt ck with heddle := h }

/-- The die with a number. -/
def State.dieAt (s : State) (d : Nat) : Die := mget (fun _ => {}) s.dies d

/-- Replace a die. -/
def State.putDie (s : State) (d : Nat) (x : Die) : State := { s with dies := mput s.dies d x }

/-- A context of a cluster. -/
def Cluster.ctxAt (c : Cluster) (space : Nat) : Ctx := mget ctxDefault c.ctxs space

/-- Replace a context of a cluster. -/
def Cluster.putCtx (c : Cluster) (space : Nat) (x : Ctx) : Cluster := { c with ctxs := mput c.ctxs space x }

/-- The context that the current core serves (R452). -/
def State.ctx (s : State) : Ctx := s.cluster.ctxAt s.core.space

/-- The contexts that stand in a cluster: context 0 and every one the supervisor made live. -/
def Cluster.spaces (c : Cluster) : List Nat :=
  let l := (c.ctxs.filter (fun x => x.2.live)).map (·.1)
  if (c.ctxAt 0).live && !l.contains 0 then 0 :: l else l

/-- An almanac entry. -/
def Cluster.entry (c : Cluster) (slot : Nat) : Entry := mget (fun _ => {}) c.entries slot

/-- Replace an almanac entry. -/
def Cluster.putEntry (c : Cluster) (slot : Nat) (e : Entry) : Cluster :=
  { c with entries := mput c.entries slot e }

/-- A task by its slot. -/
def Cluster.task (c : Cluster) (slot : Nat) : Task := mget (fun _ => {}) c.tasks slot

/-- The nanoseconds of n steps from step a on (log entry 4). -/
def elapsedFrom (a : Nat) : Nat → Nat
  | 0 => 0
  | n + 1 => elapsedFrom a n + Config.elapsed (a + n)

/-- PTIME now: the time last set and what has passed since (R261). -/
def State.now (s : State) : Nat := s.ptime + elapsedFrom s.ptimeAt (s.cycle - s.ptimeAt)

/-- The value of the field of an opaque choice, and the state with the counter advanced. -/
def State.choose (s : State) : Nat × State := (Config.freeNat s.free, { s with free := s.free + 1 })

/-- A general register of a core: logical register b + n in physical register (b + n) mod 128 (R117). -/
def Core.x (c : Core) (n : Nat) : Word := mget (fun _ => 0) c.regs ((c.b + n) % 128)


/-- Logical register L of a core (R117). -/
def Core.logical (c : Core) (l : Nat) : Word := mget (fun _ => 0) c.regs (l % 128)

/-- Write logical register L: its error mark goes (R242), and a failure status that stood in it can no longer be read
(R273). -/
def Core.setLogical (c : Core) (l : Nat) (v : Word) : Core :=
  { c with regs := mset (fun _ => 0) c.regs (l % 128) v
           gmarks := mdel c.gmarks l
           fails := c.fails.map (fun f => if f.1 == some l then (none, f.2) else f) }

/-- Write a general register of a core: logical register b + n (R117). -/
def Core.setX (c : Core) (n : Nat) (v : Word) : Core := c.setLogical (c.b + n) v

/-- Vector register n of a core (R123). -/
def Core.v (c : Core) (n : Nat) : Vec := mget (fun _ => 0) c.vregs n

/-- Write a vector register; a whole write clears its mark (R242). -/
def Core.setV (c : Core) (n : Nat) (v : Vec) : Core :=
  { c with vregs := mset (fun _ => 0) c.vregs n v, vmarks := mdel c.vmarks n }

/-- Moment register n of a core (R129). -/
def Core.m (c : Core) (n : Nat) : Mom := mget (fun _ => 0) c.mregs n

/-- Write a moment register. -/
def Core.setM (c : Core) (n : Nat) (v : Mom) : Core :=
  { c with mregs := mset (fun _ => 0) c.mregs n v, mmarks := mdel c.mmarks n }

/-- Operand queue n of a core (R124). -/
def Core.q (c : Core) (n : Nat) : OpQueue := mget (fun _ => {}) c.queues n

/-- Replace an operand queue. -/
def Core.setQ (c : Core) (n : Nat) (q : OpQueue) : Core := { c with queues := mput c.queues n q }

/-- One byte of memory. -/
def State.byteAt (s : State) (k : Nat) : Byte := mget resetByte s.mem k

/-- Write one byte of memory. -/
def State.setByte (s : State) (k : Nat) (v : Byte) : State := { s with mem := mset resetByte s.mem k v }

/-- n bytes of memory from key k upward. -/
def bytesFrom (m : Memory) : Nat → Nat → List Byte
  | _, 0 => []
  | k, n + 1 => mget resetByte m k :: bytesFrom m (k + 1) n

/-- Write bytes from key k upward. -/
def writeFrom (m : Memory) : Nat → List Byte → Memory
  | _, [] => m
  | k, b :: bs => writeFrom (mset resetByte m k b) (k + 1) bs

/-- n bytes at key k as a number, little-endian (R3). -/
def State.readN (s : State) (k n : Nat) : Nat := leNat (bytesFrom s.mem k n)

/-- Store the n low bytes of v at key k, little-endian (R3). -/
def State.writeN (s : State) (k n v : Nat) : State := { s with mem := writeFrom s.mem k (leBytes n v) }

/-- Store bytes at key k. -/
def State.writeBytes (s : State) (k : Nat) (bs : List Byte) : State := { s with mem := writeFrom s.mem k bs }

/-- Whether n bytes at key k meet an uncorrectable-error mark (R272). -/
def State.marked (s : State) (k n : Nat) : Bool :=
  s.bad.any (fun g => k / 8 ≤ g && g ≤ (k + n - 1) / 8) && 0 < n

/-- The size of a cluster's scratchpad part in bytes (R7, R139). -/
def Cluster.spad (c : Cluster) : Nat :=
  match c.asplit with
  | 0 => 65536
  | 1 => 131072
  | 2 => 196608
  | _ => 229376

/-- Whether n bytes at an offset meet the park area of any context of the cluster (R29, R138). -/
def Cluster.inPark (c : Cluster) (off n : Nat) : Bool :=
  c.spaces.any fun sp =>
    let x := c.ctxAt sp
    let p := x.parkb.toNat % 262144
    decide (off < p + 320 * x.ftLimit) && decide (p < off + n)

/-- One of several places, the choice of which is free: the n-th choice (log entries 12 and 20). -/
def pickPlace (n : Nat) : List Nat → Option Nat
  | [] => none
  | o :: os => some ((o :: os).getD (Config.place n % (os.length + 1)) o)

/-- A 128-byte granule offset of the landing pool where a region of a length fits (R141; which one is log entry 12). -/
def Cluster.findRegion (c : Cluster) (len : Nat) : Option Nat :=
  let n := (len + 127) / 128 * 128
  let base := c.poolBase * 1024
  let size := c.poolLen * 1024
  pickPlace c.placed (((List.range (c.poolLen * 8)).map (fun i => base + 128 * i)).filter fun o =>
    o + n ≤ base + size && c.regions.all (fun r => o + n ≤ r.off || r.off + (r.len + 127) / 128 * 128 ≤ o))

/-- Reserve a landing region for a task (R141). -/
def Cluster.reserve (c : Cluster) (len slot kind : Nat) : Option (Nat × Cluster) :=
  match c.findRegion len with
  | none => none
  | some o => some (o, { c with regions := { off := o, len := len, slot := slot, kind := kind } :: c.regions,
                                placed := c.placed + 1 })

/-- Release the region at an offset. -/
def Cluster.release (c : Cluster) (off : Nat) : Cluster :=
  { c with regions := c.regions.filter (fun r => r.off != off) }

/-- An error arrives at a bank (R276, R277). -/
def ErrBank.record (b : ErrBank) (unc : Bool) (unit idx space : Nat) (addr synd : Word) (now : Nat) : ErrBank :=
  let count := min 65535 (fld b.stat 16 16 + 1)
  let fresh (lost : Nat) : ErrBank :=
    { stat := 1 + 2 * b2n unc + lost + unit * 16 + (idx % 256) * 256 + count * 65536 + space * 4294967296,
      addr := addr, synd := synd, time := now }
  if !bit b.stat 0 then fresh 0
  else if unc && !bit b.stat 1 then fresh 4
  else
    let st := putFld b.stat 16 16 count
    { b with stat := if unc then putFld st 3 1 1 else st }

/-- EBSYND: the job code, and a syndrome that no rule fixes (R276; log entry 6). -/
def State.syndrome (s : State) (addr job : Word) : Word :=
  job + wordOfNat (Config.syndrome s.cycle addr.toNat % 65536)

/-- Record an error in a cluster's bank. -/
def State.clusterError (s : State) (ck : Nat) (unc : Bool) (unit idx space : Nat) (addr job : Word) : State :=
  let c := s.clusterAt ck
  s.putCluster ck { c with bank := c.bank.record unc unit idx space addr (s.syndrome addr job) s.now }

/-- Record an error in a die's bank. -/
def State.dieError (s : State) (d : Nat) (unc : Bool) (unit idx space : Nat) (addr job : Word) : State :=
  let x := s.dieAt d
  s.putDie d { x with bank := x.bank.record unc unit idx space addr (s.syndrome addr job) s.now }

/-- Record an error in an I/O die's bank. -/
def State.ioError (s : State) (i : Nat) (unc : Bool) (unit idx space : Nat) (addr job : Word) : State :=
  let b := mget (fun _ => {}) s.io.banks i
  { s with io := { s.io with banks := mput s.io.banks i (b.record unc unit idx space addr (s.syndrome addr job) s.now) } }

/-- Record an uncorrectable error found at a memory key in the bank of the unit that holds it (R272, R276). -/
def foundError (s : State) (key : Nat) (space : Nat) : State :=
  if key < 2 ^ 40 then s.dieError (key / 2 ^ 36) true 6 0 space (wordOfNat key) 0
  else if key < landingKey 0 0 then
    let off := key - arrayKey 0 0
    s.clusterError (off / 262144) true 0 0 space (wordOfNat (2 ^ 63 + off % 262144)) 0
  else s.ioError ((key - landingKey 0 0) / 4503599627370496) true 11 0 space (wordOfNat key) 0

/-- The same where n bytes at a key have one. -/
def noteError (s : State) (key n space : Nat) : State := if s.marked key n then foundError s key space else s

/-- Refill logical registers from l upward: the error marks and the failure statuses that stand for them stay (R119, R242,
R273). -/
def Core.refill (c : Core) : Nat → List Word → Core
  | _, [] => c
  | l, w :: ws => ({ c with regs := mset (fun _ => 0) c.regs (l % 128) w } : Core).refill (l + 1) ws

/-- The module at the far end of a fabric port: ports 0 to 7 are +c, -c, +a, -a, +d, -d, +b, -b (R12, R13, R15); none
where no module stands there. -/
def neighbour (populated : List Nat) (m port : Nat) : Option Nat :=
  let near := fun (len unit : Nat) (wraps up : Bool) =>
    let x := m / unit % len
    if up then (if x + 1 < len then some (m + unit) else if wraps then some (m - x * unit) else none)
    else if 0 < x then some (m - unit) else if wraps then some (m + (len - 1) * unit) else none
  let n := match port with
    | 0 => near 8 16 true true
    | 1 => near 8 16 true false
    | 2 => near 4 1 false true
    | 3 => near 4 1 false false
    | 4 => near 8 128 true true
    | 5 => near 8 128 true false
    | 6 => near 4 4 false true
    | _ => near 4 4 false false
  n.filter populated.contains

/-- Whether a packet can leave by a port: a module stands there that has not failed, and the link is up (R253, R256). -/
def State.portOpen (s : State) (port : Nat) : Bool :=
  match neighbour s.pod.populated s.pod.module port with
  | some n => !s.io.failed.contains n && (s.io.links.find? (fun l => l.1 == port)).map (·.2) != some .down
  | none => false

/-- The port towards coordinate `y` from `x` in a dimension of ports `up` and `up + 1`: the shorter way round where it wraps,
the + way on a tie (R13, R253). -/
def towards (x y up : Nat) (wraps : Bool) : Nat :=
  if wraps then (if (y + 8 - x) % 8 ≤ 4 then up else up + 1) else if x < y then up else up + 1

/-- The port of the first hop to a module: c, then d, then a and b (log entry 65); where the way is not open a step +a, or −a
from a = 3, else the same in b (R253). None where no way is open. -/
def State.exitPort (s : State) (m : Nat) : Option Nat :=
  let me := s.pod.module
  let full := fun (unit : Nat) => (List.range 8).all (fun i => s.pod.populated.contains (me - me / unit % 8 * unit + i * unit))
  let dims := [(16, 8, 0, full 16), (128, 8, 4, full 128), (1, 4, 2, false), (4, 4, 6, false)]
  match dims.find? (fun d => me / d.1 % d.2.1 != m / d.1 % d.2.1) with
  | none => none
  | some (unit, len, up, wraps) =>
    ([towards (me / unit % len) (m / unit % len) up wraps, if me % 4 = 3 then 3 else 2,
      if me / 4 % 4 = 3 then 7 else 6]).find? s.portOpen

/-- A packet goes to the fabric by the port of its route, in the order of its number; where no way is open it is lost until its
timeout (R253, R254, R257). -/
def State.launchPacket (s : State) (p : Packet) : List Packet :=
  match s.exitPort p.dstModule with
  | some port =>
    s.pod.fabric.filter (fun q => decide (q.seq < p.seq)) ++ { p with port := some port } ::
      s.pod.fabric.filter (fun q => decide (p.seq ≤ q.seq))
  | none => s.pod.fabric

/-- A packet leaves with the next number: over the module's mesh, or to the pod fabric, where a copy is kept until it
arrives (R252, R254, R257). -/
def State.send (s : State) (p : Packet) : State :=
  let q := { p with seq := s.pod.sent }
  if p.dstModule == s.pod.module then { s with pod := { s.pod with net := s.pod.net ++ [q], sent := s.pod.sent + 1 } }
  else { s with pod := { s.pod with fabric := s.launchPacket q, unacked := s.pod.unacked ++ [q], sent := s.pod.sent + 1 } }

end Sys2Proof.Machine
end

