-- ==== Sys2Proof/Machine/Translate.lean ====
section
/-! DEFINITION. Page tables, targets and translation caches (R137, R143 to R152). -/

namespace Sys2Proof.Machine

/-- What a translation yields: a leaf with its page bits, a reason of R148, or an uncorrectable error in a table
entry (R272). -/
inductive Tr where
  | ok (leaf bits : Nat)
  | miss (reason : Nat)
  | ue
  deriving DecidableEq, Repr

/-- The page bits of a size code (R144). -/
def sizeBits : Nat → Nat
  | 0 => 12 | 1 => 14 | 2 => 16 | 3 => 18 | 4 => 20 | 5 => 21
  | 6 => 23 | 7 => 25 | 8 => 27 | 9 => 29 | 10 => 30 | _ => 32

/-- Whether a leaf's size code is allowed at a level (R143). -/
def sizeAtLevel (level size : Nat) : Bool :=
  match level with
  | 1 => size == 11
  | 2 => 5 ≤ size && size ≤ 10
  | 3 => size ≤ 4
  | _ => false

/-- Whether a leaf's size code is allowed for its target type (R145, R146). -/
def sizeForType (type size : Nat) : Bool :=
  match type with
  | 1 => size ≤ 3
  | 3 | 6 => size ≤ 4
  | _ => size ≤ 11

/-- Whether the fields of a leaf that its type requires to be zero are zero (R145, R146). -/
def zerosForType (type leaf : Nat) : Bool :=
  let frame := fld leaf 12 40
  let sel := fld leaf 52 10
  match type with
  | 0 | 3 => sel == 0
  | 1 => sel == 0 && fld leaf 34 18 == 0
  | 4 => frame == 0
  | 5 | 6 => sel / 2 == 0
  | _ => true

/-- Judge a leaf found at a level: type 111 is reason 0x02, a malformed one 0x04, an alias 0x05 (R145 to R148);
that type 111 comes before any other malformation is the model's reading (log entry 27). -/
def judgeLeaf (level leaf : Nat) : Tr :=
  let type := fld leaf 2 3
  let size := fld leaf 5 4
  if type = 7 then .miss 2
  else if type = 2 || 11 < size || !sizeAtLevel level size || !sizeForType type size || !zerosForType type leaf
      || fld leaf 12 (sizeBits size - 12) != 0 then .miss 4
  else if type = 0 && fld leaf 40 12 != 0 then .miss 5
  else if type = 3 && !(0x10000000000 ≤ fld leaf 12 40 * 4096 && fld leaf 12 40 * 4096 ≤ 0x101FFFFFFFF) then .miss 5
  else .ok leaf (sizeBits size)

/-- Index of an address at a level (R143). -/
def levelIndex (level va : Nat) : Nat :=
  match level with
  | 0 => fld va 44 12
  | 1 => fld va 32 12
  | 2 => fld va 21 11
  | _ => fld va 12 9

/-- Alignment bits of the table below a level (R143). -/
def nextAlign : Nat → Nat
  | 0 => 15
  | 1 => 14
  | _ => 12

/-- The walk from a table at a level, with as many levels left as the fuel says (R143, R144). -/
def walkFrom (s : State) (va : Nat) : Nat → Nat → Nat → Tr
  | 0, _, _ => .miss 4
  | fuel + 1, level, table =>
    let k := table + 8 * levelIndex level va
    if s.marked k 8 then .ue
    else
      let e := s.readN k 8
      if !bit e 0 then .miss 1
      else if bit e 1 then judgeLeaf level e
      else if level = 3 || fld e 2 10 != 0 || fld e 40 24 != 0 || fld e 12 (nextAlign level - 12) != 0 then .miss 4
      else walkFrom s va fuel (level + 1) (fld e 12 28 * 4096)

/-- A full walk of a space on a die (R143). -/
def walk (s : State) (die space va : Nat) : Tr :=
  let k := (s.dieAt die).spdir + 16 * space
  if s.marked k 8 then .ue
  else
    let e := s.readN k 8
    if !bit e 0 then .miss 1 else walkFrom s va 4 0 (fld e 15 25 * 32768)

/-- The table entries that a walk from a table reads, the last one included (R143, R151). -/
def readsFrom (s : State) (va : Nat) : Nat → Nat → Nat → List Nat
  | 0, _, _ => []
  | fuel + 1, level, table =>
    let k := table + 8 * levelIndex level va
    let e := s.readN k 8
    if s.marked k 8 || !bit e 0 || bit e 1 || level = 3 then [k] else k :: readsFrom s va fuel (level + 1) (fld e 12 28 * 4096)

/-- The entries that a walk of a space reads: that of the space directory, then the tables'. -/
def walkReads (s : State) (die space va : Nat) : List Nat :=
  let k := (s.dieAt die).spdir + 16 * space
  let e := s.readN k 8
  if s.marked k 8 || !bit e 0 then [k] else k :: readsFrom s va 4 0 (fld e 15 25 * 32768)

/-- Whether a cached translation covers an address of a space. -/
def Transl.covers (t : Transl) (space va : Nat) : Bool := t.space == space && t.page == va / 2 ^ t.bits

/-- Install a translation as the most recently used of a cache of n (R151). -/
def install (n : Nat) (l : List Transl) (t : Transl) : List Transl :=
  (t :: l.filter (fun u => !(u.space == t.space && u.page == t.page && u.bits == t.bits))).take n

/-- The set of a translation in a die's last-level cache (R151; which sets there are is log entry 61). -/
def Transl.llcSet (t : Transl) : Nat := (t.page + t.space) % 512

/-- Install a translation in a die's last-level cache: 8 ways, the least recently used of the set goes (R151). -/
def installLast (l : List Transl) (t : Transl) : List Transl :=
  let same := fun (u : Transl) => u.llcSet == t.llcSet
  install 8 (l.filter same) t ++ l.filter (fun u => !same u)

/-- Where a translated access goes (R146). -/
inductive Target where
  | hbm (pa : Nat)
  | array (ck off : Nat)
  | device (pa : Nat)
  | remote (module va : Nat)
  | host (port addr : Nat)
  | landing (port addr : Nat)
  deriving DecidableEq, Repr

/-- The target of an address under a leaf (R146). -/
def targetOf (leaf bits va : Nat) : Target :=
  let off := va % 2 ^ bits
  let addr := fld leaf 12 40 * 4096 + off
  match fld leaf 2 3 with
  | 0 => .hbm addr
  | 1 => .array (fld leaf 30 4 * 4096 + fld leaf 18 12) (fld leaf 12 6 * 4096 + off)
  | 3 => .device addr
  | 4 => .remote (fld leaf 52 10) va
  | 5 => .host (fld leaf 52 1) addr
  | _ => .landing (fld leaf 52 1) addr

/-- Whether a leaf permits writes, allocates in L1, streams in the L2, may share, is pinned (R144). -/
def leafWrite (leaf : Nat) : Bool := bit leaf 9
def leafL1 (leaf : Nat) : Bool := bit leaf 10
def leafStream (leaf : Nat) : Bool := bit leaf 11
def leafDedup (leaf : Nat) : Bool := bit leaf 62
def leafPinned (leaf : Nat) : Bool := bit leaf 63

/-- The three address forms (R137). -/
inductive Form where
  | near (off : Nat)
  | virt (va : Nat)
  | bad
  deriving DecidableEq, Repr

/-- Classify an address by its form (R137). -/
def formOf (a : Word) : Form :=
  let n := a.toNat
  if bit n 63 && fld n 18 45 == 0 then .near (n % 262144)
  else if fld n 56 8 == 0 then .virt n
  else .bad

/-- TVAL of an XFAULT (R148). -/
def xval (a : Word) (reason : Nat) : Word := wordOfNat (a.toNat % 2 ^ 56 + reason * 2 ^ 56)

end Sys2Proof.Machine
end

