-- ==== Sys2Proof/Machine/Cache.lean ====
section
/-! DEFINITION. The L2 slices with tags apart from data (R154 to R159), the logical times at the homes (R164, R165)
and the L1 (R142, R166). The bytes of every line stand in memory, which is the one order of its home (R153). -/

namespace Sys2Proof.Machine

/-- One step of the reflected CRC-32C (R155). -/
def crcBit (c : Nat) : Nat := if c % 2 = 1 then (c / 2) ^^^ 0x82F63B78 else c / 2

/-- The CRC of one more byte. -/
def crcByte (c : Nat) (b : Byte) : Nat :=
  crcBit (crcBit (crcBit (crcBit (crcBit (crcBit (crcBit (crcBit (c ^^^ b.toNat))))))))

/-- CRC-32C over bytes in ascending order (R155). -/
def crc32c (bs : List Byte) : Nat := bs.foldl crcByte 0xFFFFFFFF ^^^ 0xFFFFFFFF

/-- The bucket of a domain and a hash (R155). -/
def bucketOf (dom hash : Nat) : Nat := (hash % 131072) ^^^ (dom * 32 % 131072)

/-- The set of a tag (R155). -/
def setOf (pa : Nat) : Nat := fld pa 7 16 ^^^ fld pa 23 16

/-- The tag of a line (R155). -/
def L2.tag? (l : L2) (line : Nat) : Option L2Tag := l.tags.find? (·.pa == line)

/-- Replace the tag of a line, which keeps its place. -/
def L2.putTag (l : L2) (t : L2Tag) : L2 := { l with tags := l.tags.map (fun u => if u.pa == t.pa then t else u) }

/-- The data entry with an identity. -/
def L2.entry? (l : L2) (id : Nat) : Option L2Entry := l.entries.find? (·.id == id)

/-- Replace a data entry. -/
def L2.putEntry (l : L2) (e : L2Entry) : L2 := { l with entries := e :: l.entries.filter (·.id != e.id) }

/-- One tag less points to an entry; at count 0 it is free (R157, R158). -/
def L2.lower (l : L2) (id : Nat) : L2 :=
  match l.entry? id with
  | none => l
  | some e =>
    if e.count ≤ 1 then { l with entries := l.entries.filter (·.id != id) }
    else l.putEntry { e with count := e.count - 1 }

/-- Fold a tag that leaves into its set's memory timestamp (R164). -/
def L2.fold (l : L2) (t : L2Tag) : L2 :=
  let k := setOf t.pa
  { l with mts := mput l.mts k (max (mget (fun _ => 0) l.mts k) (max t.wts t.rts)),
           writebacks := l.writebacks + b2n t.dirty }

/-- Evict a tag for a set conflict (R158). -/
def L2.evictTag (l : L2) (t : L2Tag) : L2 :=
  ({ (l.fold t) with tags := l.tags.filter (·.pa != t.pa) }).lower t.entry

/-- The least recently used of a list that holds the latest used first: the last of those with the lowest mark. -/
def oldest {α : Type} (used : α → Nat) (l : List α) : Option α := minBy used l.reverse

/-- Free a data entry when all are in use: the least recently used one other than `keep` goes with its tags (R158). -/
def L2.makeRoom (l : L2) (keep : Nat) : L2 :=
  if l.entries.length < 524288 then l
  else
    match oldest (·.used) (l.entries.filter (·.id != keep)) with
    | none => l
    | some v =>
      let ts := l.tags.filter (·.entry == v.id)
      let l1 := ts.foldl L2.fold l
      { l1 with tags := l1.tags.filter (·.entry != v.id), entries := l1.entries.filter (·.id != v.id),
                evictions := l1.evictions + 1 }

/-- Room for a tag in its set: a line that entered as streaming and was not used since goes first, the one that entered last
before the others (R154); else the least recently used tag (R155, R158). -/
def L2.makeWay (l : L2) (line : Nat) : L2 :=
  let ts := l.tags.filter (fun t => setOf t.pa == setOf line)
  if ts.length < 16 then l
  else
    match (ts.find? (·.used == 0)).orElse fun _ => oldest (·.used) ts with
    | none => l
    | some t => l.evictTag t

/-- The indexed entries of a bucket. -/
def L2.bucket (l : L2) (dom hash : Nat) : List L2Entry :=
  l.entries.filter (fun e => e.indexed && bucketOf e.dom e.hash == bucketOf dom hash)

/-- Make a line's data entry shared or indexed, as a sharing candidate (R156). `same` tells whether an entry holds the
line's bytes. -/
def L2.share (l : L2) (t : L2Tag) (dom hash now : Nat) (same : L2Entry → Bool) : L2 :=
  let b := l.bucket dom hash
  let full := b.filter (fun e => e.dom == dom && e.hash == hash && e.id != t.entry && same e)
  match minBy (·.way) (full.filter (fun e => e.count < 63)) with
  | some e =>
    let l1 := l.lower t.entry
    let l2 := l1.putEntry { e with count := e.count + 1, wayUsed := l1.uses + 1, used := now }
    { (l2.putTag { t with entry := e.id }) with shares := l2.shares + 1, uses := l2.uses + 1 }
  | none =>
    let way :=
      match minBy (·.way) full with
      | some e => e.way
      | none =>
        match firstBelow 4 (fun w => b.all (fun e => e.way != w)) with
        | some w => w
        | none => match minBy (fun (e : L2Entry) => e.wayUsed) b with
          | some e => e.way
          | none => 0
    let l0 := { l with saturations := l.saturations + b2n (!full.isEmpty),
                       entries := l.entries.map (fun (e : L2Entry) =>
                         if e.indexed && bucketOf e.dom e.hash == bucketOf dom hash && e.way == way
                         then { e with indexed := false } else e) }
    match l0.entry? t.entry with
    | none => l0
    | some e =>
      { (l0.putEntry { e with hash := hash, dom := dom, indexed := true, way := way, wayUsed := l0.uses + 1, used := now }) with
        uses := l0.uses + 1 }

/-- Whether an entry of a slice holds the bytes of a line: the bytes of any line that points to it are its bytes. -/
def holds (s : State) (l : L2) (line : Nat) (e : L2Entry) : Bool :=
  match l.tags.find? (fun t => t.entry == e.id) with
  | none => false
  | some t => bytesFrom s.mem t.pa 128 == bytesFrom s.mem line 128

/-- Put a slice back. -/
def State.putL2 (s : State) (d : Nat) (l : L2) : State := s.putDie d { s.dieAt d with l2 := l }

/-- A new tag with a fresh data entry of count 1 for a line that is not resident (R155, R158, R164). -/
def L2.allocate (l : L2) (line dom now : Nat) (streaming : Bool) : L2 :=
  let l1 := (l.makeWay line).makeRoom l.nextId
  let m := mget (fun _ => 0) l1.mts (setOf line)
  let used := if streaming then 0 else now + 1
  { l1 with nextId := l1.nextId + 1,
            tags := { pa := line, dom := dom, entry := l1.nextId, wts := m, rts := m, used := used } :: l1.tags,
            entries := { id := l1.nextId, dom := dom, used := now } :: l1.entries }

/-- A tag and its data entry are used (R158): the tag is the first of the list, which holds the latest used first. -/
def L2.touch (l : L2) (t : L2Tag) (now : Nat) : L2 :=
  let l1 := { l with tags := { t with used := now + 1 } :: l.tags.filter (·.pa != t.pa) }
  match l1.entry? t.entry with
  | some e => l1.putEntry { e with used := now }
  | none => l1

/-- Bring a line of HBM into its slice if it is not there, matched for sharing where it is a candidate (R154 to R156). A
whole write needs no fill (R156). -/
def l2Miss (s : State) (line dom : Nat) (eligible streaming whole : Bool) : State :=
  let d := line / 2 ^ 36
  let l := (s.dieAt d).l2
  match l.tag? line with
  | some _ => s
  | none =>
    let l1 := l.allocate line dom s.cycle streaming
    if eligible && dom != 0 && !whole then
      match l1.tag? line with
      | some t => s.putL2 d (l1.share t dom (crc32c (bytesFrom s.mem line 128)) s.cycle (holds s l1 line))
      | none => s.putL2 d l1
    else s.putL2 d l1

/-- An access reaches the slice of a line of HBM: a hit counts as its use, a miss brings it in (R154, R158). -/
def l2Fill (s : State) (line dom : Nat) (eligible streaming whole : Bool) : State :=
  let d := line / 2 ^ 36
  let l := (s.dieAt d).l2
  match l.tag? line with
  | some t => s.putL2 d (l.touch t s.cycle)
  | none => l2Miss s line dom eligible streaming whole

/-- The slice's part of a write with at least one byte enabled: in place, or unshared; the tag becomes dirty (R157). -/
def l2Dirty (s : State) (line : Nat) : State :=
  let d := line / 2 ^ 36
  let l := (s.dieAt d).l2
  match l.tag? line with
  | none => s
  | some t =>
    match l.entry? t.entry with
    | none => s
    | some e =>
      if e.count ≤ 1 then
        s.putL2 d ((l.putEntry { e with indexed := false, used := s.cycle }).putTag { t with dirty := true })
      else
        let l1 := (l.makeRoom e.id).lower e.id
        s.putL2 d { l1 with nextId := l1.nextId + 1, unshares := l1.unshares + 1,
                            tags := (l1.putTag { t with dirty := true, entry := l1.nextId }).tags,
                            entries := { id := l1.nextId, dom := t.dom, used := s.cycle } :: l1.entries }

/-- After a whole-line write by a requester of a domain the line is a candidate again (R156, R157). -/
def l2Whole (s : State) (line dom : Nat) (eligible : Bool) : State :=
  let d := line / 2 ^ 36
  let l := (s.dieAt d).l2
  match l.tag? line with
  | none => s
  | some t =>
    if eligible && dom != 0 && t.dom != 0 then
      s.putL2 d (l.share t t.dom (crc32c (bytesFrom s.mem line 128)) s.cycle (holds s l line))
    else s

/-- wts and rts of the line that a memory key lies in: a tag's in HBM, the array's own lines else (R164). -/
def State.lineTimes (s : State) (key : Nat) : Nat × Nat :=
  if key < 2 ^ 40 then
    let l := (s.dieAt (key / 2 ^ 36)).l2
    let line := key / 128 * 128
    match l.tag? line with
    | some t => (t.wts, t.rts)
    | none => let m := mget (fun _ => 0) l.mts (setOf line); (m, m)
  else
    let c := s.clusterAt ((key - 2199023255552) / 262144)
    mget (fun _ => (c.mts, c.mts)) c.times (key / 128)

/-- Set wts and rts of a line. -/
def State.setTimes (s : State) (key wts rts : Nat) : State :=
  if key < 2 ^ 40 then
    let d := key / 2 ^ 36
    let l := (s.dieAt d).l2
    match l.tag? (key / 128 * 128) with
    | some t => s.putL2 d (l.putTag { t with wts := wts, rts := rts })
    | none => s
  else
    let ck := (key - 2199023255552) / 262144
    let c := s.clusterAt ck
    s.putCluster ck { c with times := mput c.times (key / 128) (wts, rts) }

/-- The time of a load by an agent with this pts, and the lease it leaves (R165). -/
def State.readTime (s : State) (key pts : Nat) : Nat × State :=
  let (w, r) := s.lineTimes key
  let t := max pts w
  (t, s.setTimes key w (max r (t + 16)))

/-- The time of a store by an agent with this pts (R165). -/
def State.writeTime (s : State) (key pts : Nat) : Nat × State :=
  let (_, r) := s.lineTimes key
  let t := max (pts + 1) (r + 1)
  (t, s.setTimes key t t)

/-- The number of sets of the L1 (R142). -/
def Cluster.l1Sets (c : Cluster) : Nat := (262144 - c.spad) / 1024

/-- An L1 line of a space (R142). -/
def Cluster.l1? (c : Cluster) (space va : Nat) : Option L1Line :=
  c.l1.find? (fun x => x.space == space && x.vline == va / 128)

/-- Allocate an L1 line as the newest of its set of eight ways, in place of the one filled longest ago (R142); the set, the
share of the array that a way lies in, and the replacement, which hits do not change, are log entry 13. -/
def Cluster.l1Put (c : Cluster) (x : L1Line) : Cluster :=
  let sets := max c.l1Sets 1
  let same := fun (y : L1Line) => y.vline % sets == x.vline % sets
  let rest := c.l1.filter (fun y => !(y.space == x.space && y.vline == x.vline))
  let mine := (rest.filter same).take 7
  let shares := mine.map (·.share)
  let share := match firstBelow 8 (fun w => !shares.contains w) with
    | some w => w
    | none => 0
  { c with l1 := { x with share := share } :: (mine ++ rest.filter (fun y => !same y)) }

/-- A write updates a present L1 copy of its cluster (R142). The copy then holds nothing older than the write; a whole line
has the times of its home, else the lease of the other bytes stays the one they were filled under (R165, R166). -/
def Cluster.l1Update (c : Cluster) (key : Nat) (bs : List Byte) (times : Nat × Nat) : Cluster :=
  { c with l1 := c.l1.map fun x =>
      if x.key == key / 128 * 128 then
        { x with data := x.data.take (key % 128) ++ bs ++ x.data.drop (key % 128 + bs.length)
                 wts := times.1, rts := if bs.length = 128 then times.2 else x.rts
                 ue := x.ue && bs.length != 128 }
      else x }

end Sys2Proof.Machine
end

