-- ==== Sys2Proof/Machine/Float.lean ====
section
/-! DEFINITION. Number formats and exact arithmetic (R184 to R198): values as sign, significand and exponent, rounding,
arithmetic, conversion, NaN rules. -/

namespace Sys2Proof.Machine

/-- How a format uses its top exponent code (R186). -/
inductive Specials where
  | ieee | e4m3 | none
  deriving DecidableEq, Repr

/-- A binary floating-point format (R186): exponent bits, fraction bits, bias. -/
structure Fmt where
  eb : Nat
  p : Nat
  bias : Nat
  sp : Specials
  deriving DecidableEq, Repr

def f32 : Fmt := { eb := 8, p := 23, bias := 127, sp := .ieee }
def bf16 : Fmt := { eb := 8, p := 7, bias := 127, sp := .ieee }
def f16 : Fmt := { eb := 5, p := 10, bias := 15, sp := .ieee }
def e4m3 : Fmt := { eb := 4, p := 3, bias := 7, sp := .e4m3 }
def e5m2 : Fmt := { eb := 5, p := 2, bias := 15, sp := .ieee }
def e2m1 : Fmt := { eb := 2, p := 1, bias := 1, sp := .none }

/-- Bits of a format. -/
def Fmt.width (f : Fmt) : Nat := 1 + f.eb + f.p

/-- The format of a floating-point type code (R184). -/
def fmtOf : Nat → Option Fmt
  | 8 => some f32
  | 9 => some bf16
  | 10 => some f16
  | 11 => some e4m3
  | 12 => some e5m2
  | 13 => some e2m1
  | _ => none

/-- An exact value: (-1)^neg × man × 2^exp, an infinity, or a NaN with its fraction bits from the top, 23 of them
(R186, R187, R198). -/
inductive Val where
  | fin (neg : Bool) (man : Nat) (exp : Int)
  | inf (neg : Bool)
  | nan (neg : Bool) (frac : Nat)
  deriving DecidableEq, Repr

/-- The NaN that no operand gives (R198). -/
def Val.fresh : Val := .nan false 0x400000

/-- The exponent code of infinities and NaNs, all ones. -/
def Fmt.top (f : Fmt) : Nat := 2 ^ f.eb - 1

/-- The value of an encoding (R186, R187). -/
def Fmt.dec (f : Fmt) (w : Nat) : Val :=
  let neg := bit w (f.eb + f.p)
  let e := fld w f.p f.eb
  let m := w % 2 ^ f.p
  if f.sp == .ieee && e == f.top then (if m = 0 then .inf neg else .nan neg (m * 2 ^ (23 - f.p)))
  else if f.sp == .e4m3 && e == f.top && m == 2 ^ f.p - 1 then .nan neg (m * 2 ^ (23 - f.p))
  else if e = 0 then .fin neg m (1 - (f.bias : Int) - f.p)
  else .fin neg (2 ^ f.p + m) ((e : Int) - f.bias - f.p)

/-- The factor of an E8S scale (R189). -/
def e8s (e : Nat) : Val := if e % 256 = 255 then Val.fresh else .fin false 1 ((e % 256 : Nat) - 127)

/-- The value of an integer (R185). -/
def Val.ofInt (z : Int) : Val := .fin (decide (z < 0)) z.natAbs 0

/-- A significand shifted to an exponent at most its own. -/
def shiftTo (man : Nat) (exp e : Int) : Nat := man * 2 ^ (exp - e).toNat

/-- Round a magnitude to a multiple of 2^q: the count of 2^q (R21). Modes: 0 nearest-even, 1 toward zero, 2 up, 3 down,
4 stochastic with sixteen bits s (R193, R194). -/
def roundAt (rm s : Nat) (neg : Bool) (man : Nat) (exp q : Int) : Nat :=
  if q ≤ exp then shiftTo man exp q
  else
    let sh := (q - exp).toNat
    let m := man / 2 ^ sh
    let rem := man % 2 ^ sh
    if rem = 0 then m
    else
      let away := match rm with
        | 0 => decide (2 ^ sh < 2 * rem) || (2 * rem == 2 ^ sh && m % 2 == 1)
        | 1 => false
        | 2 => !neg
        | 3 => neg
        | _ => decide ((s % 65536) * 2 ^ sh < rem * 65536)
      m + b2n away

/-- The grid on which a magnitude is rounded in a format: its binade's ulp, no finer than the subnormals' (R186). -/
def Fmt.ulpExp (f : Fmt) (man : Nat) (exp : Int) : Int :=
  max ((Nat.log2 man : Int) + exp - f.p) (1 - (f.bias : Int) - f.p)

/-- The largest finite magnitude as significand and exponent (R186). -/
def Fmt.largest (f : Fmt) : Nat × Int :=
  match f.sp with
  | .ieee => (2 ^ (f.p + 1) - 1, (f.top : Int) - 1 - f.bias - f.p)
  | .e4m3 => (2 ^ (f.p + 1) - 2, (f.top : Int) - f.bias - f.p)
  | .none => (2 ^ (f.p + 1) - 1, (f.top : Int) - f.bias - f.p)

/-- The encoding of a sign. -/
def Fmt.signBit (f : Fmt) (neg : Bool) : Nat := b2n neg * 2 ^ (f.eb + f.p)

/-- The encoding of the largest finite value of a sign. -/
def Fmt.maxBits (f : Fmt) (neg : Bool) : Nat :=
  f.signBit neg + (match f.sp with
    | .ieee => f.top * 2 ^ f.p - 1
    | .e4m3 => 2 ^ (f.eb + f.p) - 2
    | .none => 2 ^ (f.eb + f.p) - 1)

/-- The encoding of an infinity. -/
def Fmt.infBits (f : Fmt) (neg : Bool) : Nat := f.signBit neg + f.top * 2 ^ f.p

/-- The encoding of a NaN with its quiet bit set (R187, R198). -/
def Fmt.nanBits (f : Fmt) (neg : Bool) (frac : Nat) : Nat :=
  match f.sp with
  | .ieee =>
    let m := frac / 2 ^ (23 - f.p)
    f.infBits neg + (if bit m (f.p - 1) then m else m + 2 ^ (f.p - 1))
  | .e4m3 => f.signBit neg + 2 ^ (f.eb + f.p) - 1
  | .none => 0

/-- The encoding of a finite magnitude m × 2^q that is on the format's grid and not above its largest. -/
def Fmt.finBits (f : Fmt) (neg : Bool) (m : Nat) (q : Int) : Nat :=
  if m = 0 then f.signBit neg
  else
    let e := (Nat.log2 m : Int) + q
    let emin := 1 - (f.bias : Int)
    if e < emin then f.signBit neg + shiftTo m q (emin - f.p)
    else
      let frac := if q ≤ e - f.p then m / 2 ^ (e - f.p - q).toNat else shiftTo m q (e - f.p)
      f.signBit neg + (e + f.bias).toNat * 2 ^ f.p + frac % 2 ^ f.p

/-- Whether a magnitude m × 2^q is above a largest one. -/
def magAbove (m : Nat) (q : Int) (lm : Nat) (le : Int) : Bool :=
  if q ≤ le then decide (lm * 2 ^ (le - q).toNat < m) else decide (lm < m * 2 ^ (q - le).toNat)

/-- What becomes of a rounded magnitude that is above the largest finite in arithmetic: infinity or the largest
(R196). -/
def Fmt.overflow (f : Fmt) (rm : Nat) (neg : Bool) : Nat :=
  match rm with
  | 0 | 4 => f.infBits neg
  | 1 => f.maxBits neg
  | 2 => if neg then f.maxBits neg else f.infBits neg
  | _ => if neg then f.infBits neg else f.maxBits neg

/-- Round an exact value to a format as arithmetic does (R193, R196, R198). -/
def Fmt.arith (f : Fmt) (rm s : Nat) : Val → Nat
  | .nan neg frac => f.nanBits neg frac
  | .inf neg => f.infBits neg
  | .fin neg man exp =>
    if man = 0 then f.signBit neg
    else
      let q := f.ulpExp man exp
      let m := roundAt rm s neg man exp q
      let (lm, le) := f.largest
      if magAbove m q lm le then f.overflow rm neg else f.finBits neg m q

/-- Round a value to a format in nearest-even: the value (R195, R203). -/
def Fmt.rne (f : Fmt) (v : Val) : Val := f.dec (f.arith 0 0 v)

/-- Convert a value to a floating-point type (R196): the bits, and whether CVTOVF is met when `ovf` is set. -/
def Fmt.conv (f : Fmt) (rm s : Nat) (ovf : Bool) : Val → Nat × Bool
  | .nan neg frac =>
    match f.sp with
    | .none => (0, ovf)
    | _ => (f.nanBits neg frac, false)
  | .inf neg =>
    match f.sp with
    | .ieee => (f.infBits neg, false)
    | _ => (f.maxBits neg, ovf)
  | .fin neg man exp =>
    if man = 0 then (f.signBit neg, false)
    else
      let q := f.ulpExp man exp
      let m := roundAt rm s neg man exp q
      let (lm, le) := f.largest
      if magAbove m q lm le then (f.maxBits neg, ovf) else (f.finBits neg m q, false)

/-- Convert a value to an integer type of n bits (R196). -/
def convInt (n : Nat) (signed : Bool) (rm s : Nat) (ovf : Bool) (v : Val) : Nat × Bool :=
  let lo : Int := if signed then -((2 ^ (n - 1) : Nat) : Int) else 0
  let hi : Int := if signed then ((2 ^ (n - 1) : Nat) : Int) - 1 else ((2 ^ n : Nat) : Int) - 1
  match v with
  | .nan _ _ => (0, ovf)
  | .inf neg => (lowBits (if neg then lo else hi) n, ovf)
  | .fin neg man exp =>
    let m := roundAt rm s neg man exp 0
    let z : Int := if neg then -(m : Int) else m
    if z < lo then (lowBits lo n, ovf)
    else if hi < z then (lowBits hi n, ovf)
    else (lowBits z n, false)

/-- Bits and signedness of an integer type code (R184). -/
def intType (t : Nat) : Nat × Bool := (8 * 2 ^ (t / 2), t % 2 == 0)

/-- The value of a lane of a type code 0 to 13 (R184 to R186). -/
def decType (t w : Nat) : Val :=
  match fmtOf t with
  | some f => f.dec w
  | none =>
    let (n, signed) := intType t
    Val.ofInt (if signed then sext w n else (w % 2 ^ n : Nat))

/-- Convert a value to a type code 0 to 13 (R196). -/
def convType (t rm s : Nat) (ovf : Bool) (v : Val) : Nat × Bool :=
  match fmtOf t with
  | some f => f.conv rm s ovf v
  | none => let (n, signed) := intType t; convInt n signed rm s ovf v

/-- Whether a value is a NaN. -/
def Val.isNan : Val → Bool
  | .nan _ _ => true
  | _ => false

/-- Whether a value is a zero. -/
def Val.isZero : Val → Bool
  | .fin _ 0 _ => true
  | _ => false

/-- The value with its sign turned; a NaN keeps its own (R198). -/
def Val.flip : Val → Val
  | .fin n m e => .fin (!n) m e
  | .inf n => .inf (!n)
  | v => v

/-- Exact sum of two finite values; an exact zero of opposite signs is negative only when rounding down (R196). -/
def finAdd (rm : Nat) (an : Bool) (am : Nat) (ae : Int) (bn : Bool) (bm : Nat) (be : Int) : Val :=
  let e := min ae be
  let x : Int := if an then -(shiftTo am ae e : Int) else shiftTo am ae e
  let y : Int := if bn then -(shiftTo bm be e : Int) else shiftTo bm be e
  let z := x + y
  if z = 0 then .fin (if an == bn then an else rm == 3) 0 e
  else .fin (decide (z < 0)) z.natAbs e

/-- Exact sum (R198). -/
def Val.add (rm : Nat) (a b : Val) : Val :=
  match a, b with
  | .nan n f, _ => .nan n f
  | _, .nan n f => .nan n f
  | .inf n, .inf m => if n == m then .inf n else Val.fresh
  | .inf n, _ => .inf n
  | _, .inf n => .inf n
  | .fin an am ae, .fin bn bm be => finAdd rm an am ae bn bm be

/-- Exact difference: a NaN subtrahend keeps its sign (R198). -/
def Val.sub (rm : Nat) (a b : Val) : Val := a.add rm b.flip

/-- Exact product (R198). -/
def Val.mul (a b : Val) : Val :=
  match a, b with
  | .nan n f, _ => .nan n f
  | _, .nan n f => .nan n f
  | .inf n, .inf m => .inf (n != m)
  | .inf n, .fin m k _ => if k = 0 then Val.fresh else .inf (n != m)
  | .fin n k _, .inf m => if k = 0 then Val.fresh else .inf (n != m)
  | .fin an am ae, .fin bn bm be => .fin (an != bn) (am * bm) (ae + be)

/-- Exact a × b + c: the first NaN of a, b, c (R198). -/
def Val.fma (rm : Nat) (a b c : Val) : Val :=
  match a, b, c with
  | .nan n f, _, _ => .nan n f
  | _, .nan n f, _ => .nan n f
  | _, _, .nan n f => .nan n f
  | _, _, _ => (a.mul b).add rm c

/-- A value times a power of two. -/
def Val.scale (k : Int) : Val → Val
  | .fin n m e => .fin n m (e + k)
  | v => v

/-- Order of two values that are no NaN: less than. -/
def Val.lt (a b : Val) : Bool :=
  match a, b with
  | .nan _ _, _ => false
  | _, .nan _ _ => false
  | .inf n, .inf m => n && !m
  | .inf n, _ => n
  | _, .inf n => !n
  | .fin an am ae, .fin bn bm be =>
    let e := min ae be
    let x : Int := if an then -(shiftTo am ae e : Int) else shiftTo am ae e
    let y : Int := if bn then -(shiftTo bm be e : Int) else shiftTo bm be e
    decide (x < y)

/-- Equality of two values as numbers; a NaN equals nothing. -/
def Val.eq (a b : Val) : Bool := !a.isNan && !b.isNan && !a.lt b && !b.lt a

/-- Whether a value is below zero (R207). -/
def Val.negative : Val → Bool
  | .fin n m _ => n && m != 0
  | .inf n => n
  | .nan _ _ => false

/-- Integer square root by bits. -/
def isqrtFrom (n : Nat) : Nat → Nat → Nat
  | 0, r => r
  | i + 1, r => isqrtFrom n i (if (r + 2 ^ i) * (r + 2 ^ i) ≤ n then r + 2 ^ i else r)

/-- Integer square root. -/
def isqrt (n : Nat) : Nat := isqrtFrom n (Nat.log2 n / 2 + 1) 0

/-- Square root to nearest even in F32 (R203, R206): a root of at least 28 bits with a sticky bit below it. -/
def Val.sqrt : Val → Val
  | .nan n f => .nan n (if bit f 22 then f else f + 0x400000)
  | .inf n => if n then Val.fresh else .inf false
  | .fin n m e =>
    if m = 0 then .fin n 0 e
    else if n then Val.fresh
    else
      let k : Nat := if e % 2 = 0 then 64 else 65
      let w := m * 2 ^ k
      let r := isqrt w
      f32.rne (.fin false (2 * r + b2n (decide (r * r < w))) ((e - k) / 2 - 1))

/-- An addition of two F32 words in nearest-even: `.fadd`, the .com adds and CKACC (R179, R195, R279, R317). -/
def fadd32 (x y : Nat) : Nat := f32.arith 0 0 ((f32.dec x).add 0 (f32.dec y))

end Sys2Proof.Machine
end

