-- ==== Sys2Proof/Machine/Access.lean ====
section
/-! DEFINITION. Memory accesses: their checks (R137, R138, R146 to R148, R267), footprints of jobs in flight (R173,
R233), and loads and stores at the home with their logical times (R153, R165 to R167). -/

namespace Sys2Proof.Machine

/-- A table entry is read by a walk: an ordinary read through its home slice (R151; log entry 61). -/
def readTable (s : State) (k : Nat) : State :=
  if k < 2 ^ 40 then ((l2Fill s (k / 128 * 128) 0 false false false).readTime k 0).2 else s

/-- An uncorrectable error that a walk met is recorded (R272, R276). -/
def noteWalk (s : State) (die space va : Nat) : State :=
  match (walkReads s die space va).find? (fun k => s.marked k 8) with
  | some k => s.dieError (k / 2 ^ 36 % 16) true 6 0 space (wordOfNat k) 0
  | none => s

/-- A cached translation with an error is discarded and recorded as corrected; it is walked again (R272). -/
def discardBad (s : State) (die column space va : Nat) : State :=
  let d := s.dieAt die
  let st := mget (fun _ => []) d.stations column
  let bad := fun (t : Transl) => t.ue && t.covers space va
  if !(st.any bad || d.llc.any bad) then s
  else (s.putDie die { d with stations := mput d.stations column (st.filter (fun t => !bad t))
                              llc := d.llc.filter (fun t => !bad t) }).dieError die false 7 column space (wordOfNat va) 0

/-- Translate a virtual address at a station (R151): the station's cache, the die's cache, a walk. -/
def translate (s0 : State) (die column space va : Nat) : Tr × State :=
  let s := discardBad s0 die column space va
  let d := s.dieAt die
  let st := mget (fun _ => []) d.stations column
  match st.find? (·.covers space va) with
  | some t => (.ok t.leaf t.bits, s.putDie die { d with stations := mput d.stations column (install 512 st t) })
  | none =>
    match d.llc.find? (·.covers space va) with
    | some t => (.ok t.leaf t.bits,
        s.putDie die { d with stations := mput d.stations column (install 512 st t), llc := installLast d.llc t })
    | none =>
      let s1 := (walkReads s die space va).foldl readTable s
      match walk s die space va with
      | .ok leaf bits =>
        let t : Transl := { space := space, page := va / 2 ^ bits, bits := bits, leaf := leaf }
        let e := s1.dieAt die
        (.ok leaf bits,
          s1.putDie die { e with stations := mput e.stations column (install 512 st t), llc := installLast e.llc t })
      | .ue => (.ue, noteWalk s1 die space va)
      | r => (r, s1)

/-- What an access does, as far as its checks differ (R148 reason 0x0B, R319, R347, R409, R415). -/
inductive AccKind where
  | load | store | atomic | gather | scatter
  deriving DecidableEq, Repr

/-- Whether an access of a kind writes (R144). -/
def AccKind.writes : AccKind → Bool
  | .load | .gather => false
  | _ => true

/-- The outcome of the checks of an access: where it goes, or a trap's cause and TVAL. -/
inductive AccR where
  | ok (t : Target) (leaf : Nat)
  | trap (cause : Nat) (tval : Word)
  deriving DecidableEq, Repr

/-- Whether a cluster serves accesses: it exists and is not under retest or out of service (R148 reason 0x08). -/
def State.serves (s : State) (ck : Nat) : Bool :=
  let h := (s.clusterAt ck).hstate
  ck % 4096 < 3200 && (h == 0 || h == 3)

/-- The checks on a translated access in their order (R150, R267, R319, R415). -/
def checkTarget (s : State) (addr : Word) (n : Nat) (k : AccKind) (leaf bits va : Nat) : AccR :=
  let type := fld leaf 2 3
  let t := targetOf leaf bits va
  if type = 3 && n != 8 then .trap 3 addr
  else if (k == .atomic && (type = 3 || type = 5 || type = 6)) || ((k == .gather || k == .scatter) && (type = 3 || type = 6))
    then .trap 4 (xval addr 11)
  else if k.writes && (!leafWrite leaf || type = 6) then .trap 4 (xval addr 3)
  else
    match t with
    | .array ck off =>
      if !s.serves ck || (s.clusterAt ck).spad < off + n then .trap 4 (xval addr 8)
      else if k.writes && (s.clusterAt ck).inPark off n then .trap 4 (xval addr 9)
      else .ok t leaf
    | .remote m _ => if s.pod.populated.contains m then .ok t leaf else .trap 4 (xval addr 10)
    | _ => .ok t leaf

/-- The checks of an access of n bytes at an address by a core of a cluster: alignment first, then the form, the local
limits, translation and what the target refuses (R137, R138, R148, R267). -/
def resolve (s : State) (ck space : Nat) (addr : Word) (n : Nat) (k : AccKind) : AccR × State :=
  if addr.toNat % n != 0 then (.trap 3 addr, s)
  else
    match formOf addr with
    | .bad => (.trap 4 (xval addr 6), s)
    | .near off =>
      let c := s.clusterAt ck
      if c.spad < off + n then (.trap 4 (xval addr 7), s)
      else if k.writes && c.inPark off n then (.trap 4 (xval addr 9), s)
      else (.ok (.array ck off) 0, s)
    | .virt va =>
      match translate s (ck / 4096) (ck % 4096 % 80) space va with
      | (.ok leaf bits, s1) => (checkTarget s1 addr n k leaf bits va, s1)
      | (.miss r, s1) => (.trap 4 (xval addr r), s1)
      | (.ue, s1) => (.trap 16 (wordOfNat va), s1)

/-- The memory key of a target that is memory of this module. -/
def Target.key? : Target → Option Nat
  | .hbm pa => some pa
  | .array ck off => some (arrayKey ck off)
  | .landing p a => some (landingKey p a)
  | _ => none

/-- Whether two stretches of keys meet. -/
def meets (k n j m : Nat) : Bool := decide (k < j + m) && decide (j < k + n)

/-- The bytes of a B block image by type code (R209). -/
def imageBytes : Nat → Nat
  | 9 => 2048 | 11 => 1024 | 12 => 1024 | 13 => 512 | _ => 256

/-- The fields of a command's control field and second register (R222, R361). -/
def LCmd.type (c : LCmd) : Nat := fld c.control 4 5
def LCmd.flags (c : LCmd) : Nat := fld c.control 9 2
def LCmd.a (c : LCmd) : Nat := fld c.second 0 2
def LCmd.m (c : LCmd) : Nat := fld c.second 2 3
def LCmd.nk (c : LCmd) : Nat := fld c.second 6 7
def LCmd.f (c : LCmd) : Nat := if c.fn = 0 then fld c.second 0 6 else fld c.second 16 6
def LCmd.d (c : LCmd) : Nat := fld c.second 5 5
def LCmd.p (c : LCmd) : Nat := fld c.second 10 6
def LCmd.c (c : LCmd) : Nat := fld c.second 16 7

/-- The vector form of a drain. -/
def LCmd.toVec (c : LCmd) : Bool := c.fn == 4 && bit c.control 9

/-- Bytes of a drained element by type code (R220). -/
def drainBytes : Nat → Nat
  | 8 => 4 | 9 => 2 | 10 => 2 | _ => 1

/-- The bytes of n elements of an A tile (R188, R212, R215). -/
def aBytes (type n : Nat) : Nat :=
  match type with
  | 9 => 2 * n | 13 => n / 2 | 17 => 4 * n | _ => n

/-- The bytes a command reads of the array, from its region address (R175, R212, R222, R361). -/
def LCmd.readLen (c : LCmd) : Nat :=
  match c.fn with
  | 0 => if c.flags < 2 then c.nk * (imageBytes c.type + 32 * c.flags) else 0
  | 1 => aBytes c.type (c.m * 32 * (32 * c.nk))
  | 2 => aBytes 17 (32 * (32 * c.nk))
  | 7 => 2048
  | _ => 0

/-- The bytes a command writes in the array (R220, R221, R366). -/
def LCmd.writeLen (c : LCmd) : Nat :=
  match c.fn with
  | 4 => if c.toVec then 0 else c.m * 1024 * drainBytes c.type
  | 6 => 4352
  | _ => 0

/-- The offset of a command's region in the scratchpad. -/
def LCmd.off (c : LCmd) : Nat := c.region.toNat % 262144

/-- The cores of a cluster with their keys. -/
def coreKeys (ck : Nat) : List Nat := (List.range 8).map (fun c => ck * 8 + c)

/-- The commands in the queues of a cluster's cores. -/
def State.queuedCommands (s : State) (ck : Nat) : List LCmd :=
  (coreKeys ck).flatMap fun k => (s.coreAt k).loom.queue

/-- Those that still have to read. -/
def State.liveCommands (s : State) (ck : Nat) : List LCmd :=
  (s.queuedCommands ck).filter (fun c => !c.finished)

/-- Whether a stretch of memory is in a segment. -/
def Seg.touches (g : Seg) (key n : Nat) : Bool :=
  match g with
  | .mem k l _ => l != 0 && meets k l key n
  | _ => false

/-- The footprint of a job as it is compared: bytes of a copy, whole lines of a gather or scatter (R173). -/
def footprint (kind : JobKind) (segs : List Seg) : List Seg :=
  match kind with
  | .copy => segs
  | _ => segs.map fun g => match g with
    | .mem k n leaf => .mem (k / 128 * 128) (if n = 0 then 0 else ((k + n - 1) / 128 + 1 - k / 128) * 128) leaf
    | g => g

/-- New value of an atomic operation on n bytes (R317), `.fadd` apart. -/
def amoInt (op bits : Nat) (old opnd : Nat) : Nat :=
  let x := old % 2 ^ bits
  let y := opnd % 2 ^ bits
  match op with
  | 0 => y
  | 1 => (x + y) % 2 ^ bits
  | 2 => x &&& y
  | 3 => x ||| y
  | 4 => x ^^^ y
  | 5 => if sext x bits ≤ sext y bits then x else y
  | 6 => if sext x bits ≥ sext y bits then x else y
  | 7 => min x y
  | _ => max x y

/-- The whole granules of 8 bytes that a write of n bytes at a key covers lose their error mark; others keep it
(R242, R415). -/
def clearMarks (bad : List Nat) (key n : Nat) : List Nat :=
  bad.filter (fun g => !(decide (key ≤ 8 * g) && decide (8 * g + 8 ≤ key + n)))

/-- Put bytes at a home in HBM, an array or a landing buffer (R153) for a requester of a dedup domain: the slice's part, the
bytes, the error marks, the issuing cluster's L1 copy (R142, R156, R157). -/
def commitDomain (s : State) (ck dom key : Nat) (bs : List Byte) (leaf : Nat) : State :=
  let n := bs.length
  if n = 0 then s
  else if key < 2 ^ 40 then
    let line := key / 128 * 128
    let whole := n == 128 && key % 128 == 0
    let s1 := l2Miss s line dom (leafDedup leaf) (leafStream leaf) whole
    let s2 := (l2Dirty s1 line).writeBytes key bs
    let s3 := if whole then l2Whole s2 line dom (leafDedup leaf) else s2
    { (s3.putCluster ck ((s3.clusterAt ck).l1Update key bs (s3.lineTimes key))) with bad := clearMarks s3.bad key n }
  else { (s.writeBytes key bs) with bad := clearMarks s.bad key n }

/-- The same for a requester of a context, in the domain that the context has now (R383). -/
def commitBytes (s : State) (ck space key : Nat) (bs : List Byte) (leaf : Nat) : State :=
  commitDomain s ck ((s.clusterAt ck).ctxAt space).ddom key bs leaf

/-- Note one line of 128 bytes that is about to be overwritten, where it is not noted yet. -/
def noteLine (m : Memory) (o : SMap Nat) (l : Nat) : SMap Nat :=
  if o.any (fun x => x.1 == l) then o
  else mput o l (leNat (bytesFrom (m.filter (fun x => x.1 / 128 == l)) (128 * l) 128))

/-- Remember the lines that stood at addresses stored to, until the core's next CMO.I (R284, R334). -/
def Core.noteCode (c : Core) (m : Memory) (key n : Nat) : Core :=
  let ls := (List.range ((key + n - 1) / 128 + 1 - key / 128)).map (fun i => key / 128 + i)
  { c with oldCode := ls.foldl (noteLine m) c.oldCode }

/-- A write is about to reach n bytes: no core's fetch is ordered with it before that core's next CMO.I, whoever writes
(R284, R334). -/
def State.noteCode (s : State) (key n : Nat) : State :=
  { s with core := s.core.noteCode s.mem key n, cores := s.cores.map (fun x => (x.1, x.2.noteCode s.mem key n)) }

/-- New value of an atomic operation (R317). -/
def amoOp (op bits old opnd : Nat) : Nat := if op = 9 then fadd32 old opnd else amoInt op bits old opnd

/-- The issuer of a use-annotated atomic, or of an engine job, learns the time at which it was performed, on its core or
beside its record (R182). -/
def bumpUsed (s : State) (ck slot t : Nat) : State :=
  match (coreKeys ck).find? (fun k => (s.coreAt k).running == some slot) with
  | some k => let c := s.coreAt k; s.putCore k { c with usedTime := max c.usedTime t }
  | none =>
    let c := s.clusterAt ck
    let x := c.task slot
    let p := { x.parked with usedTime := max x.parked.usedTime t }
    if x.st == .free then s else s.putCluster ck { c with tasks := mput c.tasks slot { x with parked := p } }

/-- The issuer of a .com or .qnt atomic learns that it was performed: by a message where it is on another module (R182). -/
def notePerformed (t : Nat) (s : State) (p : Pending) : State :=
  match p.reply with
  | some w => s.send { srcModule := s.pod.module, src := p.ck, dstModule := p.srcModule, dst := w.ck
                       msg := { handler := 7, w1 := wordOfNat t, w2 := 4, space := p.space }, reply := w }
  | none => bumpUsed s p.ck p.slot t

/-- The line of an update in its slice (R154). -/
def fillFor (s : State) (u : Pending) : State :=
  if u.key < 2 ^ 40 then l2Fill s (u.key / 128 * 128) u.ddom (leafDedup u.leaf) (leafStream u.leaf) false else s

/-- Apply updates to one location as one write at a time (R179, R180); of a quantum some may be of 4 and some of 8 bytes. -/
def applyUpdates (s : State) (us : List Pending) (t : Nat) : State :=
  match us with
  | [] => s
  | u :: _ =>
    let n := us.foldl (fun n p => max n p.n) u.n
    let v := us.foldl (fun v p => v - v % 2 ^ (8 * p.n) + amoOp p.op (8 * p.n) v p.operand.toNat) (s.readN u.key n)
    let s1 := fillFor s u
    let r := s1.lineTimes u.key
    let s2 := commitDomain ((s1.setTimes u.key (max r.1 t) (max r.2 t)).noteCode u.key n) u.ck u.ddom u.key (leBytes n v) u.leaf
    us.foldl (notePerformed t) s2

/-- Apply every pending update of one quantum at a location (R180); the value is kept as that of the latest quantum. -/
def applyQuantum (s : State) (key q : Nat) : State :=
  let mine := s.pod.qnt.filter (fun p => p.key == key && p.quantum == q)
  match mine with
  | [] => s
  | _ :: _ =>
    let s1 := applyUpdates s mine (64 * (q + 1))
    { s1 with pod := { s1.pod with qnt := s1.pod.qnt.filter (fun p => !(p.key == key && p.quantum == q))
                                   qntDone := mput s1.pod.qntDone key (q, wordOfNat (s1.readN key (if key % 8 = 0 then 8 else 4))) } }

/-- Apply the pending quanta of a line that an access forces (R180): those whose boundary is at most the time the
access would take, lease included. The fuel is the number of pending updates. -/
def settleLine (limit : Nat × Nat → Nat) (line : Nat) : Nat → State → State
  | 0, s => s
  | fuel + 1, s =>
    let l := limit (s.lineTimes line)
    let ready := s.pod.qnt.filter (fun p => p.key / 128 * 128 == line && decide (64 * (p.quantum + 1) ≤ l))
    match minBy (·.quantum) ready with
    | none => s
    | some p => settleLine limit line fuel (applyQuantum s p.key p.quantum)

/-- Before a read by an agent with this pts (R165, R180). -/
def settleRead (s : State) (key pts : Nat) : State :=
  settleLine (fun t => max pts t.1 + 16) (key / 128 * 128) s.pod.qnt.length s

/-- Before a write by an agent with this pts (R165, R180). -/
def settleWrite (s : State) (key pts : Nat) : State :=
  settleLine (fun t => max (pts + 1) (t.2 + 1)) (key / 128 * 128) s.pod.qnt.length s

/-- The logical time of the current core (R161). -/
def State.setPts (s : State) (t : Nat) : State := { s with core := { s.core with pts := t } }

/-- Before the current core stores bytes at a home: the line in its slice, the quanta that come first, the words that
stood there (R154, R180, R284). -/
def storeFirst (s : State) (key n leaf : Nat) : State :=
  let s1 := if key < 2 ^ 40 then
      l2Fill s (key / 128 * 128) (s.ctx.ddom) (leafDedup leaf) (leafStream leaf) (n == 128 && key % 128 == 0) else s
  let s2 := settleWrite s1 key s1.core.pts
  s2.noteCode key n

/-- A store of bytes by the current core at a checked target that is memory (R165, R415). -/
def storeMem (s : State) (key : Nat) (bs : List Byte) (leaf : Nat) : State :=
  let s1 := storeFirst s key bs.length leaf
  let r := s1.writeTime key s1.core.pts
  commitBytes (r.2.setPts r.1) s.ck s1.core.space key bs leaf

/-- A line that a load brought from its home is allocated in the L1 on an L1-allocate page (R142, R166). -/
def fillL1 (s : State) (va key leaf : Nat) : State :=
  if key < 2 ^ 40 && leafL1 leaf then
    let t := s.lineTimes key
    let line := key / 128 * 128
    s.putCluster s.ck (s.cluster.l1Put
      { space := s.core.space, vline := va / 128, key := line, share := 0, wts := t.1, rts := t.2,
        data := bytesFrom s.mem line 128, bits := sizeBits (fld leaf 5 4) })
  else s

/-- Before the current core reads a home: the line in its slice, and the quanta that come first (R154, R180). -/
def loadFirst (s : State) (key leaf : Nat) : State :=
  settleRead (if key < 2 ^ 40 then
      l2Fill s (key / 128 * 128) s.ctx.ddom (leafDedup leaf) (leafStream leaf) false else s) key s.core.pts

/-- A load of n bytes at the home (R165). -/
def loadHome (s : State) (va key n leaf : Nat) : Nat × State :=
  let s1 := loadFirst s key leaf
  let r := s1.readTime key s.core.pts
  let s2 := fillL1 (r.2.setPts r.1) va key leaf
  (s2.readN key n, s2)

/-- The L1 copy that a load of the current core hits: one under a lease that covers the load's time (R166). -/
def State.l1Hit (s : State) (va key leaf : Nat) : Option L1Line :=
  match (if key < 2 ^ 40 && leafL1 leaf then s.cluster.l1? s.core.space va else none) with
  | some x => if max s.core.pts x.wts ≤ x.rts then some x else none
  | none => none

/-- Whether the L1 copy that a load hits has an uncorrectable error (R272). -/
def State.badCopy (s : State) (va key leaf : Nat) : Bool := (s.l1Hit va key leaf).any (·.ue)

/-- A load of n bytes by the current core at a checked target that is memory (R165, R166): an L1 hit under a current
lease, else the home, which fills the L1 on an L1-allocate page (R142). -/
def loadMem (s : State) (va key n leaf : Nat) : Nat × State :=
  match s.l1Hit va key leaf with
  | some x => (leNat ((x.data.drop (va % 128)).take n), s.setPts (max s.core.pts x.wts))
  | none => loadHome s va key n leaf

/-- A strongly ordered access is performed at pts + 1 (R167). -/
def State.strong (s : State) : State := s.setPts (s.core.pts + 1)

/-- A read of host memory returns a free value (R146; log entry 3). -/
def loadHost (s : State) (n : Nat) : Nat × State :=
  let (v, s1) := s.choose
  (v % 2 ^ (8 * n), s1.strong)

/-- A write to host memory leaves the module (R146). -/
def storeHost (s : State) (port addr : Nat) (bs : List Byte) : State :=
  let s1 := s.strong
  { s1 with pod := { s1.pod with hostOut := s1.pod.hostOut ++ [(port, addr, bs)] } }

end Sys2Proof.Machine
end

