-- ==== Sys2Proof/Machine/Almanac.lean ====
section
/-! DEFINITION. Handles (R16 to R19) and the almanac: entries, spill area, allocation, lookup, filling (R62 to R87). -/

namespace Sys2Proof.Machine

/-- A future handle (R16, R17). -/
def futureHandle (module ck slot gen : Nat) : Word :=
  wordOfNat (2 ^ 62 + module * 2 ^ 52 + (ck / 4096) * 2 ^ 48 + (ck % 4096) * 2 ^ 36 + slot * 2 ^ 24 + gen)

/-- A work-ladder handle: subkind 1 launch, 2 graph, 3 phase, 4 job (R16, R17). -/
def ladderHandle (module die index sub gen : Nat) : Word :=
  wordOfNat (2 ^ 63 + module * 2 ^ 52 + die * 2 ^ 48 + index * 2 ^ 36 + sub * 2 ^ 33 + gen)

/-- A group name (R16, R17). -/
def groupName (module ck core code gen : Nat) : Word :=
  wordOfNat (3 * 2 ^ 62 + module * 2 ^ 52 + (ck / 4096) * 2 ^ 48 + (ck % 4096) * 2 ^ 36 + core * 2 ^ 29 + code * 2 ^ 27 + gen)

/-- Fields of a handle (R16). -/
def hKind (h : Word) : Nat := fld h.toNat 62 2
def hModule (h : Word) : Nat := fld h.toNat 52 10
def hDie (h : Word) : Nat := fld h.toNat 48 4
def hCluster (h : Word) : Nat := fld h.toNat 36 12
def hSlot (h : Word) : Nat := fld h.toNat 24 12
def hGen (h : Word) : Nat := h.toNat % 16777216
def hSub (h : Word) : Nat := fld h.toNat 33 3
def hCk (h : Word) : Nat := hDie h * 4096 + hCluster h
/-- The core of a group name or place word. -/
def hCore (h : Word) : Nat := fld h.toNat 29 3

/-- Whether a handle's form is bad (R19). -/
def badForm (h : Word) : Bool :=
  let n := h.toNat
  match hKind h with
  | 0 => true
  | 1 => decide (3199 < hCluster h)
  | 2 => hSub h == 0 || 4 < hSub h || fld n 24 9 != 0
  | _ => decide (3199 < hCluster h) || fld n 32 4 != 0 || fld n 24 3 != 0

/-- The check of a handle operand on the issuing core: ILLEGAL for a bad form, XFAULT for a module that is not populated
(R19, R266). -/
def checkHandle (s : State) (h : Word) : Option (Nat × Word) :=
  if badForm h then some (1, h)
  else if s.pod.populated.contains (hModule h) then none
  else some (4, h)

/-- A place in memory that the heddle, the placer or the window reaches for: the key and the leaf in HBM or an array, under
a SPACE; none for a translation or permission miss (R75, R89, R119). -/
structure Spot where
  key : Nat
  leaf : Nat
  deriving DecidableEq, Repr

/-- The place of n bytes at an address, as the heddle reaches it. -/
def heddleSpot (s : State) (ck space va n : Nat) (write : Bool) : Option Spot × State :=
  match resolve s ck space (wordOfNat va) n (if write then .store else .load) with
  | (.ok t leaf, s1) => (t.key?.map (fun k => { key := k, leaf := leaf }), s1)
  | (.trap _ _, s1) => (none, s1)

/-- The pts of an agent of a cluster: a core, or the heddle for none (R161, R162). -/
def State.agentPts (s : State) (ck : Nat) : Option Nat → Nat
  | some k => (s.coreAt k).pts
  | none => (s.clusterAt ck).heddle.pts

/-- An agent's pts after an access (R162). -/
def State.putPts (s : State) (ck : Nat) (who : Option Nat) (t : Nat) : State :=
  match who with
  | some k => s.putCore k { s.coreAt k with pts := t }
  | none => s.putHeddle ck { (s.clusterAt ck).heddle with pts := t }

/-- A read by an agent: the line in its slice, its lease, the agent's pts (R154, R161, R162, R165). -/
def agentRead (s : State) (who : Option Nat) (ck space : Nat) (p : Spot) : State :=
  let s1 := if p.key < 2 ^ 40 then
      l2Fill s (p.key / 128 * 128) ((s.clusterAt ck).ctxAt space).ddom (leafDedup p.leaf) (leafStream p.leaf) false else s
  let (t, s2) := (settleRead s1 p.key (s.agentPts ck who)).readTime p.key (s.agentPts ck who)
  s2.putPts ck who t

/-- A write by an agent of bytes of one line (R153, R157, R161, R162, R165). -/
def agentWrite (s : State) (who : Option Nat) (ck space : Nat) (p : Spot) (bs : List Byte) : State :=
  let s1 := if p.key < 2 ^ 40 then
      l2Fill s (p.key / 128 * 128) ((s.clusterAt ck).ctxAt space).ddom (leafDedup p.leaf) (leafStream p.leaf)
        (bs.length == 128) else s
  let (t, s2) := (settleWrite s1 p.key (s.agentPts ck who)).writeTime p.key (s.agentPts ck who)
  commitBytes ((s2.putPts ck who t).noteCode p.key bs.length) ck space p.key bs p.leaf

/-- The heddle acts on an operation that carries time m at no time below it (R170). -/
def State.heddleAt (s : State) (ck m : Nat) : State :=
  let h := (s.clusterAt ck).heddle
  s.putHeddle ck { h with pts := max h.pts m }

/-- A read and a write by the heddle's agent (R161). -/
def heddleRead (s : State) (ck space : Nat) (p : Spot) : State := agentRead s none ck space p
def heddleWrite (s : State) (ck space : Nat) (p : Spot) (bs : List Byte) : State := agentWrite s none ck space p bs

/-- The kill messages of a job leave with the time of their event, for this module and, where the pod has others, for them
(R170, R275). -/
def killJob (s : State) (space code time : Nat) : State :=
  let far := if s.pod.populated.any (· != s.pod.module) then s.pod.killsFar ++ [(space, code, time)] else s.pod.killsFar
  { s with pod := { s.pod with kills := s.pod.kills ++ [(space, code, time)], killsFar := far } }

/-- A fatal context error: the die's bank records it, the job is killed (R274, R275, R276). -/
def fatalAt (s : State) (die space code unit : Nat) (addr : Word) (time : Nat) : State :=
  killJob (s.dieError die true unit 0 space addr (wordOfNat (code % 256 * 65536))) space code time

/-- A fatal context error that no agent's time stands behind. -/
def fatal (s : State) (die space code unit : Nat) (addr : Word) : State := fatalAt s die space code unit addr 0

/-- The fold of a generation (R73). -/
def foldGen (g : Nat) : Nat := g % 4096 ^^^ g / 4096

/-- The fatal context error of a miss or an uncorrectable error in a future's spill window, at its virtual address (R75, R274;
log entry 58). -/
def fatalSpill (s : State) (ck space slot gen m : Nat) : State :=
  let base := ((s.clusterAt ck).ctxAt space).spilla
  fatalAt s (ck / 4096) space 0x311 8 (wordOfNat (base + 64 * ((slot ^^^ foldGen gen) % 4096))) m

/-- The places of the sixteen records of a future's window, read by the heddle (R73, R74); none on a miss, and where
a record has an uncorrectable error (R272, R274). -/
def spillWindow (s : State) (ck space slot gen : Nat) : Option (List Spot) × State :=
  let base := ((s.clusterAt ck).ctxAt space).spilla
  let i := slot ^^^ foldGen gen
  (List.range 16).foldl
    (fun (r : Option (List Spot) × State) j =>
      match r with
      | (none, s) => (none, s)
      | (some l, s) =>
        match heddleSpot s ck space (base + 64 * ((i + j) % 4096)) 64 true with
        | (some p, s1) =>
          let s2 := heddleRead s1 ck space p
          if s2.marked p.key 64 then (none, s2) else (some (l ++ [p]), s2)
        | (none, s1) => (none, s1))
    (some [], s)

/-- Whether the record at a place is valid, and whether it is of a handle (R73). -/
def recValid (s : State) (p : Spot) : Bool := bit (s.readN (p.key + 32) 1) 7
def recOf (s : State) (h : Word) (p : Spot) : Bool := recValid s p && s.readN p.key 8 == h.toNat

/-- Encoding of an entry's state in a spill record (R73). -/
def FState.code : FState → Nat
  | .empty => 1 | .full => 2 | .poisoned => 3 | .cancelled => 4 | .free => 0 | .spilled => 5

/-- The state a spill record's code names. -/
def FState.ofCode : Nat → FState
  | 1 => .empty | 2 => .full | 3 => .poisoned | 4 => .cancelled | _ => .free

/-- Write a spill record (R73). -/
def writeRec (s : State) (ck space : Nat) (p : Spot) (h : Word) (e : Entry) : State :=
  heddleWrite s ck space p (leBytes 8 h.toNat ++ leBytes 8 e.value.toNat ++ leBytes 8 e.parent.toNat ++
    leBytes 8 e.owner.toNat ++ leBytes 32 (e.st.code + 8 * b2n e.keep + 128))

/-- Clear a record's valid bit. -/
def clearRec (s : State) (ck space : Nat) (p : Spot) : State :=
  heddleWrite s ck space { p with key := p.key + 32 } [BitVec.ofNat 8 (s.readN (p.key + 32) 1 % 128)]

/-- Write the value and the state of an EMPTY record; the spill timestamp rises to the fill's time (R77, R171). -/
def fillRec (s : State) (ck space : Nat) (p : Spot) (st : FState) (value : Word) (keep : Bool) (time : Nat) : State :=
  let s1 := heddleWrite (heddleWrite s ck space { p with key := p.key + 8 } (leBytes 8 value.toNat)) ck space
    { p with key := p.key + 32 } [BitVec.ofNat 8 (st.code + 8 * b2n keep + 128)]
  let h := (s1.clusterAt ck).heddle
  s1.putHeddle ck { h with spillTime := max h.spillTime time }

/-- Whether an entry is pinned (R64). -/
def Entry.pinned (e : Entry) : Bool := !e.waiters.isEmpty || !e.refill.isEmpty || e.task || e.scan0

/-- Whether a slot holds an entry that is resident. -/
def Entry.resident (e : Entry) : Bool := !(e.st == .free || e.st == .spilled)

/-- Replace an entry of a cluster. -/
def State.putEntry (s : State) (ck slot : Nat) (e : Entry) : State :=
  s.putCluster ck ((s.clusterAt ck).putEntry slot e)

/-- The handle of the future that an entry holds. -/
def entryHandle (s : State) (ck slot : Nat) : Word :=
  futureHandle s.pod.module ck slot ((s.clusterAt ck).entry slot).gen

/-- Whether a slot is in a context's range (R66, R90). -/
def Cluster.inRange (c : Cluster) (space slot : Nat) : Bool :=
  let x := c.ctxAt space
  decide (x.ftBase ≤ slot) && decide (slot < x.ftBase + x.ftLimit)

/-- The context has a spill record from now on (R75). -/
def Cluster.noteSpill (c : Cluster) (space : Nat) : Cluster :=
  let x := c.ctxAt space
  if x.spilled then c else c.putCtx space { x with spilled := true }

/-- A resident entry with an uncorrectable error becomes POISONED with 0x0010, its waiters are woken, the error is recorded
(R272, R276). -/
def mendEntry (s : State) (ck slot : Nat) : State :=
  let e := (s.clusterAt ck).entry slot
  if !e.ue then s
  else
    let e1 := if e.resident then { e with ue := false, st := .poisoned, value := 0x10, toWake := e.toWake ++ e.waiters }
      else { e with ue := false }
    (s.putEntry ck slot e1).clusterError ck true 2 0 e.space (wordOfNat slot) 0

/-- Spill an unpinned entry into a clear record; the spill timestamp rises to its fill time (R72, R171). An error in the entry
is met here (R272). -/
def spillTo (s0 : State) (ck slot : Nat) (p : Spot) : State :=
  let s := mendEntry s0 ck slot
  let c := s.clusterAt ck
  let e := c.entry slot
  let s1 := writeRec s ck e.space p (entryHandle s ck slot) e
  let c1 := (s1.clusterAt ck).noteSpill e.space
  let kept := c1.heddle.keptSpilled
  s1.putCluster ck
    { (c1.putEntry slot { count := e.count, st := .spilled, age := s.cycle, refill := e.refill, toWake := e.toWake, space := e.space }) with
      heddle := { c1.heddle with spillTime := max c1.heddle.spillTime e.fillTime,
                                 keptSpilled := if e.keep then (entryHandle s ck slot, e.launch) :: kept else kept } }

/-- The outcome of trying to spill an entry now. -/
inductive Spill where
  | done | noRecord | fatal
  deriving DecidableEq, Repr

/-- Spill an unpinned entry now, as one whole (R72, R74, R87). -/
def spillNow (s : State) (ck slot : Nat) : Spill × State :=
  let e := (s.clusterAt ck).entry slot
  if e.pinned || !e.resident then (.noRecord, s)
  else
  match spillWindow s ck e.space slot e.gen with
  | (none, s1) => (.fatal, fatalSpill s1 ck e.space slot e.gen 0)
  | (some ks, s1) =>
    match ks.find? (fun k => !recValid s1 k) with
    | none => (.noRecord, s1)
    | some k => (.done, spillTo s1 ck slot k)

/-- Write a record's contents into a slot, with the handle's generation; the slot's count stays (R76). -/
def refillFrom (s : State) (ck space slot gen : Nat) (p : Spot) : State :=
  let c := s.clusterAt ck
  let old := c.entry slot
  let k := p.key
  let h := wordOfNat (s.readN k 8)
  let b := s.readN (k + 32) 1
  let e : Entry := { st := .ofCode (b % 8), gen := gen, count := old.count, value := wordOfNat (s.readN (k + 8) 8),
                     parent := wordOfNat (s.readN (k + 16) 8), owner := wordOfNat (s.readN (k + 24) 8), space := space,
                     keep := bit b 3, age := s.cycle, refill := old.refill, toWake := old.toWake, fillTime := c.heddle.spillTime,
                     launch := ((c.heddle.keptSpilled.find? (fun x => x.1 == h)).map (·.2)).getD 0 }
  let s1 := s.putHeddle ck { c.heddle with keptSpilled := c.heddle.keptSpilled.filter (fun x => x.1 != h) }
  clearRec (s1.putEntry ck slot e) ck space p

/-- What a handle meets at its home (R76, R77). -/
inductive Look where
  | resident (slot : Nat)
  | inPlace (slot : Nat) (place : Spot)
  | stale
  | wait
  | fatal
  deriving DecidableEq, Repr

/-- Find a future by its handle in its slot or in the spill area, refilling where R76 says so. The spill area is read no
earlier than the operation's time m (R170). -/
def find (s0 : State) (ck space : Nat) (h : Word) (m : Nat) : Look × State :=
  let slot := hSlot h
  let s := mendEntry s0 ck slot
  let e := (s.clusterAt ck).entry slot
  if e.resident && e.gen == hGen h && !e.consumed then (.resident slot, s)
  else
    match spillWindow (s.heddleAt ck m) ck space slot (hGen h) with
    | (none, s1) => (.fatal, fatalSpill s1 ck space slot (hGen h) m)
    | (some ks, s1) =>
      match ks.find? (recOf s1 h) with
      | none => (.stale, s1)
      | some k =>
        if e.resident && e.pinned then (.inPlace slot k, s1)
        else if e.resident then
          match spillNow s1 ck slot with
          | (.done, s2) => (.resident slot, refillFrom s2 ck space slot (hGen h) k)
          | (.noRecord, s2) => (.inPlace slot k, s2)
          | (.fatal, s2) => (.fatal, s2)
        else (.resident slot, refillFrom s1 ck space slot (hGen h) k)

/-- Whether an operation on a slot has to wait: its spill write or its wake sequence is under way (R72, R87). -/
def Cluster.busy (c : Cluster) (slot : Nat) : Bool := c.heddle.spilling == some slot || !(c.entry slot).toWake.isEmpty

/-- Look a handle up at its home: one whose slot lies outside the context's range is stale (R76, R81, R90; log entry
50). -/
def lookup (s : State) (ck space : Nat) (h : Word) (m : Nat) : Look × State :=
  let c := s.clusterAt ck
  if !c.inRange space (hSlot h) then (.stale, s)
  else if c.busy (hSlot h) then (.wait, s)
  else find s ck space h m

/-- The object that an EMPTY completion future of this cluster completes, 0 for every other handle (R31, R57). -/
def ownerAt (s : State) (ck space : Nat) (h : Word) : Word :=
  if !(s.clusterAt ck).inRange space (hSlot h) then 0
  else
    match find s ck space h 0 with
    | (.resident slot, s1) =>
      let e := (s1.clusterAt ck).entry slot
      if e.st == .empty then e.owner else 0
    | (.inPlace _ k, s1) => if s1.readN (k.key + 32) 1 % 8 == 1 then wordOfNat (s1.readN (k.key + 24) 8) else 0
    | _ => 0

/-- The outcome of an allocation attempt (R69 to R72). -/
inductive Alloc where
  | got (slot gen : Nat)
  | spillFirst (slot : Nat)
  | later
  | full (tval : Nat)
  | fatal
  deriving DecidableEq, Repr

/-- The next generation of a slot, skipping one whose handle a valid spill record holds; a context that never spilled has
no valid record, and its spill area is not read (R63, R75). -/
def nextGen (s : State) (ck space slot : Nat) : Nat → Nat → Option Nat × State
  | 0, g => (some ((g + 1) % 16777216), s)
  | fuel + 1, g =>
    let g1 := (g + 1) % 16777216
    if !((s.clusterAt ck).ctxAt space).spilled then (some g1, s)
    else
      match spillWindow s ck space slot g1 with
      | (none, s1) => (none, s1)
      | (some ks, s1) =>
        if ks.any (recOf s1 (futureHandle s.pod.module ck slot g1)) then nextGen s1 ck space slot fuel g1
        else (some g1, s1)

/-- The slots of a context's range. -/
def Cluster.range (c : Cluster) (space : Nat) : List Nat :=
  let x := c.ctxAt space
  (List.range x.ftLimit).map (· + x.ftBase)

/-- Whether an unpinned entry of the range will be a free slot or a victim once its spill write or its wake sequence is
done: an allocation waits for it (R71, R72, R87). -/
def Cluster.soonFree (c : Cluster) (space : Nat) : Bool :=
  (c.range space).any (fun i => let e := c.entry i; e.resident && !e.pinned && c.busy i)

/-- Victims in order: oldest unpinned filled entries, then oldest unpinned EMPTY ones, the lower slot on a tie (R70; the
age is a count of steps that does not wrap, log entry 11). An entry whose spill write is under way is none. -/
def Cluster.victims (c : Cluster) (space : Nat) : List Nat :=
  let ok := (c.range space).filter (fun i => let e := c.entry i; e.resident && !e.pinned && !c.busy i)
  let byAge := fun (l : List Nat) => sortBy (fun i => (c.entry i).age) l
  byAge (ok.filter (fun i => (c.entry i).st != .empty)) ++ byAge (ok.filter (fun i => (c.entry i).st == .empty))

/-- The first victim with a clear record in its window. -/
def firstVictim (s : State) (ck space : Nat) : List Nat → Option (Option Nat) × State
  | [] => (some none, s)
  | v :: vs =>
    match spillWindow s ck space v ((s.clusterAt ck).entry v).gen with
    | (none, s1) => (none, s1)
    | (some ks, s1) =>
      if ks.any (fun k => !recValid s1 k) then (some (some v), s1) else firstVictim s1 ck space vs

/-- Allocate an entry, or say what is in the way (R69 to R72). Nothing is changed in the almanac. -/
def allocate (s : State) (ck space : Nat) : Alloc × State :=
  let c := s.clusterAt ck
  let take := fun (i : Nat) =>
    match nextGen s ck space i 4097 (c.entry i).count with
    | (some g, s1) => (Alloc.got i g, s1)
    | (none, s1) => (Alloc.fatal, fatalSpill s1 ck space i ((c.entry i).count + 1) 0)
  match (c.range space).find? (fun i => (c.entry i).st == .free) with
  | some i => take i
  | none =>
    match (c.range space).find? (fun i => (c.entry i).st == .spilled) with
    | some i => take i
    | none =>
      match c.victims space with
      | [] => (if c.soonFree space then .later else .full 0, s)
      | vs =>
        match firstVictim s ck space vs with
        | (none, s1) => (.fatal, fatalSpill s1 ck space (vs.headD 0) ((s.clusterAt ck).entry (vs.headD 0)).gen 0)
        | (some none, s1) => (if c.soonFree space then .later else .full 1, s1)
        | (some (some v), s1) => (.spillFirst v, s1)

/-- Start the spill write that an allocation waits for (R72). -/
def State.startSpill (s : State) (ck slot : Nat) : State :=
  s.putHeddle ck { (s.clusterAt ck).heddle with spilling := some slot }

/-- Enter a new EMPTY future of a context into an allocated slot (R63, R65). -/
def State.newEntry (s : State) (ck space slot gen : Nat) (parent owner launch : Word) (task : Bool) : State :=
  let old := (s.clusterAt ck).entry slot
  s.putEntry ck slot { st := .empty, gen := gen, count := gen, parent := parent, owner := owner, launch := launch,
                       task := task, age := s.cycle, refill := old.refill, toWake := old.toWake, space := space }

/-- Whether an allocation would be tried: it succeeds at once or after a spill, or meets a fatal context error (R28, R75,
R94). -/
def canAllocate (s : State) (ck space : Nat) : Bool :=
  match (allocate s ck space).1 with
  | .full _ => false
  | _ => true

/-- Fill a resident EMPTY future: state, value, fill time; its waiters are to be woken in order, and a CANCELLED one
starts its scan (R45, R65, R83, R171). Tasks that are being woken for the slot's refill queue stay ahead of them (R77,
R87; log entry 37). -/
def fillEntry (s : State) (ck slot : Nat) (st : FState) (value : Word) (time : Nat) (keep : Bool) : State :=
  let c := s.clusterAt ck
  let e := c.entry slot
  let e1 := { e with st := st, value := value, fillTime := time, age := s.cycle, toWake := e.toWake ++ e.waiters,
                     keep := keep || e.keep, scan0 := st == .cancelled || e.scan0 }
  let h := if st == .cancelled then { c.heddle with scans := c.heddle.scans ++ [slot] } else c.heddle
  s.putCluster ck { (c.putEntry slot e1) with heddle := h }

/-- The handle that a waiter touches: a task's, or that of a remote-waiter node (R41, R85). -/
def Cluster.touchOf (c : Cluster) (w : Nat) : Word :=
  if w < 4096 then (c.task w).touch
  else ((c.heddle.nodes.find? (fun x => x.1 == w - 4096)).map (·.2.1)).getD 0

/-- The context of a waiter of a slot: a task's, or that whose range holds the slot. -/
def Cluster.spaceOfWaiter (c : Cluster) (w slot : Nat) : Nat :=
  if w < 4096 then (c.task w).space else (c.entry slot).space

/-- When a slot is free, or its occupant can be spilled, the handle at the head of its refill queue is refilled and the
tasks queued for it join its waiter list; where its record is gone they are woken and find it stale (R77, R81). -/
def drainRefill (s : State) (ck slot : Nat) : State :=
  let c := s.clusterAt ck
  let e := c.entry slot
  match e.refill with
  | [] => s
  | w :: _ =>
    let h := c.touchOf w
    let mine := e.refill.filter (fun i => c.touchOf i == h)
    let rest := e.refill.filter (fun i => c.touchOf i != h)
    if c.heddle.spilling == some slot then s
    else
      match find (s.putEntry ck slot { e with refill := [] }) ck (c.spaceOfWaiter w slot) h 0 with
      | (.resident _, s1) =>
        let e1 := (s1.clusterAt ck).entry slot
        s1.putEntry ck slot { e1 with waiters := e1.waiters ++ mine, refill := rest,
                                      toWake := if e1.st == .empty then e1.toWake else e1.toWake ++ mine }
      | (.stale, s1) =>
        let e1 := (s1.clusterAt ck).entry slot
        s1.putEntry ck slot { e1 with refill := rest, toWake := e1.toWake ++ mine }
      | (.fatal, s1) => s1.putEntry ck slot { (s1.clusterAt ck).entry slot with refill := rest }
      | _ => s

/-- Free an entry (R65). -/
def freeEntry (s : State) (ck slot : Nat) : State :=
  let e := (s.clusterAt ck).entry slot
  drainRefill (s.putEntry ck slot { count := e.count, refill := e.refill, age := s.cycle, space := e.space,
                                    toWake := e.toWake }) ck slot

/-- An entry that may have become unpinned: a kept one whose launch has ended is freed, else its refill queue is served
(R77, R84). -/
def unpinned (s : State) (ck slot : Nat) : State :=
  let e := (s.clusterAt ck).entry slot
  if e.ended && !e.pinned then freeEntry s ck slot else drainRefill s ck slot

/-- Wake the tasks queued for a handle whose record was filled in place, in queue order (R77). -/
def wakeRefill (s : State) (ck slot : Nat) (h : Word) : State :=
  let c := s.clusterAt ck
  let e := c.entry slot
  let mine := e.refill.filter (fun i => c.touchOf i == h)
  s.putEntry ck slot { e with refill := e.refill.filter (fun i => c.touchOf i != h), toWake := e.toWake ++ mine }

/-- The word a TOUCH delivers for a state (R78). -/
def touchWord (st : FState) (value : Word) : Word :=
  match st with
  | .poisoned => 0x8000000000000000 ||| value
  | .cancelled => 0xC000000000000000
  | _ => value

/-- The stale word (R78, R79). -/
def staleWord : Word := 0x8000000000000301

/-- Consume a filled entry by a TOUCH of waiter w (none: not on the list): the waiter leaves the list, and the entry is
freed or marked as R43, R64, R65 and R83 say. -/
def consume (s : State) (ck slot : Nat) (w : Option Nat) (takes : Bool) : State :=
  let e := (s.clusterAt ck).entry slot
  let ws := match w with
    | some i => e.waiters.filter (· != i)
    | none => e.waiters
  let tw := match w with
    | some i => e.toWake.filter (· != i)
    | none => e.toWake
  let e1 := { e with waiters := ws, toWake := tw }
  let s1 := s.putEntry ck slot e1
  if e.ended && !e1.pinned || !takes || e.keep then unpinned s1 ck slot
  else if e.scan0 then s1.putEntry ck slot { e with waiters := ws, toWake := tw, scan1 := true }
  else if !ws.isEmpty then s1
  else if e.task then s1.putEntry ck slot { e with waiters := ws, toWake := tw, consumed := true }
  else freeEntry s1 ck slot

/-- RESOLVE or POISON of a handle at its home (R80): the status word. A completion future answers bit 4 whether or not it
was spilled (log entry 50). -/
def fillAt (s : State) (ck space : Nat) (h : Word) (st : FState) (value : Word) (keep : Bool) (time : Nat) :
    Option Nat × State :=
  match lookup s ck space h time with
  | (.wait, s1) => (none, s1)
  | (.fatal, s1) => (some 4, s1)
  | (.stale, s1) => (some 4, s1)
  | (.resident slot, s1) =>
    let e := (s1.clusterAt ck).entry slot
    if e.owner != 0 then (some 16, s1)
    else if e.st != .empty then (some 2, s1)
    else (some 1, fillEntry s1 ck slot st value time keep)
  | (.inPlace slot k, s1) =>
    if s1.readN (k.key + 24) 8 != 0 then (some 16, s1)
    else if s1.readN (k.key + 32) 1 % 8 != 1 then (some 2, s1)
    else (some 1, wakeRefill (fillRec s1 ck space k st value keep time) ck slot h)

/-- FSPILL at the home, at a time no earlier than m (R86, R170, R344). -/
def fspillAt (s : State) (ck space : Nat) (h : Word) (m : Nat) : Option Nat × State :=
  let c := s.clusterAt ck
  let slot := hSlot h
  let e := c.entry slot
  if !c.inRange space slot then (some 4, s)
  else if c.busy slot then (none, s)
  else if e.resident && e.gen == hGen h && !e.consumed then
    if e.pinned then (some 2, s)
    else
      match spillNow (s.heddleAt ck m) ck slot with
      | (.done, s1) => (some 1, s1)
      | (.noRecord, s1) => (some 16, s1)
      | (.fatal, s1) => (some 0, s1)
  else
    match spillWindow (s.heddleAt ck m) ck space slot (hGen h) with
    | (none, s1) => (some 0, fatalSpill s1 ck space slot (hGen h) m)
    | (some ks, s1) => if ks.any (recOf s1 h) then (some 8, s1) else (some 4, s1)

/-- FFILL at the home, at a time no earlier than m (R86, R170, R344). -/
def ffillAt (s : State) (ck space : Nat) (h : Word) (m : Nat) : Option Nat × State :=
  let c := s.clusterAt ck
  let slot := hSlot h
  let e := c.entry slot
  if !c.inRange space slot then (some 4, s)
  else if c.busy slot then (none, s)
  else if e.resident && e.gen == hGen h && !e.consumed then (some 8, s)
  else
    match lookup s ck space h m with
    | (.resident _, s1) => (some 1, s1)
    | (.inPlace i _, s1) => (some (if ((s1.clusterAt ck).entry i).pinned then 2 else 16), s1)
    | (.wait, s1) => (none, s1)
    | (_, s1) => (some 4, s1)

end Sys2Proof.Machine
end

