-- ==== Sys2Proof/Machine/Transfer.lean ====
section
/-! DEFINITION. Moving stretches of bytes for engine jobs: the homes a range of addresses has, reading it and writing
it (R173, R235, R236, R239). -/

namespace Sys2Proof.Machine

/-- The homes of a range, or a copy's failure code and reason (R236). -/
inductive SegR where
  | ok (l : List Seg)
  | bad (code reason : Nat)
  deriving DecidableEq, Repr

/-- A segment of a target, n bytes long, with the leaf entry it was reached by; none for a target an engine does not reach (R236 code 0x06). -/
def Target.seg (t : Target) (n leaf : Nat) (write : Bool) : Option Seg :=
  match t with
  | .hbm pa => some (.mem pa n leaf)
  | .array ck off => some (.mem (arrayKey ck off) n leaf)
  | .device _ => none
  | .remote m va => some (.remote m va n)
  | .host p a => some (.host p a n)
  | .landing p a => if write then none else some (.mem (landingKey p a) n leaf)

/-- The checks of an engine's bytes on one page (R138, R148, R236). -/
def checkEngine (s : State) (leaf bits va n : Nat) (write : Bool) : SegR :=
  let code := if write then 4 else 3
  let t := targetOf leaf bits va
  match t.seg n leaf write with
  | none => .bad 6 0
  | some g =>
    if write && !leafWrite leaf then .bad code 3
    else
      match t with
      | .array ck off =>
        if !s.serves ck || (s.clusterAt ck).spad < off + max n 1 then .bad code 8
        else if write && (s.clusterAt ck).inPark off (max n 1) then .bad code 9
        else .ok [g]
      | .remote m _ => if s.pod.populated.contains m then .ok [g] else .bad code 10
      | _ => .ok [g]

/-- The homes of a virtual range, page by page, as far as they can be had, and what ends them (R236); the fuel is above the
number of 4 KiB pages. -/
def virtReach (ck space : Nat) (write : Bool) : Nat → State → Nat → Nat → List Seg × Option (Nat × Nat) × State
  | 0, s, _, _ => ([], none, s)
  | fuel + 1, s, va, len =>
    match translate s (ck / 4096) (ck % 4096 % 80) space va with
    | (.ok leaf bits, s1) =>
      let n := min len (2 ^ bits - va % 2 ^ bits)
      match checkEngine s1 leaf bits va n write with
      | .bad c r => ([], some (c, r), s1)
      | .ok g =>
        if len ≤ n then (g, none, s1)
        else
          let (l, e, s2) := virtReach ck space write fuel s1 (va + n) (len - n)
          (g ++ l, e, s2)
    | (.miss r, s1) => ([], some (if write then 4 else 3, r), s1)
    | (.ue, s1) => ([], some (if write then 2 else 1, 0), s1)

/-- The homes of a range of addresses of a task as far as they can be had, and what ends them (R235, R236). -/
def reach (s : State) (ck space : Nat) (addr : Word) (len : Nat) (write : Bool) : List Seg × Option (Nat × Nat) × State :=
  let code := if write then 4 else 3
  match formOf addr with
  | .bad => ([], some (code, 6), s)
  | .near off =>
    let c := s.clusterAt ck
    if c.spad < off + max len 1 then ([], some (code, 7), s)
    else if write && c.inPark off (max len 1) then ([], some (code, 9), s)
    else ([.mem (arrayKey ck off) len 0], none, s)
  | .virt va =>
    if 2 ^ 56 < va + len then ([], some (code, 6), s)
    else virtReach ck space write (len / 4096 + 2) s va len

/-- The homes of a range of addresses of a task, or why it has none (R235, R236). -/
def segments (s : State) (ck space : Nat) (addr : Word) (len : Nat) (write : Bool) : SegR × State :=
  match reach s ck space addr len write with
  | (l, none, s1) => (.ok l, s1)
  | (_, some (c, r), s1) => (.bad c r, s1)

/-- Whether a segment's bytes meet an uncorrectable error (R272). -/
def Seg.marked (s : State) : Seg → Bool
  | .mem k n _ => s.marked k n
  | _ => false

/-- The bytes of segments; what stands in host memory and on other modules is free (log entry 3). -/
def readSegs (s : State) : List Seg → List Byte × State
  | [] => ([], s)
  | g :: gs =>
    let (bs, s1) := match g with
      | .mem k n _ => (bytesFrom s.mem k n, s)
      | .host _ _ n => let (v, s1) := s.choose; (leBytes n v, s1)
      | .remote _ _ n => let (v, s1) := s.choose; (leBytes n v, s1)
    let (rest, s2) := readSegs s1 gs
    (bs ++ rest, s2)

/-- Whose write it is: the cluster and context, one more than the number of the copy that waits for acknowledgements (0 for
none), the class that its packets carry, and the time of the write (R165, R173, R243, R257). -/
structure Writer where
  ck : Nat
  space : Nat
  job : Nat := 0
  cls : Nat := 0
  time : Nat := 0
  /-- DDOM of a job's task when it issued the job; none for the context's own now (R156, R383) -/
  dom : Option Nat := none
  /-- the whole write footprint of a job, whose packets to one module are written there together (R173, R239) -/
  all : List Seg := []
  /-- it is a scatter, whose packets wait for no permit (R239, R409) -/
  lanes : Bool := false
  deriving DecidableEq, Repr

/-- The dedup domain of a writer. -/
def Writer.domain (w : Writer) (s : State) : Nat := w.dom.getD ((s.clusterAt w.ck).ctxAt w.space).ddom

/-- One write of at most a line at its home: the slice is reached, the line takes the write's time (R154, R156, R164). -/
def writeLine (w : Writer) (leaf : Nat) (s : State) (k : Nat) (bs : List Byte) : State :=
  let line := k / 128 * 128
  let s1 := if k < 2 ^ 40 then
      l2Fill s line (w.domain s) (leafDedup leaf) (leafStream leaf) (bs.length == 128) else s
  commitDomain ((s1.setTimes line w.time w.time).noteCode k bs.length) w.ck (w.domain s) k bs leaf

/-- Write bytes at a home line by line, so that whole lines stay sharing candidates (R156). -/
def writeLines (w : Writer) (leaf : Nat) : Nat → State → Nat → List Byte → State
  | 0, s, _, _ => s
  | fuel + 1, s, k, bs =>
    match bs with
    | [] => s
    | _ =>
      let n := 128 - k % 128
      writeLines w leaf fuel (writeLine w leaf s k (bs.take n)) (k + n) (bs.drop n)

/-- The bytes of a segment. -/
def Seg.len : Seg → Nat
  | .mem _ n _ => n
  | .host _ _ n => n
  | .remote _ _ n => n

/-- A part of a segment. -/
def Seg.slice (i n : Nat) : Seg → Seg
  | .mem k _ leaf => .mem (k + i) n leaf
  | .host p a _ => .host p (a + i) n
  | .remote m va _ => .remote m (va + i) n

/-- The first bytes of segments. -/
def takeSegs : Nat → List Seg → List Seg
  | _, [] => []
  | n, g :: gs => if n = 0 then [] else if n ≤ g.len then [g.slice 0 n] else g :: takeSegs (n - g.len) gs

/-- How many of the first bytes of segments come before an uncorrectable error, and where they are written, before
another module (R176, R236). -/
def soundLen (s : State) (write : Bool) : List Seg → Nat
  | [] => 0
  | g :: gs =>
    match g with
    | .remote _ _ n => if write then 0 else n + soundLen s write gs
    | .host _ _ n => n + soundLen s write gs
    | .mem k n _ =>
      if s.marked k n then (s.bad.filter (fun b => decide (k < 8 * b + 8))).foldl (fun m b => min m (8 * b - k)) n
      else n + soundLen s write gs

/-- The bytes of the first packet of a stretch on another module: at most 2,048, none across a page (R252). -/
def packetLen (va n : Nat) : Nat := min n (2048 - va % 2048)

/-- How many packets a stretch on another module takes (R252). -/
def packetsOf : Nat → Nat → Nat → Nat
  | 0, _, _ => 0
  | fuel + 1, va, n => if n ≤ packetLen va n then 1 else 1 + packetsOf fuel (va + packetLen va n) (n - packetLen va n)

/-- How many packets the writes of segments send to other modules. -/
def packetCount (segs : List Seg) : Nat :=
  segs.foldl (fun c g => match g with
    | .remote _ va n => c + packetsOf (n / 2048 + 2) va n
    | _ => c) 0

/-- How many packets of a job go to a module. -/
def Writer.pieces (w : Writer) (m : Nat) : Nat :=
  packetCount (w.all.filter (fun g => match g with
    | .remote k _ _ => k == m
    | _ => false))

/-- The packets of a write to another module: each carries the writer's class and a time just below the write's (R168,
R169, R243, R252); the header of a job's packet tells how many there are. -/
def sendPieces (w : Writer) (m : Nat) : Nat → State → Nat → List Byte → State
  | 0, s, _, _ => s
  | fuel + 1, s, va, bs =>
    let n := packetLen va bs.length
    let p : Packet := { srcModule := s.pod.module, src := w.ck, dstModule := m, dst := w.ck, target := wordOfNat va
                        msg := { handler := 2, space := w.space, w0 := wordOfNat va, w1 := wordOfNat n
                                 w2 := wordOfNat w.job, w3 := if w.lanes then 5 else 1, cls := w.cls
                                 time := w.time - 1 }
                        form := leNat (bs.take n), payload := BitVec.ofNat 512 (w.pieces m) }
    let s1 := s.send p
    if bs.length ≤ n then s1 else sendPieces w m fuel s1 (va + n) (bs.drop n)

/-- Write bytes over segments; bytes for hosts and for other modules leave (R146, R252). -/
def writeSegs (w : Writer) : State → List Seg → List Byte → State
  | s, [], _ => s
  | s, g :: gs, bs =>
    let n := g.len
    let s1 := match g with
      | .mem k _ leaf => writeLines w leaf (n / 128 + 2) s k (bs.take n)
      | .host p a _ => { s with pod := { s.pod with hostOut := s.pod.hostOut ++ [(p, a, bs.take n)] } }
      | .remote m va _ => sendPieces w m (n / 2048 + 2) s va (bs.take n)
    writeSegs w s1 gs (bs.drop n)

/-- The clusters whose scratchpad a segment lies in. -/
def Seg.arrayOf : Seg → Option (Nat × Nat × Nat)
  | .mem k n _ => if 2199023255552 ≤ k ∧ k < 1152921504606846976 then
      some ((k - 2199023255552) / 262144, (k - 2199023255552) % 262144, n) else none
  | _ => none

/-- Whether permits of a SPACE in a cluster cover every 128-byte line of a stretch of its scratchpad: permits are made of
whole lines, and several may cover one stretch together (R239, R240). -/
def covered (s : State) (t space off n : Nat) : Bool :=
  (List.range ((off + n + 127) / 128 - off / 128)).all fun i =>
    (s.clusterAt t).permits.any fun p => p.2.space == space && decide (p.2.off ≤ (off / 128 + i) * 128) &&
      decide ((off / 128 + i) * 128 + 128 ≤ p.2.off + p.2.len)

/-- Whether permits cover every byte a push writes (R239): a cluster grants its own cores' copies itself. -/
def permitted (s : State) (ck space : Nat) (segs : List Seg) : Bool :=
  segs.all fun g =>
    match g.arrayOf with
    | none => true
    | some (t, off, n) => t == ck || n == 0 || covered s t space off n

/-- Do something for the key of every 128-byte line that segments touch. -/
def eachLine (f : State → Nat → State) (s : State) (segs : List Seg) : State :=
  segs.foldl (fun s g =>
    match g with
    | .mem k n _ => if n = 0 then s else
        (List.range ((k + n - 1) / 128 + 1 - k / 128)).foldl (fun s i => f s ((k / 128 + i) * 128)) s
    | _ => s) s

/-- Raise wts and rts of the lines of a segment to a write time (R164, R173). -/
def stampSegs (s : State) (segs : List Seg) (t : Nat) : State := eachLine (fun s k => s.setTimes k t t) s segs

/-- Before a job or a port writes segments: the quanta come first whose boundary is not above its time, which is more than a
given one (R165, R173, R180). -/
def settleSegs (s : State) (segs : List Seg) (pts : Nat) : State := eachLine (fun s k => settleWrite s k pts) s segs

/-- The largest write time of the lines of segments (R165). -/
def writeTimeOf (s : State) (segs : List Seg) : Nat :=
  segs.foldl (fun m g =>
    match g with
    | .mem k n _ => if n = 0 then m else
        (List.range ((k + n - 1) / 128 + 1 - k / 128)).foldl
          (fun m i => max m (s.lineTimes ((k / 128 + i) * 128)).1) m
    | _ => m) 0

/-- The largest read lease end of the lines of segments; a write of no bytes counts the line it names (R165). -/
def leaseOf (s : State) (segs : List Seg) : Nat :=
  segs.foldl (fun m g =>
    match g with
    | .mem k n _ =>
        (List.range ((k + max n 1 - 1) / 128 + 1 - k / 128)).foldl
          (fun m i => max m (s.lineTimes ((k / 128 + i) * 128)).2) m
    | _ => m) 0

/-- The time of a write over segments that is not made before a given time, and the state with the quanta of their lines
applied whose boundary is not above it (R165, R173, R180). -/
def writePassFuel (segs : List Seg) : Nat → State → Nat → Nat × State
  | 0, s, t => (max t (leaseOf s segs + 1), s)
  | fuel + 1, s, t =>
    let t1 := max t (leaseOf s segs + 1)
    let s1 := settleSegs s segs (t1 - 1)
    if leaseOf s1 segs < t1 then (t1, s1) else writePassFuel segs fuel s1 t1

/-- The same; every round but the last applies a pending update. -/
def writePass (s : State) (segs : List Seg) (t : Nat) : Nat × State := writePassFuel segs (s.pod.qnt.length + 1) s t

/-- Apply the quanta that a read of segments at a time forces (R180), and leave its lease (R165). -/
def readTimes (s : State) (segs : List Seg) (t : Nat) : State :=
  eachLine (fun s k => ((settleRead s k t).readTime k t).2) s segs

/-- The read time of a job: at least the write time of every line it reads, quanta that the read forces included (R165,
R173, R180). The fuel is the number of pending updates and one. -/
def readPassFuel (segs : List Seg) : Nat → State → Nat → Nat
  | 0, _, t => t
  | fuel + 1, s, t =>
    let t1 := max t (writeTimeOf s segs)
    let s1 := readTimes s segs t1
    if writeTimeOf s1 segs ≤ t1 then t1 else readPassFuel segs fuel s (writeTimeOf s1 segs)

/-- The read time of a job from an earliest one. -/
def readPass (s : State) (segs : List Seg) (t : Nat) : Nat := readPassFuel segs (s.pod.qnt.length + 1) s t

end Sys2Proof.Machine
end

