-- ==== Sys2Proof/Machine/Footprint.lean ====
section
/-! DEFINITION. Footprints of the jobs in flight: what each still reads and writes, the order among them (R173, R174), and
what a write meets that reaches a home while something is still to be read there (R173, R233). -/

namespace Sys2Proof.Machine

/-- Whether two lists of segments meet. -/
def segsMeet (a b : List Seg) : Bool :=
  a.any fun g => match g with
    | .mem k n _ => decide (0 < n) && b.any (·.touches k n)
    | _ => false

/-- The array bytes that a loom command is to write (R175, R220, R221). -/
def LCmd.writeSegs (ck : Nat) (c : LCmd) : List Seg :=
  if c.writeLen = 0 then [] else [.mem (arrayKey ck c.off) c.writeLen 0]

/-- What a loom command is to read: its array bytes, and the scales that it has not read yet (R175, R233). -/
def LCmd.readSegs (ck : Nat) (c : LCmd) : List Seg :=
  .mem (arrayKey ck c.off) c.readLen 0 :: (if c.begun then [] else c.scale)

/-- The commands that parks have frozen in a cluster (R229). -/
def frozenCommands (s : State) (ck : Nat) : List LCmd :=
  (s.clusterAt ck).tasks.flatMap (fun t => if t.2.image then t.2.parked.loom.queue else [])

/-- The commands of a cluster that are not over: queued ones and those that a park has frozen (R229, R233). -/
def State.commandsOf (s : State) (ck : Nat) : List LCmd := s.queuedCommands ck ++ frozenCommands s ck

/-- What a task of a cluster that came before a number still reads for its output write-back (R37, R173). -/
def Task.unreadTiles (ck seq : Nat) (t : Task) : List Seg :=
  if t.st == .ending && !t.wsent && decide (t.wseq < seq) then
    (t.tiles.filter (fun x => x.kind != 1)).map (fun x => .mem (arrayKey ck (x.region.getD 0)) x.len 0)
  else []

/-- What it still writes: its output write-back, and the pushes of its tiles that are on their way (R36, R37, R173). -/
def Task.unwritten (ck seq : Nat) (t : Task) : List Seg :=
  (if t.wseq < seq then t.wsegs else []) ++
    (if t.st == .staging then
      (t.tiles.filter (fun x => !x.done && x.region.isSome && x.kind != 2 && decide (x.seq < seq))).map
        (fun x => .mem (arrayKey ck (x.region.getD 0)) x.len 0)
     else [])

/-- The footprints of the work of a cluster that came before a number and is still in flight: jobs, loom commands, pushes and
write-backs (R173, R174): what they still read, and what they write. -/
def earlier (s : State) (ck seq : Nat) : List Seg × List Seg :=
  let js := s.pod.jobs.filter (fun j => j.ck == ck && decide (j.seq < seq) && !j.dead)
  let cs := (s.commandsOf ck).filter (fun c => decide (c.seq < seq))
  let ts := (s.clusterAt ck).tasks
  ((js.filter (fun j => !j.readDone)).flatMap (fun j => footprint j.kind j.rsegs) ++
     (cs.filter (fun c => !c.finished)).flatMap (LCmd.readSegs ck) ++ ts.flatMap (fun t => t.2.unreadTiles ck seq),
   js.flatMap (fun j => footprint j.kind j.wsegs) ++ cs.flatMap (LCmd.writeSegs ck) ++
     ts.flatMap (fun t => t.2.unwritten ck seq))

/-- Whether a read of segments comes behind an earlier write of its cluster (R174). -/
def readsBehind (s : State) (ck seq : Nat) (rs : List Seg) : Bool := segsMeet rs (earlier s ck seq).2

/-- Whether a write of segments comes behind an earlier read or write of its cluster (R174). -/
def writesBehind (s : State) (ck seq : Nat) (ws : List Seg) : Bool :=
  let (r, w) := earlier s ck seq
  segsMeet ws r || segsMeet ws w

/-- The same for a job. -/
def readBehind (s : State) (j : Job) : Bool := readsBehind s j.ck j.seq (footprint j.kind j.rsegs)
def writeBehind (s : State) (j : Job) : Bool := writesBehind s j.ck j.seq (footprint j.kind j.wsegs)

/-- The number of an agent of a cluster of this module: unit 0 to 7 a core, 8 to 15 the engine jobs of a core, 16 the
heddle (R161). -/
def State.agentNo (s : State) (ck unit : Nat) : Nat :=
  s.pod.module * 4194304 + (ck / 4096) * 131072 + (ck % 4096) * 32 + unit

/-- The issue key of a job that an agent of a cluster issues at a time, t_i and behind it the agent number (R161, R173); a job
that waits for another one of its cluster (R174) has no lower key than that one (log entry 66). -/
def State.issueKey (s : State) (ck unit ti : Nat) (rs ws : List Seg) : Nat :=
  let own := ti * 4294967296 + s.agentNo ck unit
  let js := (s.pod.jobs.filter (fun j => j.ck == ck && !j.dead &&
    (segsMeet rs (footprint j.kind j.wsegs) || segsMeet ws (footprint j.kind (j.rsegs ++ j.wsegs))))).map (·.key)
  let cs := ((s.commandsOf ck).filter (fun c =>
    segsMeet rs (c.writeSegs ck) || segsMeet ws (c.readSegs ck ++ c.writeSegs ck))).map (·.key)
  let ts := ((s.clusterAt ck).tasks.filter (fun t => segsMeet rs t.2.wsegs || segsMeet ws t.2.wsegs)).map (·.2.wkey)
  (js ++ cs ++ ts).foldl max own

/-- Whose write reaches a home: the cluster of this module that it comes from, and a job's place among its cluster's jobs
with its issue key (R173, R174). -/
structure By where
  ck : Option Nat := none
  job : Option (Nat × Nat) := none
  deriving DecidableEq, Repr

/-- A job's write. -/
def By.ofJob (ck seq key : Nat) : By := { ck := some ck, job := some (seq, key) }

/-- Whether work of a cluster with a place and an issue key waits for a write, and so does not hold it: in its own cluster
where it came behind the write's job, elsewhere where its issue key is the higher one (R173, R174). -/
def By.before (b : By) (ck seq key : Nat) : Bool :=
  match b.ck, b.job with
  | some c, some (q, k) => if c == ck then decide (q ≤ seq) else decide (k < key)
  | _, _ => false

/-- Whether a byte of a command's region, at an offset from its start, is still to be read (R212, R215, R224, R233). -/
def LCmd.unreadAt (c : LCmd) (o : Nat) : Bool :=
  let row := aBytes c.type (32 * c.nk)
  match c.fn with
  | 0 => if o < c.nk * imageBytes c.type then decide (c.piece * imageBytes c.type ≤ o) else decide (c.piece ≤ c.nk)
  | 1 => decide (c.piece ≤ o % row / aBytes c.type 32 * c.m + o / row / 32)
  | 2 => decide (c.piece ≤ 2 * (o % (aBytes 17 (32 * c.nk)) / aBytes 17 32) + 1)
  | _ => true

/-- Whether a command that has not begun is to read scales in a stretch of memory (R233). -/
def LCmd.scaleAt (key n : Nat) (c : LCmd) : Bool := !c.begun && !c.finished && c.scale.any (·.touches key n)

/-- Whether a command still has to read a byte of a 128-byte line of its cluster's array, of its region or of scales, and no
copy of the line was made for it (R233); 16 bytes are the least a block has. -/
def LCmd.needsLine (ck : Nat) (c : LCmd) (line : Nat) : Bool :=
  !c.finished && !c.copies.any (fun x => x.1 == line) &&
    (((List.range 8).any fun i =>
      let a := line + 16 * i
      decide (c.off ≤ a) && decide (a < c.off + c.readLen) && c.unreadAt (a - c.off)) ||
     c.scaleAt (arrayKey ck line) 128)

/-- What a command reads of its array, but for the lines that were copied while it was frozen (R233). -/
def LCmd.readPlaces (ck : Nat) (c : LCmd) : List Seg :=
  if c.readLen = 0 then []
  else if c.copies.isEmpty then [.mem (arrayKey ck c.off) c.readLen 0]
  else
    ((List.range ((c.off + c.readLen - 1) / 128 + 1 - c.off / 128)).map (fun i => (c.off / 128 + i) * 128)).filterMap fun a =>
      if c.copies.any (·.1 == a) then none else some (.mem (arrayKey ck a) 128 0)

/-- The scales that a command is still to read where they stand (R173, R233). -/
def LCmd.scalePlaces (ck : Nat) (c : LCmd) : List Seg :=
  if c.begun then []
  else c.scale.filter (fun g => match g with
    | .mem k _ _ => !c.kept.any (fun x => x.1 == k) && !c.copies.any (fun x => arrayKey ck x.1 == k / 128 * 128)
    | _ => true)

/-- Whether a stretch of memory lies in the array of a cluster. -/
def inArray (ck key : Nat) : Bool := decide (arrayKey ck 0 ≤ key) && decide (key < arrayKey (ck + 1) 0)

/-- Whether a frozen command keeps scales outside its cluster's array as they stand before a write (R173, R233). -/
def LCmd.keepsFrozen (b : By) (ck key n : Nat) (c : LCmd) : Bool :=
  c.scaleAt key n && !inArray ck key && !b.before ck c.seq c.key

/-- Whether a frozen command of a cluster is to read a stretch of memory that a write reaches. -/
def LCmd.frozenMeets (b : By) (ck key n : Nat) (c : LCmd) : Bool :=
  !b.before ck c.seq c.key && (c.scaleAt key n || (inArray ck key && c.needsLine ck ((key - arrayKey ck 0) / 128 * 128)))

/-- Whether an L2 home keeps scales that a queued command is to read as they stand before a write from another cluster
(R173). -/
def State.keepsLive (s : State) (b : By) (ck key n : Nat) (c : LCmd) : Bool :=
  c.scaleAt key n && decide (key < 2 ^ 40) && b.ck != some ck && !b.before ck c.seq c.key &&
    !readsBehind s ck c.seq (c.readSegs ck) && !s.marked (key / 128 * 128) 128

/-- Whether an L2 home keeps what a job is to read as it stands before a write from outside the job's cluster (R173). -/
def State.keepsJob (s : State) (b : By) (key n : Nat) (j : Job) : Bool :=
  !j.readDone && !j.dead && (footprint j.kind j.rsegs).any (·.touches key n) && decide (key < 2 ^ 40) && b.ck != some j.ck &&
    !b.before j.ck j.seq j.key && !readBehind s j && !s.marked (key / 128 * 128) 128

/-- The commands that are queued on some core of the module, with the clusters' keys. -/
def State.everyCommand (s : State) : List (Nat × LCmd) :=
  s.core.loom.queue.map (s.ck, ·) ++
    s.cores.flatMap (fun x => if x.1 = s.cur then [] else x.2.loom.queue.map (x.1 / 8, ·))

/-- Whether a write of bytes of one line meets what work in flight is still to read, and so waits (R173): engine jobs, loom
commands of running tasks, and commands that a park has frozen behind an earlier write of their cluster. An L2 home lets a
write from another cluster in. -/
def State.readHeld (s : State) (b : By) (key n : Nat) : Bool :=
  s.pod.jobs.any (fun j => !j.readDone && !j.dead && !b.before j.ck j.seq j.key &&
    (footprint j.kind j.rsegs).any (·.touches key n) && !s.keepsJob b key n j) ||
  s.everyCommand.any (fun c => c.2.scaleAt key n && !b.before c.1 c.2.seq c.2.key && !s.keepsLive b c.1 key n c.2) ||
  s.clusters.any (fun c => (frozenCommands s c.1).any (fun q =>
    q.frozenMeets b c.1 key n && readsBehind s c.1 q.seq (q.readSegs c.1))) ||
  (decide (2199023255552 ≤ key) &&
    let ck := (key - 2199023255552) / 262144
    (s.liveCommands ck).any (fun c => !b.before ck c.seq c.key && c.readLen != 0 && meets (arrayKey ck c.off) c.readLen key n))

/-- The tasks of a cluster whose commands are frozen by a park and are to read a line of its array (R233). -/
def State.frozenReaders (s : State) (b : By) (ck line : Nat) : List Nat :=
  ((s.clusterAt ck).tasks.filter (fun t => t.2.image && t.2.parked.loom.queue.any (fun q =>
    q.needsLine ck line && !b.before ck q.seq q.key))).map (·.1)

/-- A command's read time, fixed before a write reaches its footprint, whose lines are leased up to it (R173, R233). -/
def fixRead (ck : Nat) (s : State) (c : LCmd) : State × LCmd :=
  match c.tr with
  | some _ => (s, c)
  | none =>
    let segs := c.readPlaces ck ++ c.scalePlaces ck
    let t := readPass s segs c.time
    (readTimes s segs t, { c with tr := some t })

/-- Apply a change to each of some commands in turn. -/
def eachCommand (f : State → LCmd → State × LCmd) (s : State) (l : List LCmd) : List LCmd × State :=
  l.foldl (fun (x : List LCmd × State) c => let (s1, c1) := f x.2 c; (x.1 ++ [c1], s1)) ([], s)

/-- Change the frozen commands of a parked task. -/
def frozenMap (f : State → LCmd → State × LCmd) (s : State) (ck slot : Nat) : State :=
  let (q, s1) := eachCommand f s ((s.clusterAt ck).task slot).parked.loom.queue
  let c := s1.clusterAt ck
  let t := c.task slot
  let t1 := { t with parked := { t.parked with loom := { t.parked.loom with queue := q } } }
  s1.putCluster ck { c with tasks := mput c.tasks slot t1 }

/-- Change the queued commands of a core. -/
def queueMap (f : State → LCmd → State × LCmd) (s : State) (k : Nat) : State :=
  let (q, s1) := eachCommand f s (s.coreAt k).loom.queue
  let x := s1.coreAt k
  s1.putCore k { x with loom := { x.loom with queue := q } }

/-- A command keeps the scales in a stretch of memory as they stand before a write (R173, R233). -/
def keepFor (ck key n : Nat) (s : State) (c : LCmd) : State × LCmd :=
  let (s1, c1) := fixRead ck s c
  let ks := c.scale.filterMap (fun g => match g with
    | .mem k _ _ => if g.touches key n then some k else none
    | _ => none)
  (s1, { c1 with kept := ks.foldl (fun m k => if m.any (fun x => x.1 == k) then m else mput m k (s.readN k 64)) c.kept })

/-- The commands that let a write in keep the scales it reaches (R173, R233). -/
def keepScales (s : State) (b : By) (key n : Nat) : State :=
  let frozen := s.clusters.flatMap fun c => c.2.tasks.filterMap fun t =>
    if t.2.image && t.2.parked.loom.queue.any (LCmd.keepsFrozen b c.1 key n) then some (c.1, t.1) else none
  let live := (s.cur :: s.cores.map (·.1)).filter (fun k => (s.coreAt k).loom.queue.any (s.keepsLive b (k / 8) key n))
  let s1 := frozen.foldl (fun s x => frozenMap (fun s c =>
    if c.keepsFrozen b x.1 key n then keepFor x.1 key n s c else (s, c)) s x.1 x.2) s
  live.foldl (fun s k => queueMap (fun s1 c =>
    if s.keepsLive b (k / 8) key n c then keepFor (k / 8) key n s1 c else (s1, c)) s k) s1

/-- An L2 home keeps a line for one job's read pass, whose time is fixed from now on (R173). -/
def keepLine (s : State) (line : Nat) (j : Job) : State :=
  let (t, s1) := if j.kept.isEmpty then
      let t := readPass s j.rsegs (max j.ti j.tr)
      (t, readTimes s j.rsegs t)
    else (j.tr, s)
  let j1 := { j with tr := t, kept := if j.kept.any (fun x => x.1 == line) then j.kept else mput j.kept line (s.readN line 128) }
  { s1 with pod := { s1.pod with jobs := s1.pod.jobs.map (fun x => if x.id == j.id then j1 else x) } }

/-- The jobs that let a write in keep the line it reaches (R173). -/
def keepLines (s : State) (b : By) (key n : Nat) : State :=
  (s.pod.jobs.filter (s.keepsJob b key n)).foldl (fun s j => keepLine s (key / 128 * 128) j) s

/-- Copy a line of a task's frozen commands' footprints, with its error marks, to a granule of the pool before a write reaches
it (R233); none where the pool has no granule. -/
def copyLineFor (s : State) (b : By) (ck line slot : Nat) : Option State :=
  let c := s.clusterAt ck
  match c.reserve 128 slot 5 with
  | none => none
  | some (o, c1) =>
    let s1 := frozenMap (fun s x =>
      if x.needsLine ck line && !b.before ck x.seq x.key then
        let (s1, x1) := fixRead ck s x
        (s1, { x1 with copies := mput x1.copies line o })
      else (s, x))
      (s.putCluster ck c1) ck slot
    let from' := arrayKey ck line
    let to' := arrayKey ck o
    let marks := ((List.range 16).filter (fun i => s.bad.contains (from' / 8 + i))).map (to' / 8 + ·)
    some { s1.writeBytes to' (bytesFrom s.mem from' 128) with bad := marks ++ clearMarks s1.bad to' 128 }

/-- Copy one line for every task whose frozen commands read it (R233). -/
def copyLine (s : State) (b : By) (ck line : Nat) : Option State :=
  (s.frozenReaders b ck line).foldl (fun o slot => o.bind (fun s => copyLineFor s b ck line slot)) (some s)

/-- What must come before a write of n bytes of one line reaches an array or HBM: none means the write waits (R173, R233). -/
def beforeWriteBy (s : State) (b : By) (key n : Nat) : Option State :=
  if s.readHeld b key n then none
  else
    let s1 := keepLines (keepScales s b key n) b key n
    if key < 2199023255552 then some s1
    else
      let ck := (key - 2199023255552) / 262144
      let off := (key - 2199023255552) % 262144
      let first := off / 128
      (List.range ((off + n - 1) / 128 + 1 - first)).foldl
        (fun o i => o.bind (fun s => copyLine s b ck ((first + i) * 128))) (some s1)

/-- The same for a store of the current core. -/
def beforeWrite (s : State) (key n : Nat) : Option State := beforeWriteBy s { ck := some s.ck } key n

/-- What must come before bytes reach memory of this module: none means they wait (R173, R233). -/
def beforeSegs (s : State) (b : By) (segs : List Seg) : Option State :=
  segs.foldl (fun o g => match g with
    | .mem k n _ => if n = 0 then o else o.bind (fun s =>
        (List.range ((k + n - 1) / 128 + 1 - k / 128)).foldl
          (fun o i => o.bind (fun s => beforeWriteBy s b (max k ((k / 128 + i) * 128))
            (min (k + n) ((k / 128 + i + 1) * 128) - max k ((k / 128 + i) * 128)))) (some s))
    | _ => o) (some s)

/-- An operation on memory that could be performed now: its cluster, its issue key, what it reads and what it writes (R173). -/
structure Ready where
  ck : Nat
  key : Nat
  reads : List Seg := []
  writes : List Seg := []
  deriving DecidableEq, Repr

/-- What a job could do now. -/
def readyJob (s : State) (i : Job) : Option Ready :=
  if i.dead || i.sent then none
  else if i.readDone then
    if i.queue.isNone && !writeBehind s i && permitted s i.ck i.space i.wsegs &&
        (beforeSegs s (.ofJob i.ck i.seq i.key) i.wsegs).isSome then
      some { ck := i.ck, key := i.key, writes := footprint i.kind i.wsegs }
    else none
  else if readBehind s i then none
  else some { ck := i.ck, key := i.key, reads := footprint i.kind i.rsegs }

/-- What a queued loom command could do now: write its results once its pieces are over, or read. -/
def readyCommand (s : State) (x : Nat × LCmd) : Option Ready :=
  let (ck, c) := x
  if c.finished then
    if c.writeLen != 0 && !writesBehind s ck c.seq (c.writeSegs ck) &&
        (beforeSegs s (.ofJob ck c.seq c.key) (c.writeSegs ck)).isSome then
      some { ck := ck, key := c.key, writes := c.writeSegs ck }
    else none
  else if readsBehind s ck c.seq (c.readSegs ck) then none
  else some { ck := ck, key := c.key, reads := c.readSegs ck }

/-- What the write-back of an ending task could write now. -/
def readyBack (s : State) (ck : Nat) (t : Task) : Option Ready :=
  if t.st == .ending && !t.wsent && t.fail == 0 && !writesBehind s ck t.wseq t.wsegs && permitted s ck t.space t.wsegs &&
      (beforeSegs s (.ofJob ck t.wseq t.wkey) t.wsegs).isSome then some { ck := ck, key := t.wkey, writes := t.wsegs }
  else none

/-- The operations of other clusters with a lower issue key that could be performed now: a home grants conflicting operations
in the order of those keys (R173). -/
def rivals (s : State) (ck key : Nat) : List Ready :=
  (s.pod.jobs.filter (fun j => j.ck != ck && decide (j.key < key))).filterMap (readyJob s) ++
    (s.everyCommand.filter (fun c => c.1 != ck && decide (c.2.key < key))).filterMap (readyCommand s) ++
    (s.clusters.filter (fun c => c.1 != ck)).flatMap (fun c =>
      (c.2.tasks.filter (fun t => decide (t.2.wkey < key))).filterMap (fun t => readyBack s c.1 t.2))

/-- Whether a read must wait: for an earlier write of its cluster, or for a rival's write (R173, R174). -/
def readWaits (s : State) (ck seq key : Nat) (rs : List Seg) : Bool :=
  readsBehind s ck seq rs || (rivals s ck key).any (fun i => segsMeet rs i.writes)

/-- Whether a write must wait: for an earlier read or write of its cluster, or for a rival's (R173, R174). -/
def writeWaits (s : State) (ck seq key : Nat) (ws : List Seg) : Bool :=
  writesBehind s ck seq ws || (rivals s ck key).any (fun i => segsMeet ws i.reads || segsMeet ws i.writes)

/-- The same for a job. -/
def readBlocked (s : State) (j : Job) : Bool := readWaits s j.ck j.seq j.key (footprint j.kind j.rsegs)
def writeBlocked (s : State) (j : Job) : Bool := writeWaits s j.ck j.seq j.key (footprint j.kind j.wsegs)

end Sys2Proof.Machine
end

