-- ==== Sys2Proof/Machine/Tasks.lean ====
section
/-! DEFINITION. Tasks, their records, their creation and end, the ladder records, cancellation (R22 to R61, R82, R91
to R100). -/

namespace Sys2Proof.Machine

/-- The subkind of an object's handle (R17), 0 for a free record. -/
def LKind.sub : LKind → Nat
  | .free => 0 | .launch => 1 | .graph => 2 | .phase => 3 | .job => 4

/-- The ladder record a work-ladder handle names on this module, unless it is stale (R18, R54): one whose subkind is not
the record's names nothing (log entry 51). -/
def State.ladder? (s : State) (h : Word) : Option Ladder :=
  if hKind h == 2 && hModule h == s.pod.module then
    let r := mget (fun _ => {}) (s.dieAt (hDie h)).ladder (hCluster h)
    if r.kind != .free && r.kind.sub == hSub h && r.gen == hGen h then some r else none
  else none

/-- Replace the ladder record a handle names. -/
def State.putLadder (s : State) (h : Word) (r : Ladder) : State :=
  let d := s.dieAt (hDie h)
  s.putDie (hDie h) { d with ladder := mput d.ladder (hCluster h) r }

/-- A 32-bit ladder counter, which saturates (R55). -/
def satInc (n : Nat) : Nat := min (n + 1) 0xFFFFFFFF

/-- A child of a launch was created in a cluster (R55, R113). -/
def countCreated (s : State) (launch : Word) (ck : Nat) : State :=
  match s.ladder? launch with
  | none => s
  | some r => s.putLadder launch
      { r with created := satInc r.created, members := if r.members.contains ck then r.members else ck :: r.members }

/-- An object was created under another one (R55). -/
def countObject (s : State) (above : Word) : State :=
  match s.ladder? above with
  | none => s
  | some r => s.putLadder above { r with created := satInc r.created }

/-- A child of an object ended: poisoned or cancelled, with an error code to report, at a time (R34, R55, R171). -/
def countEnded (s : State) (launch : Word) (poisoned cancelled : Bool) (code time : Nat) : State :=
  match s.ladder? launch with
  | none => s
  | some r => s.putLadder launch
      { r with complete := satInc r.complete, poisoned := if poisoned then satInc r.poisoned else r.poisoned,
               cancelled := if cancelled then satInc r.cancelled else r.cancelled,
               firstError := if r.firstError == 0 then code else r.firstError, maxTime := max r.maxTime time }

/-- Set a launch's first-error word, if it is still zero (R46, R93, R309). -/
def setFirstError (s : State) (launch : Word) (code : Nat) : State :=
  match s.ladder? launch with
  | none => s
  | some r => if r.firstError == 0 then s.putLadder launch { r with firstError := code } else s

/-- The 64 bytes of a task record (R30). Bytes 40 to 47 of a task that is not of class DEADLINE are log entry 52. -/
def taskBytes (t : Task) : List Byte :=
  let st : Nat := match t.st with
    | .free => 0 | .waiting => 1 | .staging => 2 | .ready => 3
    | .running => 4 | .parkedTouch => 5 | .parkedPre => 6 | .ending => 7
  let body := if t.started then leBytes 8 t.touch.toNat ++ leBytes 8 t.pc.toNat ++ leBytes 16 0
    else leBytes 8 t.a0.toNat ++ leBytes 8 t.a1.toNat ++ leBytes 8 t.a2.toNat ++ leBytes 8 t.a3.toNat
  leBytes 8 t.entry.toNat ++ body ++ leBytes 8 t.deadline ++ leBytes 8 t.launch.toNat ++ leBytes 2 t.deps ++
    leBytes 1 (st + 8 * t.cls + 32 * b2n t.cancel + 64 * b2n t.retain) ++
    leBytes 1 (t.depth % 16 + 16 * (if t.image then t.gang else 0)) ++
    leBytes 1 t.fpmode ++ leBytes 1 t.covmode ++ leBytes 2 0

/-- The key of the park entry of a slot (R29). -/
def parkKey (s : State) (ck space slot : Nat) : Nat :=
  let x := (s.clusterAt ck).ctxAt space
  arrayKey ck (x.parkb.toNat % 262144 + 320 * (slot - x.ftBase))

/-- Replace a task; the heddle writes its record into the park area at its next time (R29, R30, R153, R161, R165). -/
def State.putTask (s : State) (ck slot : Nat) (t : Task) : State :=
  let c := s.clusterAt ck
  let key := parkKey s ck t.space slot
  let time := max (c.heddle.pts + 1) ((s.lineTimes key).2 + 1)
  (s.putCluster ck { c with tasks := mput c.tasks slot t, times := mput c.times (key / 128) (time, time)
                            heddle := { c.heddle with pts := time } }).writeBytes key (taskBytes t)

/-- The fields of an entry descriptor (R26). -/
structure Desc where
  cls : Nat
  kinds : List Nat
  deps : Nat
  lens : List Nat
  rel : Nat
  reserved : Bool
  deriving DecidableEq, Repr

/-- Read an entry descriptor from its 32 bytes (R26). A reserved class code counts as a reserved field (log entry 53). -/
def descOf (bs : List Byte) : Desc :=
  let n := leNat bs
  let kinds := (List.range 4).map (fun j => fld n (16 + 4 * j) 4)
  let lens := (List.range 4).map (fun j => fld n (64 + 32 * j) 32)
  { cls := fld n 0 3, kinds := kinds, deps := fld n 32 16, lens := lens, rel := fld n 192 32,
    reserved := fld n 3 13 != 0 || fld n 48 16 != 0 || fld n 224 32 != 0 || decide (4 < fld n 0 3) ||
      kinds.any (fun k => decide (3 < k)) || (kinds.zip lens).any (fun x => x.1 == 0 && x.2 != 0) }

/-- The tiles that a descriptor and the argument words declare (R26, R36, R37). -/
def tilesOf (d : Desc) (args : List Word) : List Tile :=
  (List.range 4).filterMap fun j =>
    let k := d.kinds.getD j 0
    if k == 0 then none
    else some { arg := j, kind := k, addr := args.getD j 0, len := d.lens.getD j 0 }

/-- The failure code that a descriptor and its tiles meet, 0 for none (R38). -/
def descFail (d : Desc) (tiles : List Tile) (pool : Nat) : Nat :=
  if d.reserved then 0x201
  else if tiles.any (fun t => t.addr.toNat % 128 != 0 || t.len % 128 != 0 || t.len < 128 || 131072 < t.len) then 0x202
  else if pool < (tiles.map (·.len)).foldl (· + ·) 0 then 0x203
  else 0

/-- The class of a new task: the descriptor's, or the creator's where it inherits or would rise (R27). -/
def childClass (d : Desc) (creator : Nat) : Nat := if d.cls < creator || 3 < d.cls then creator else d.cls

/-- Whether a core runs nothing and serves no gang. -/
def Core.idle (c : Core) : Bool := c.running.isNone && c.gang.follows.isNone

/-- The cores of the aligned block of a size around a core, the leader first (R49). -/
def blockOf (c size : Nat) : List Nat := (List.range size).map (fun j => c / size * size + (c % size + j) % size)

/-- Whether a GANG in execution waits for a core's block: the heddle does not dispatch to it (R49, R345). -/
def claimed (s : State) (ck c : Nat) : Bool :=
  (coreKeys ck).any fun k =>
    let g := (s.coreAt k).gang
    g.forming != 0 && (blockOf (k % 8) g.forming).contains c

/-- The free cores of a context in a cluster (R95, R452). -/
def freeCores (s : State) (ck space : Nat) : List Nat :=
  (s.clusterAt ck).heddle.freeOrder.filter fun c =>
    let x := s.coreAt (ck * 8 + c)
    x.idle && x.space == space && !claimed s ck c

/-- Raise a pre-emption request for a DEADLINE task that finds no free core (R107). -/
def raiseRequest (s : State) (ck space : Nat) : State :=
  if !(freeCores s ck space).isEmpty then s
  else
    let c := s.clusterAt ck
    let cand := (coreKeys ck).filter fun k =>
      let x := s.coreAt k
      match x.running with
      | none => false
      | some slot => x.space == space && !x.preempt && (c.task slot).cls != 0
    let cls := fun (k : Nat) => match (s.coreAt k).running with
      | some slot => (c.task slot).cls
      | none => 0
    let worst := cand.foldl (fun m k => max m (cls k)) 0
    let pick := minBy (fun k => 2 ^ 64 - (s.coreAt k).dispatched) (cand.filter (fun k => cls k == worst))
    match pick with
    | none => s
    | some k => s.putCore k { s.coreAt k with preempt := true }

/-- The locality bin of a task (R97). -/
def binOf (t : Task) : Nat :=
  match t.tiles with
  | [] => 0
  | x :: _ =>
    let a := x.addr.toNat
    fld a 12 4 ^^^ fld a 16 4 ^^^ fld a 20 4 ^^^ fld a 24 4

/-- A task becomes ready (R35, R97); a DEADLINE task without a free core raises a request (R107). -/
def becomeReady (s : State) (ck slot : Nat) : State :=
  let t := (s.clusterAt ck).task slot
  let s1 := s.putTask ck slot { t with st := .ready, since := s.cycle, bin := binOf t }
  if t.cls == 0 then raiseRequest s1 ck t.space else s1

/-- A task with no dependence left enters staging, or becomes ready where it declares no tile (R35). -/
def leaveWaiting (s : State) (ck slot : Nat) : State :=
  let t := (s.clusterAt ck).task slot
  if t.tiles.isEmpty then becomeReady s ck slot else s.putTask ck slot { t with st := .staging }

/-- How a task ends. -/
inductive TaskEnd where
  | full (v : Word)
  | poison (code : Nat)
  | cancel
  deriving DecidableEq, Repr

/-- The end of a task as its future's state and value. -/
def TaskEnd.fill : TaskEnd → FState × Word
  | .full v => (.full, v)
  | .poison c => (.poisoned, wordOfNat (c % 65536))
  | .cancel => (.cancelled, 0)

/-- Record an unhandled fault of an activation in its channel's binding status (R32, R132). -/
def setChannelStatus (s : State) (ck space ch code : Nat) : State :=
  let c := s.clusterAt ck
  let x := c.ctxAt space
  let w := mget (fun _ => (0 : Word)) x.chb ch
  if fld w.toNat 48 16 != 0 then s
  else s.putCluster ck (c.putCtx space { x with chb := mput x.chb ch (wordOfNat (putFld w.toNat 48 16 code)) })

/-- A group ends: its name record's generation advances (R53). -/
def Cluster.releaseNames (c : Cluster) (slot : Nat) : Cluster :=
  { c with names := c.names.map (fun n =>
      if n.2.slot == some slot then (n.1, { n.2 with slot := none, gen := (n.2.gen + 1) % 16777216 }) else n) }

/-- Everything in its cluster that belonged to a task is released (R23, R47, R210, R240, R404). -/
def Cluster.releaseTask (c : Cluster) (slot : Nat) : Cluster :=
  { c.releaseNames slot with
    regions := c.regions.filter (fun r => r.slot != slot || r.kind == 4)
    permits := c.permits.filter (fun p => p.2.slot != slot)
    loom := { c.loom with slots := c.loom.slots.filter (fun w => !(w.2.held == 1 && w.2.slot == slot)) } }

/-- The name record of a group that had migrated is free, with its generation advanced, when the group ends (R404). -/
def freeName (s : State) (name : Word) : State :=
  if name == 0 then s
  else
    let c := s.clusterAt (hCk name)
    let r := mget (fun _ => ({} : NameRec)) c.names (hCore name)
    if r.moved && r.gen == hGen name then
      s.putCluster (hCk name) { c with names := mput c.names (hCore name) { gen := (r.gen + 1) % 16777216 } }
    else s

/-- A task reaches its end: its future is filled unless it already is, its launch or channel told, everything it held
released, its entry freed where nothing is to remain (R28, R32, R34, R44, R57, R64). -/
def endTask (s0 : State) (ck slot : Nat) (e : TaskEnd) (time : Nat) : State :=
  let s := mendEntry s0 ck slot
  let c := s.clusterAt ck
  let t := c.task slot
  let (st, v) := e.fill
  let code := match e with
    | .poison k => k
    | _ => 0
  let homeHere := t.visible && !t.moved
  let entry := c.entry slot
  let fills := homeHere && entry.st == .empty
  let s1 := if fills then fillEntry s ck slot st v time false else s
  let s2 :=
    if t.visible && t.moved then
      s1.send { srcModule := s1.pod.module, src := ck, dstModule := s1.pod.module, dst := hCk t.home, target := t.home,
                msg := { handler := if st == .full then 9 else 10, w0 := t.home, w1 := v, sender := t.launch
                         space := t.space, cls := t.cls, time := time },
                form := 4 + 8 * b2n (st == .cancelled) }
    else s1
  let report := !t.visible || (homeHere && !fills)
  let s3 := match t.chan, t.visible with
    | some ch, false => if code == 0 then s2 else setChannelStatus s2 (hCk t.home) t.space ch code
    | _, _ => s2
  let cancelled := if homeHere && !fills then entry.st == .cancelled else st == .cancelled
  let poisoned := code != 0 || (homeHere && entry.st == .poisoned)
  let s4 := countEnded s3 t.launch poisoned cancelled (if report then code else 0) time
  let c1 := (s4.clusterAt ck).releaseTask slot
  let s5 := freeName ((s4.putCluster ck c1).putTask ck slot { space := t.space }) t.name
  let e1 := (s5.clusterAt ck).entry slot
  let mine := fun (l : Late) => l.dst.ck == ck && l.dst.slot == slot && l.dst.core.isNone
  let s6 : State := { s5 with pod := { s5.pod with
    late := s5.pod.late.filter (fun l => !mine l)
    orphans := s5.pod.orphans ++ (s5.pod.late.filter (fun l => mine l && !l.ready)).map (fun l => (l.asked, t.launch))
    jobs := s5.pod.jobs.map (fun j => if j.ck == ck && j.slot == slot then { j with discard := true } else j) } }
  let keepEntry := homeHere && !e1.consumed && !(e1.ended && e1.waiters.isEmpty && e1.refill.isEmpty)
  let s7 := s6.putEntry ck slot { e1 with task := false }
  if keepEntry then drainRefill s7 ck slot else freeEntry s7 ck slot

/-- Fill a completion future that is found in its slot or in the spill area, whatever the context's range is by now (R65,
R77); a cancelled one starts its scan. -/
def fillFound (s : State) (space : Nat) (fut : Word) (st : FState) (v : Word) (time : Nat) : State :=
  let ck := hCk fut
  match find s ck space fut time with
  | (.resident slot, s1) =>
    if ((s1.clusterAt ck).entry slot).st == .empty then fillEntry s1 ck slot st v time false else s1
  | (.inPlace slot p, s1) =>
    if s1.readN (p.key + 32) 1 % 8 == 1 then wakeRefill (fillRec s1 ck space p st v false time) ck slot fut else s1
  | (_, s1) => s1

/-- Fill a completion future with a state and a value at its home (R54, R65); one that is being spilled is filled when its
spill write is done (R72). -/
def fillCompletion (s : State) (space : Nat) (fut : Word) (st : FState) (v : Word) (time : Nat) : State :=
  if fut == 0 then s
  else
    let h := (s.clusterAt (hCk fut)).heddle
    if h.spilling == some (hSlot fut) then
      s.putHeddle (hCk fut) { h with heldFills := h.heldFills ++ [(space, fut, st, v, time)] }
    else fillFound s space fut st v time

/-- A task that parked at a TOUCH of this cluster leaves the future's lists (R43, R77). -/
def leaveList (s : State) (ck slot : Nat) : State :=
  let c := s.clusterAt ck
  let h := (c.task slot).touch
  let i := hSlot h
  let e := c.entry i
  if hKind h != 1 || hModule h != s.pod.module || hCk h != ck ||
      !(e.waiters.contains slot || e.toWake.contains slot || e.refill.contains slot) then s
  else
    unpinned (s.putEntry ck i { e with waiters := e.waiters.filter (· != slot), toWake := e.toWake.filter (· != slot)
                                       refill := e.refill.filter (· != slot) }) ck i

/-- CANCEL of a task's future according to the task's state (R82): effect and status. A task that is to end later does so at
no earlier time (R170, R171). -/
def cancelTask (s : State) (ck slot time : Nat) : Nat × State :=
  let t := (s.clusterAt ck).task slot
  match t.st with
  | .waiting | .staging | .ready => (1, endTask (leaveList s ck slot) ck slot .cancel time)
  | .running | .parkedTouch | .parkedPre => (2, s.putTask ck slot { t with cancel := true, pts := max t.pts time })
  | _ => (4, s)

/-- All ladder records of the module with their handles. -/
def State.ladders (s : State) : List (Word × Ladder) :=
  s.dies.flatMap fun d => d.2.ladder.filterMap fun x =>
    if x.2.kind == .free then none else some (ladderHandle s.pod.module d.1 x.1 x.2.kind.sub x.2.gen, x.2)

/-- The object that holds another one: a launch's graph or phase, else its job (R54). -/
def Ladder.above (r : Ladder) : Word := if r.parent != 0 then r.parent else r.job

/-- The launch of a graph's key has completed (R309). -/
def noteKey (s : State) (graph : Word) (key : Nat) : State :=
  match s.ladder? graph with
  | some g => if g.kind == .graph && key != 0 then s.putLadder graph { g with keys := mput g.keys key true } else s
  | none => s

/-- An object ends: its record says so, the object above counts it, its key in its graph is done (R54, R55, R309). A
cancelled object ends as any other, so that it counts as complete (log entry 54). -/
def endObject (s : State) (h : Word) (r : Ladder) : State :=
  noteKey (countEnded (s.putLadder h { r with ended := true }) r.above false r.wasCancelled 0 r.maxTime) r.parent r.key

/-- A phase enters the barrier when every graph and launch it holds here has completed; one that holds none enters
only where it is told to (R56). -/
def enterPhase (s : State) (phase : Word) (empty : Bool) : State :=
  match s.ladder? phase with
  | none => s
  | some r =>
    if r.kind != .phase || r.ended || r.entered || (r.created == 0 && !empty) || r.created != r.complete then s
    else s.putLadder phase { r with entered := true }

/-- After a launch of a graph has completed: the graph completes when a final launch was created, or the graph was
cancelled, and all its launches have completed, with their count as its value; then its phase may enter the barrier
(R54, R57). -/
def completeGraph (s : State) (parent : Word) : State :=
  match s.ladder? parent with
  | none => s
  | some g =>
    if g.kind == .phase then enterPhase s parent false
    else if g.kind != .graph || g.ended || !(g.final || g.wasCancelled) || g.created != g.complete then s
    else
      enterPhase (endObject (fillCompletion s g.space g.future .full (wordOfNat g.created) g.maxTime) parent g) g.parent
        false

/-- All tasks of the module that are not free, with cluster and slot. -/
def State.liveTasks (s : State) : List (Nat × Nat × Task) :=
  s.clusters.flatMap fun c => c.2.tasks.filterMap fun t => if t.2.st == .free then none else some (c.1, t.1, t.2)

/-- An object is cancelled: its record says so, and its completion future becomes CANCELLED (R57). The record ends when
what the object holds has ended. -/
def markCancelled (s : State) (h : Word) (time : Nat) : State :=
  match s.ladder? h with
  | none => s
  | some r =>
    if r.ended || r.wasCancelled then s
    else fillCompletion (s.putLadder h { r with wasCancelled := !r.standing, maxTime := max r.maxTime time }) r.space
      r.future .cancelled 0 time

/-- Cancel one launch: its tasks, then its completion future; its record leaves the queue, and the sweep still ends it
(R57, R84, R89). A record in the launch spill area leaves when it is drained. -/
def cancelLaunch (s : State) (h : Word) (time : Nat) : State :=
  match s.ladder? h with
  | none => s
  | some r =>
    if r.ended || r.wasCancelled then s
    else
      let ts := s.liveTasks.filter (fun x => x.2.2.launch == h)
      let s1 := ts.foldl (fun s x => (cancelTask s x.1 x.2.1 time).2) s
      let d := s1.dieAt (hDie h)
      let s2 := s1.putDie (hDie h) { d with launchQ := d.launchQ.filter (fun q => q.handle != h) }
      let s3 := match s2.ladder? h with
        | some q => s2.putLadder h { q with placed := true }
        | none => s2
      markCancelled s3 h time

/-- CANCEL of a work-ladder object (R57): its launches, then its own completion future; a job by the kill sequence. A graph
or phase that holds nothing open ends at once (R54, R56). -/
def cancelLadder (s : State) (h : Word) (time : Nat) : Nat × State :=
  match s.ladder? h with
  | none => (8, s)
  | some r =>
    if r.ended || r.wasCancelled then (4, s)
    else
      match r.kind with
      | .launch => (1, cancelLaunch s h time)
      | .job => (1, killJob s r.space 0 time)
      | _ =>
        let graphs := (s.ladders.filter (fun x => x.2.kind == .graph && x.2.parent == h)).map (·.1)
        let mine := s.ladders.filter (fun x => x.2.kind == .launch && (x.2.parent == h || graphs.contains x.2.parent))
        let s1 := mine.foldl (fun s x => cancelLaunch s x.1 time) s
        let s2 := (h :: graphs).foldl (fun s g => markCancelled s g time) s1
        (1, (graphs ++ [h]).foldl completeGraph s2)

/-- Where a task that left its home cluster stands now, by its own future: its entry stays at the home (R110, R338). -/
def State.movedTask (s : State) (h : Word) : Option (Nat × Nat) :=
  (s.liveTasks.find? (fun x => x.2.2.moved && x.2.2.home == h)).map (fun x => (x.1, x.2.1))

/-- The forwarding entry of a cluster for a name or a handle (R111). -/
def Cluster.forward? (c : Cluster) (target : Word) : Option Fwd :=
  (c.fwd.find? (fun f => target != 0 && (f.2.name == target || f.2.home == target))).map (·.2)

/-- A message counts as received for its launch at a cluster, which joins the launch's participation set (R113). -/
def countReceived (s : State) (ck : Nat) (m : Message) : State :=
  if m.handler < 256 || m.tag == 0 then s
  else
    let h := (s.clusterAt ck).heddle
    let n := mget (fun _ => (0, 0)) h.counts m.tag
    s.putHeddle ck { h with counts := mput h.counts m.tag (n.1, (n.2 + 1) % 2 ^ 48) }

/-- A bounce notice to the sender's channel 15, with the message's control field (R250); a port has no channel. -/
def bounce (s : State) (p : Packet) (reason : Nat) : State :=
  let s := countReceived s p.dst p.msg
  if 3199 < p.src % 4096 then s
  else
    let m : Message :=
      { handler := 0x2F, w0 := p.target, w1 := wordOfNat reason, w2 := wordOfNat (p.form % 2048),
        w3 := wordOfNat p.msg.time, space := p.msg.space, time := p.msg.time, cls := p.msg.cls }
    s.send { srcModule := s.pod.module, src := p.dst, dstModule := p.srcModule, dst := p.src, target := p.target,
             msg := m, form := 2 ^ 32 }

/-- Send a packet on to another cluster of the module (R111). -/
def forward (s : State) (p : Packet) (ck : Nat) : State := s.send { p with dst := ck }

/-- What an operation at a future's home comes to: its status word, a wait, a status that another cluster will send, or
PRIV for the issuer (R57, R85, R111). -/
inductive Status where
  | now (v : Nat)
  | wait
  | later
  | priv
  deriving DecidableEq, Repr

/-- The status of an operation that either waits or is done. -/
def Status.of (r : Option Nat × State) : Status × State :=
  match r with
  | (some v, s) => (.now v, s)
  | (none, s) => (.wait, s)

/-- CANCEL of the object that a completion future completes; a job's takes a privileged issuer (R57, R61). -/
def cancelOwner (s : State) (owner : Word) (priv : Bool) (time : Nat) : Status × State :=
  if hSub owner == 4 && !priv then (.priv, s)
  else
    match cancelLadder s owner time with
    | (r, s1) => (.now r, s1)

/-- The CANCEL of a task that left this cluster goes on to its new place, which answers; once the forwarding entry is gone it
bounces and nothing is cancelled (R82, R111, R116; log entry 23). A packet of form 1 is a scan's: no one waits for it. -/
def cancelMoved (s : State) (ck : Nat) (p : Packet) : Status × State :=
  match (s.clusterAt ck).forward? p.target with
  | some f => (.later, forward s p f.dst)
  | none => (.now 0, if p.form == 1 then s else bounce s { p with dst := ck } 2)

/-- CANCEL of the future in a slot (R82), brought by a packet whose answer goes to the issuer. -/
def cancelResident (s : State) (ck slot : Nat) (p : Packet) (priv : Bool) (time : Nat) : Status × State :=
  let c := s.clusterAt ck
  let e := c.entry slot
  if e.st != .empty then (.now 4, s)
  else if e.owner != 0 then cancelOwner s e.owner priv time
  else if (c.task slot).st == .free then cancelMoved s ck p
  else
    match cancelTask s ck slot time with
    | (r, s1) => (.now r, s1)

/-- CANCEL of a future handle at its home (R77, R82, R329). -/
def cancelAt (s : State) (ck space : Nat) (p : Packet) (priv : Bool) (time : Nat) : Status × State :=
  match lookup s ck space p.target time with
  | (.wait, s1) => (.wait, s1)
  | (.resident slot, s1) => cancelResident s1 ck slot p priv time
  | (.inPlace _ r, s1) =>
    if s1.readN (r.key + 32) 1 % 8 != 1 then (.now 4, s1)
    else cancelOwner s1 (wordOfNat (s1.readN (r.key + 24) 8)) priv time
  | (_, s1) => (.now 8, s1)

/-- DEPDEC at the home (R46, R338): the status word. A task that migrated is found where it is now. -/
def depdecAt (s : State) (ck space : Nat) (h : Word) (time : Nat) : Option Nat × State :=
  match lookup s ck space h time with
  | (.wait, s1) => (none, s1)
  | (.resident slot, s1) =>
    let e := (s1.clusterAt ck).entry slot
    let (k, i) := if ((s1.clusterAt ck).task slot).st == .free then (s1.movedTask h).getD (ck, slot) else (ck, slot)
    let t := (s1.clusterAt k).task i
    if e.owner != 0 || !e.task || t.st == .free || t.cancel then (some 8, s1)
    else if t.deps == 0 then (some 2, setFirstError s1 t.launch 0x209)
    else
      let s2 := s1.putTask k i { t with deps := t.deps - 1, pts := max t.pts time }
      if t.deps == 1 then (some 1, leaveWaiting s2 k i) else (some 0, s2)
  | (.inPlace _ _, s1) => (some 8, s1)
  | (_, s1) => (some 4, s1)

/-- Whether a parent link names an object that is already CANCELLED (R83). -/
def parentCancelled (s : State) (parent : Word) : Bool :=
  match hKind parent with
  | 1 =>
    let e := (s.clusterAt (hCk parent)).entry (hSlot parent)
    e.gen == hGen parent && e.st == .cancelled
  | 2 => match s.ladder? parent with
    | some r => r.wasCancelled
    | none => false
  | _ => false

/-- Create a task in an allocated slot (R31, R35, R38, R63, R83). -/
def createTask (s : State) (ck slot gen : Nat) (t : Task) (parent : Word) (time : Nat) : State :=
  let s1 := (s.heddleAt ck time).newEntry ck t.space slot gen parent 0 t.launch true
  let t1 := { t with home := futureHandle s.pod.module ck slot gen, born := s.cycle, pts := time, st := .waiting }
  let s2 := (countCreated s1 t.launch ck).putTask ck slot t1
  let s2 : State := { s2 with bad := clearMarks s2.bad (parkKey s ck t.space slot) 64 }
  if parentCancelled s parent then endTask s2 ck slot .cancel time
  else if t.fail != 0 then endTask s2 ck slot (.poison t.fail) time
  else if t.deps != 0 then s2
  else leaveWaiting s2 ck slot

/-- The bytes of the landing pool (R38). -/
def Cluster.poolBytes (c : Cluster) : Nat := c.poolLen * 1024

/-- A new task of an entry: class, deadline, tiles and failure from its descriptor (R25 to R27, R38). -/
def taskOf (s : State) (ck space : Nat) (entry : Word) (desc : List Byte) (args : List Word) (a4 launch : Word)
    (creator : Nat) (deadline : Option Nat) : Task :=
  let d := descOf desc
  let tiles := tilesOf d args
  let cls := childClass d creator
  { space := space, entry := entry, a0 := args.getD 0 0, a1 := args.getD 1 0, a2 := args.getD 2 0, a3 := args.getD 3 0,
    a4 := a4, launch := launch, deps := d.deps, cls := cls, tiles := tiles,
    fail := descFail d tiles (s.clusterAt ck).poolBytes,
    deadline := match deadline with
      | some t => t
      | none => s.now + d.rel,
    priv := space == 0 }

/-- Read an entry's descriptor by the heddle at a time no earlier than m (R25, R153, R165, R170); none where it cannot be read
(R38 code 0x0204). -/
def heddleDesc (s : State) (ck space : Nat) (entry : Word) (m : Nat) : Option (List Byte) × State :=
  match segments s ck space (entry - 32) 32 false with
  | (.ok [.mem k n leaf], s1) =>
    let s2 := noteError (heddleRead (s1.heddleAt ck m) ck space { key := k, leaf := leaf }) k n space
    if s2.marked k n then (none, s2) else (some (bytesFrom s2.mem k n), s2)
  | (_, s1) => (none, s1)

/-- The standing launch of the live job that holds a SPACE, 0 for none (R32, R53). -/
def standingLaunch (s : State) (space : Nat) : Word :=
  match s.ladders.find? (fun x => x.2.kind == .launch && x.2.standing && x.2.space == space && !x.2.ended) with
  | some x => x.1
  | none => 0

end Sys2Proof.Machine
end

