-- ==== Sys2Proof/Machine/Ops.lean ====
section
/-! DEFINITION. The named operations on a core: issue and waiting, the window transfers (R119, R120), gangs (R49 to
R51), freeing a core, parks (R41, R108), dispatch (R24, R42), taking a trap (R265, R451) and returning from one (R341). -/

namespace Sys2Proof.Machine

/-- Change the current core. -/
def State.onCore (s : State) (f : Core → Core) : State := { s with core := f s.core }

/-- A general register of the current core. -/
def State.x (s : State) (n : BitVec 5) : Word := s.core.x n.toNat

/-- Control goes on behind the unit (R284). -/
def State.adv (s : State) : State := { s with core := { s.core with pc := s.core.unit.here + 4 } }

/-- Control goes to an address. -/
def State.goto (s : State) (a : Word) : State := { s with core := { s.core with pc := a } }

/-- Write a general register and go on. -/
def State.ret (s : State) (d : BitVec 5) (v : Word) : State :=
  { s with core := { s.core.setX d.toNat v with pc := s.core.unit.here + 4 } }

/-- The unit does not issue and waits (R103). -/
def State.wait (s : State) : State := { s with core := { s.core with waiting := true } }

/-- The word of the instruction, as TVAL holds it (R266). -/
def State.wordVal (s : State) : Word := wordOfNat s.core.unit.word

/-- The task the current core runs. -/
def State.task? (s : State) : Option (Nat × Task) := s.core.running.map (fun i => (i, s.cluster.task i))

/-- The running task, or an empty record where the core runs none. -/
def State.task (s : State) : Task := match s.core.running with
  | some i => s.cluster.task i
  | none => {}

/-- The address of a place in a task's stack region (R119). -/
def stackVa (s : State) (ck space slot off : Nat) : Nat :=
  let x := (s.clusterAt ck).ctxAt space
  x.stkb + 16384 * (slot - x.ftBase) + off

/-- A place in a task's stack region, where the heddle's translation gives one (R119). -/
def stackSpot (s : State) (ck space slot off n : Nat) (write : Bool) : Option Spot × State :=
  heddleSpot s ck space (stackVa s ck space slot off) n write

/-- The agent that reaches a task's saved state: the core that runs the task, else the heddle (R119, R161). -/
def stackAgent (s : State) (ck slot : Nat) : Option Nat :=
  (coreKeys ck).find? (fun k => (s.coreAt k).running == some slot)

/-- How many of n words at a place of a stack region go in one access of at most 64 bytes (R119). -/
def stackBurst (s : State) (ck space slot off n : Nat) : Nat :=
  if stackVa s ck space slot off % 64 = 0 ∧ 8 ≤ n then 8 else 1

/-- Write 64-bit words into a stack region, burst by burst, or the address of the access that misses; the fuel is their
number. -/
def stackPut (who : Option Nat) (ck space slot : Nat) : Nat → State → Nat → List Word → Except Word State
  | 0, s, _, _ => .ok s
  | fuel + 1, s, off, ws =>
    if ws.isEmpty then .ok s
    else
      let n := stackBurst s ck space slot off ws.length
      match stackSpot s ck space slot off (8 * n) true with
      | (some p, s1) =>
        stackPut who ck space slot fuel
          (agentWrite s1 who ck space p ((ws.take n).flatMap (fun w => leBytes 8 w.toNat))) (off + 8 * n) (ws.drop n)
      | (none, _) => .error (wordOfNat (stackVa s ck space slot off))

/-- Write 64-bit words into a stack region from an offset (R119), or the address of a miss. -/
def stackWrite (ck space slot : Nat) (s : State) (off : Nat) (ws : List Word) : Except Word State :=
  stackPut (stackAgent s ck slot) ck space slot ws.length s off ws

/-- Read n 64-bit words of a stack region, burst by burst; the fuel is at least n. -/
def stackGet (who : Option Nat) (ck space slot : Nat) : Nat → State → Nat → Nat → Except Word (List Word × Bool × State)
  | 0, s, _, _ => .ok ([], false, s)
  | fuel + 1, s, off, n =>
    if n = 0 then .ok ([], false, s)
    else
      let m := stackBurst s ck space slot off n
      match stackSpot s ck space slot off (8 * m) false with
      | (none, _) => .error (wordOfNat (stackVa s ck space slot off))
      | (some p, s1) =>
        let s2 := noteError (agentRead s1 who ck space p) p.key (8 * m) space
        match stackGet who ck space slot fuel s2 (off + 8 * m) (n - m) with
        | .error a => .error a
        | .ok (ws, bad, s3) =>
          .ok ((List.range m).map (fun i => wordOfNat (s2.readN (p.key + 8 * i) 8)) ++ ws, s2.marked p.key (8 * m) || bad, s3)

/-- Read n 64-bit words of a stack region from an offset, and whether they have an uncorrectable error (R119, R272); or the
address of a miss. -/
def stackRead (ck space slot : Nat) (s : State) (off n : Nat) : Except Word (List Word × Bool × State) :=
  stackGet (stackAgent s ck slot) ck space slot n s off n

/-- Stack depth D of a task's region, and whether it has an uncorrectable error (R119, R272). -/
def stackDepth (s : State) (ck space slot : Nat) : Except Word (Nat × Bool × State) :=
  (stackRead ck space slot s 0 1).map (fun r => (((r.1.head?).getD 0).toNat, r.2))

/-- The outcome of a window transfer (R119). -/
inductive Window where
  /-- done, at this address -/
  | moved (s : State) (addr : Word)
  /-- the stack region is full -/
  | full
  /-- translation or permission miss, at this address -/
  | miss (addr : Word)
  /-- uncorrectable error in the stack region, which is recorded -/
  | ue (s : State)

/-- The write of WSPILL: logical registers f to f + 31 to the stack region (R119). -/
def spillWindowOut (s : State) : Window :=
  let c := s.core
  let slot := c.running.getD 0
  match stackDepth s s.ck c.space slot with
  | .error a => .miss a
  | .ok (d, bad, s0) =>
    if bad then .ue s0
    else if 12736 < d + 256 then .full
    else
      let ws := (List.range 32).map (fun i => c.logical (c.f + i))
      match stackWrite s.ck c.space slot s0 (3648 + d) ws with
      | .error a => .miss a
      | .ok s1 =>
        match stackWrite s.ck c.space slot s1 0 [wordOfNat (d + 256)] with
        | .error a => .miss a
        | .ok s2 => .moved { s2 with core := { s2.core with f := c.f + 32 } }
            (wordOfNat (stackVa s s.ck c.space slot (3648 + d)))

/-- The read of WFILL: up to 32 logical registers below f from the stack region (R119). -/
def fillWindow (s : State) : Window :=
  let c := s.core
  let slot := c.running.getD 0
  match stackDepth s s.ck c.space slot with
  | .error a => .miss a
  | .ok (d, bad0, s0) =>
    let n := min 32 (d / 8)
    match stackRead s.ck c.space slot s0 (3648 + d - 8 * n) n with
    | .error a => .miss a
    | .ok (ws, bad, s1) =>
      if bad0 || bad then .ue s1
      else
        match stackWrite s.ck c.space slot s1 0 [wordOfNat (d - 8 * n)] with
        | .error a => .miss a
        | .ok s2 =>
          .moved { s2 with core := { s2.core.refill (c.f - n) ws with f := c.f - n } }
            (wordOfNat (stackVa s s.ck c.space slot (3648 + d - 8 * n)))

/-- The size of a gang from its code (R17). -/
def gangSize (code : Nat) : Nat := 2 ^ code

/-- Keys of the members that serve the current core's vector instructions: itself alone without a gang (R50). -/
def State.members (s : State) : List Nat :=
  if s.core.gang.standing then (blockOf (s.cur % 8) (gangSize s.core.gang.code)).map (fun c => s.ck * 8 + c) else [s.cur]

/-- A core returns to the heddle's free list (R47, R95). -/
def listFree (s : State) (ck c : Nat) : State :=
  let h := (s.clusterAt ck).heddle
  s.putHeddle ck { h with freeOrder := h.freeOrder.filter (· != c) ++ [c] }

/-- Release a follower's queues. -/
def releaseQueues (c : Cluster) (x : Core) : Cluster :=
  x.queues.foldl (fun c q => match q.2.region with
    | some o => c.release o
    | none => c) c

/-- The cores that a leader has taken for its gang. -/
def followersOf (s : State) (k : Nat) : List Nat :=
  (List.range 8).filter (fun c => (s.coreAt (k / 8 * 8 + c)).gang.follows == some (k % 8))

/-- A follower returns to the heddle: its lanes, queues and queue regions are lost (R339). -/
def dropFollower (ck : Nat) (s : State) (c : Nat) : State :=
  let y := s.coreAt (ck * 8 + c)
  let s1 := s.putCluster ck (releaseQueues (s.clusterAt ck) y)
  listFree (s1.putCore (ck * 8 + c) { y with gang := {}, queues := [], vregs := [], vmarks := [], holds := [] }) ck c

/-- End a gang, standing or forming: followers return to the heddle, the save region is released, the leader keeps
its own registers (R51, R339, R345). -/
def disband (s : State) (k : Nat) : State :=
  let ck := k / 8
  let fs := followersOf s k
  let g := (s.coreAt k).gang
  if fs.isEmpty && g.save.isNone && !g.standing then s
  else
    let s1 := fs.foldl (dropFollower ck) s
    let s2 := match g.save with
      | some o => s1.putCluster ck ((s1.clusterAt ck).release o)
      | none => s1
    let y := s2.coreAt k
    s2.putCore k { y with gang := { y.gang with standing := false, code := 0, save := none, forming := 0 } }

/-- Whether a line of the scratchpad stays powered when a core's share powers down (R47). -/
def Cluster.powered (c : Cluster) (line : Nat) : Bool :=
  c.inPark (line * 128) 128 ||
  c.regions.any (fun r => meets r.off r.len (line * 128) 128) ||
  c.spaces.any (fun sp => (c.ctxAt sp).dataRegions.any (fun r => meets r.1 r.2 (line * 128) 128))

/-- The line of the scratchpad of a cluster that a key lies in. -/
def lineOfKey (ck k : Nat) : Option Nat :=
  if arrayKey ck 0 ≤ k ∧ k < arrayKey ck 262144 then some ((k - arrayKey ck 0) / 128) else none

/-- Power down a core's share: its lines read as zero, its L1 lines are dropped, the array's memory timestamp passes
their times (R47, R140, R142, R164). -/
def powerDown (s : State) (ck core : Nat) : State :=
  let c := s.clusterAt ck
  let off := fun (k : Nat) => match lineOfKey ck k with
    | some l => l % 8 == core && !c.powered l
    | none => false
  let gone := c.times.filter (fun t => off (t.1 * 128))
  let m := gone.foldl (fun m t => max m (max t.2.1 t.2.2 + 1)) c.mts
  { (s.putCluster ck { c with
      l1 := c.l1.filter (fun x => x.share != core)
      times := c.times.filter (fun t => !off (t.1 * 128))
      mts := m }) with
    mem := s.mem.filter (fun x => !off x.1)
    bad := s.bad.filter (fun g => !off (8 * g)) }

/-- A task that leaves its core while a request of its is unanswered (R113, R419): the answer belongs to its launch. -/
def orphanAsked (s : State) (k slot : Nat) (launch : Word) : State :=
  let c := s.coreAt k
  if c.asked ≤ c.answers.length then s
  else
    let w : Waiter := { ck := k / 8, slot := slot, count := ((s.clusterAt (k / 8)).entry slot).count, reg := c.b, core := some k }
    { s with pod := { s.pod with orphans := s.pod.orphans ++ [(w, launch)] } }

/-- The core lets its task go: gang disbanded, queues no longer in use, the accumulators' flags clear, the request withdrawn
(R47, R107, R218, R232). -/
def freeCore (s : State) (k : Nat) : State :=
  let s1 := disband s k
  let x := s1.coreAt k
  listFree (s1.putCore k
    { x with running := none, preempt := false, waiting := false, vectoring := false, queues := [], holds := [],
             fails := [], vmarks := [], mmarks := [], gmarks := [], priv := false, answers := [], asked := 0,
             loom := { acc := x.loom.acc, ue := x.loom.ue }, trap := { x.trap with depth := 0, kill := 0 } }) (k / 8) (k % 8)

/-- The time at which the current task's future is filled: no earlier than the core's accesses and a CANCEL that reached the
task (R170, R171). -/
def State.endTime (s : State) : Nat := max s.core.pts s.task.pts

/-- The task of the current core ends (R47, R57, R451): its bank share powers down, the core is free. -/
def endRunning (s : State) (e : TaskEnd) : State :=
  match s.core.running with
  | none => s
  | some slot =>
    let ck := s.ck
    let s1 := endTask (orphanAsked s s.cur slot s.task.launch) ck slot e s.endTime
    powerDown (freeCore s1 s.cur) ck (s.cur % 8)

/-- A trap before the supervisor's first write of TBASE on the core: a fatal context error of context 0, after which
the module waits for a reset (R282, R451). -/
def trapBeforeBase (s : State) : State :=
  let s1 := s.dieError (s.ck / 4096) true 12 (s.cur % 8) 0 s.core.unit.base 0
  { s1 with down := true, io := { s1.io with health := putFld s1.io.health 3 1 1 } }

/-- The kill of the job whose context the core serves, for a fatal context error (R274, R275). -/
def killOwn (s : State) (code unit : Nat) (addr : Word) : State :=
  (fatalAt s (s.ck / 4096) s.core.space code unit addr s.core.pts).wait

/-- FATALX ends the job through its kill, which left with the refusal (R149, R342); it leaves again where it did not. -/
def fatalxEnd (s : State) : State :=
  if s.pod.kills.any (fun k => k.1 == s.core.space) then s.wait else (killJob s s.core.space 0x310 s.core.pts).wait

/-- A trap while TBASE is 0 after it was written: unhandled (R451). `made` tells that a window transfer was made. -/
def trapUnhandled (s : State) (cause : Nat) (tval : Word) : State :=
  match cause with
  | 5 => fatalxEnd s
  | 6 => if tval == 0 then endRunning s (.poison 6) else s
  | 7 => s
  | _ => endRunning s (.poison cause)

/-- The gathers of a gang that a trap disbands land in the leader's lanes alone (R51, R241). -/
def dropLanes (s : State) : State :=
  if s.core.gang.standing then
    { s with pod := { s.pod with jobs := s.pod.jobs.map (fun j =>
        if j.ck == s.ck && s.core.running == some j.slot then { j with members := 1 } else j) } }
  else s

/-- Enter the handler: the registers, the mode, the window and the pc of R265, the count of R451, the kill flag of
R342, and the budget of a WDOG handler (R106). -/
def enterHandler (s : State) (cause : Nat) (tval : Word) : State :=
  let s1 := disband (dropLanes s) s.cur
  let c := s1.core
  { s1 with core := { c with
      trap := { c.trap with
        cause := wordOfNat (cause + 256 * b2n c.priv)
        pc := c.unit.base
        value := tval
        depth := c.trap.depth + 1
        kill := if cause = 10 then 1 else if cause = 5 then 2 else c.trap.kill }
      priv := true
      b := c.b + 8
      pc := c.trap.base + wordOfNat (64 * cause)
      wcnt := if cause = 10 then 512 else c.wcnt
      vectoring := true
      waiting := false } }

/-- Take a trap (R265): before TBASE was written it ends the machine's run (R282); while TBASE is 0 it is unhandled
(R451); else the handler is entered, after the WSPILL write where the window has no room. -/
def trap (s : State) (cause : Nat) (tval : Word) : State :=
  let c := s.core
  if !c.trap.written then trapBeforeBase s
  else if c.trap.base == 0 then trapUnhandled s cause tval
  else if c.f + 128 < c.b + 40 then
    match spillWindowOut s with
    | .moved s1 _ => enterHandler s1 cause tval
    | .full => endRunning s (.poison 6)
    | .miss a => killOwn s 0x311 8 a
    | .ue s1 => endRunning s1 (.poison 0x10)
  else enterHandler s cause tval

/-- A trap on a gang member, given by its core, is taken on the leader, and GSTAT names the member by its place in the
gang (R49, R51). -/
def trapMember (s : State) (core cause : Nat) (tval : Word) : State :=
  if s.core.gang.standing then
    let c := s.core
    let j := s.members.findIdx (· == s.ck * 8 + core)
    trap { s with core := { c with gang := { c.gang with member := j, memberTrap := true } } } cause tval
  else trap s cause tval

/-- ILLEGAL with the instruction word in TVAL (R266). -/
def illegal (s : State) : State := trap s 1 s.wordVal

/-- Return from a trap (R271, R341, R342). -/
def trapReturn (s : State) : State :=
  let c := s.core
  if c.trap.kill = 1 then endRunning s (.poison 10)
  else if c.trap.kill = 2 then fatalxEnd s
  else if s.task.cancel then endRunning s .cancel
  else if c.b < 8 then illegal s
  else if c.trap.pc.toNat % 4 != 0 then trap s 3 c.trap.pc
  else
    let back := fun (s : State) =>
      let c := s.core
      { s with core := { c with b := c.b - 8, priv := bit c.trap.cause.toNat 8, pc := c.trap.pc,
                                trap := { c.trap with depth := c.trap.depth - 1 } } }
    if c.b - 8 < c.f then
      match fillWindow s with
      | .moved s1 _ => back s1
      | _ => endRunning s (.poison 7)
    else back s

/-- A window trap of CALL or RET: the transfer is made, then the trap taken; a full region traps with TVAL 0 (R119). -/
def windowTrap (s : State) (cause : Nat) (w : Window) : State :=
  match w with
  | .moved s1 a => trap s1 cause a
  | .full => trap s 6 0
  | .miss a => killOwn s 0x311 8 a
  | .ue s1 => endRunning s1 (.poison 0x10)

/-- Bytes of the park record: a0 to a31 (R30). -/
def parkRecord (c : Core) : List Byte := (List.range 32).flatMap (fun i => leBytes 8 (c.x i).toNat)

/-- An agent of a cluster writes a stretch of bytes of its own array (R108, R133, R161, R165). -/
def agentPut (s : State) (who : Option Nat) (ck space key : Nat) (bs : List Byte) : State :=
  let segs := [Seg.mem key bs.length 0]
  let (t, s1) := writePass s segs (s.agentPts ck who + 1)
  writeSegs { ck := ck, space := space, time := t } (s1.putPts ck who t) segs bs

/-- An agent of a cluster reads a stretch of bytes of its own array (R120, R153, R161, R165). -/
def agentGet (s : State) (who : Option Nat) (ck space key n : Nat) : State :=
  eachLine (fun s k => agentRead s who ck space { key := k, leaf := 0 }) s [Seg.mem key n 0]

/-- The current core does so. -/
def corePut (s : State) (key : Nat) (bs : List Byte) : State := agentPut s (some s.cur) s.ck s.core.space key bs

/-- How a park ends (R41, R119, R272). -/
inductive Park where
  | done (s : State)
  /-- a miss in the stack region at an address: a fatal context error -/
  | miss (addr : Word)
  /-- an uncorrectable error in the stack region, which is recorded: the task ends -/
  | ue (s : State)
  deriving DecidableEq

/-- Save the window at a park: registers f to b - 1 to the stack region, a0 to a31 to the park record (R41, R120). The
result is the saved depth. Registers past the end of the region are written there too (log entry 56). -/
def saveWindow (s : State) (slot : Nat) : Park × Nat :=
  let c := s.core
  let n := c.b - c.f
  match stackDepth s s.ck c.space slot with
  | .error a => (.miss a, 0)
  | .ok (d, bad, s0) =>
    if bad then (.ue s0, 0)
    else
      match stackWrite s.ck c.space slot s0 (3648 + d) ((List.range n).map (fun i => c.logical (c.f + i))) with
      | .error a => (.miss a, 0)
      | .ok s1 => (.done (corePut s1 (parkKey s s.ck c.space slot + 64) (parkRecord c)), n / 8)

/-- One word of a stack region is written late by the heddle or the core; a miss is a fatal context error (R41, R119,
R274). -/
def stackWord (s : State) (ck space slot off : Nat) (v : Word) : State :=
  match stackWrite ck space slot s off [v] with
  | .ok s1 => s1
  | .error a => fatalAt s (ck / 4096) space 0x311 8 a ((s.clusterAt ck).task slot).pts

/-- The write that a late value makes in the saved image of a parked task (R41, R108, R120). -/
def lateImage (s : State) (ck slot : Nat) (reg : Nat) (v : Word) : State :=
  let t := (s.clusterAt ck).task slot
  if t.base ≤ reg then
    agentWrite s none ck t.space { key := parkKey s ck t.space slot + 64 + 8 * (reg - t.base), leaf := 0 } (leBytes 8 v.toNat)
  else stackWord s ck t.space slot (3648 + 8 * reg) v

/-- Whether a destination write of a task is still to land: late writes and engine jobs with a status (R41, R108). -/
def lateOf (s : State) (ck slot : Nat) : Bool :=
  s.pod.late.any (fun l => l.dst.ck == ck && l.dst.slot == slot && l.dst.core.isNone) ||
  s.pod.jobs.any (fun j => j.ck == ck && j.slot == slot && !j.discard && !j.dead)

/-- Park the current task at a TOUCH (R41): window and registers saved, the handle and pc into the record, the private
slots and the queues gone, the core free. -/
def parkTouch (s : State) (h : Word) (pc : Word) : Park :=
  match s.core.running with
  | none => .done s
  | some slot =>
    let s0 := disband s s.cur
    match saveWindow s0 slot with
    | (.done s1, depth) =>
      let c := s1.core
      let t := s1.cluster.task slot
      let cl := s1.cluster
      let cl1 := { cl with
        regions := cl.regions.filter (fun r => r.slot != slot || !(r.kind == 1 || r.kind == 2 || r.kind == 3))
        loom := { cl.loom with slots := cl.loom.slots.filter (fun w => !(w.2.held == 1 && w.2.slot == slot)) } }
      let s2 := (s1.putCluster s1.ck cl1).putTask s1.ck slot
        { t with st := .parkedTouch, touch := h, pc := pc, depth := depth, fpmode := c.modes.fpmode,
                 covmode := c.modes.covmode, base := c.b, handlers := c.trap.depth, pts := c.pts, started := true,
                 priv := c.priv, saveRegion := none, image := false, front := false
                 parked := { gmarks := c.gmarks, fails := c.fails, usedTime := c.usedTime, nordTime := c.nordTime } }
      .done (freeCore s2 s2.cur)
    | (r, _) => r

/-- The F32 image of an accumulator (R220, R230). -/
def accBytes (l : CoreLoom) (k : Nat) : List Byte :=
  (List.range 1024).flatMap (fun i => leBytes 4 (mget (fun _ => 0) l.acc (k * 1024 + i)).toNat)

/-- The places of the queue that are taken: a drain that runs ahead takes none (R220, R224). -/
def CoreLoom.places (l : CoreLoom) : Nat := (l.queue.filter (fun c => !c.ahead)).length

/-- LMSTAT of a core (R227). -/
def lmstatOf (l : CoreLoom) (loomFrozen : Bool) : Nat :=
  l.inUse % 16 + 16 * (l.dirty % 16) + 256 * (l.zero % 16) + 4096 * b2n l.frozen + 8192 * b2n loomFrozen +
    16384 * b2n l.cache.isSome + 65536 * l.places + 1048576 * ((((l.queue.filter (fun c => !c.ahead)).head?.map (·.piece)).getD 0) % 256) + 268435456 * (l.weight % 16) +
    4294967296 * (l.firstFail % 256) + 1099511627776 * (l.failed % 256)

/-- The 12 bytes of a command record (R230). -/
def cmdBytes (c : LCmd) (base : Nat) : List Byte :=
  leBytes 4 (c.region.toNat % 262144) ++ leBytes 4 c.second ++ leBytes 4 (c.control + 2048 * ((c.dest - base) % 32))

/-- Save the loom state at a pre-emptive park into the save region (R229, R230): the drained accumulators become clean,
the commands are frozen. -/
def saveLoom (s : State) (slot : Nat) : CoreLoom × State :=
  let c := s.core
  let cl := s.cluster
  let l := c.loom
  match (cl.task slot).saveRegion with
  | none => (l, s)
  | some o =>
    let drained := (List.range 4).filter (fun k => bit l.inUse k && bit l.dirty k)
    let s1 := drained.foldl (fun s k => corePut s (arrayKey s.ck (o + 4096 * k)) (accBytes l k)) s
    let clean := drained.foldl (fun d k => putFld d k 1 0) l.dirty
    let l1 := { l with dirty := clean, frozen := true }
    let mask := cl.loom.slots.foldl (fun m w => if w.2.held == 1 && w.2.slot == slot then m + 2 ^ w.1 else m) 0
    let recs := l.queue.flatMap (fun q => cmdBytes q c.b)
    let block := leBytes 8 (lmstatOf l1 cl.loom.frozen) ++ leBytes 8 c.modes.scbase.toNat ++ leBytes 8 c.modes.scshift ++
      leBytes 8 mask ++ recs ++ leBytes (96 - recs.length) 0
    (l1, corePut s1 (arrayKey s.ck (o + 16384)) block)

/-- Save v0 to v23 and m0 to m15 into the stack region (R119, R133), or the address of a miss. -/
def saveWide (s : State) (slot : Nat) : Except Word State :=
  let c := s.core
  let vs := (List.range 24).flatMap (fun i => (List.range 8).map (fun j => wordOfNat ((c.v i).toNat >>> (64 * j))))
  let ms := (List.range 16).flatMap (fun i => (List.range 16).map (fun j => wordOfNat ((c.m i).toNat >>> (64 * j))))
  stackWrite s.ck c.space slot s 64 (vs ++ ms)

/-- Save the followers' vector registers into the gang save region (R134). -/
def saveFollowers (s : State) : State :=
  match s.core.gang.save with
  | none => s
  | some o =>
    let fs := s.members.drop 1
    let img := fs.flatMap (fun k => (List.range 24).flatMap (fun i => leBytes 64 ((s.coreAt k).v i).toNat))
    corePut s (arrayKey s.ck o) img

/-- Park the current task by pre-emption at a resume point (R108, R133, R229). -/
def parkPreempt (s : State) (resume : Word) : Park :=
  match s.core.running with
  | none => .done s
  | some slot =>
    match saveWindow s slot with
    | (.done s1, depth) =>
      match saveWide s1 slot with
      | .error a => .miss a
      | .ok s2 =>
        let s3 := saveFollowers s2
        let (l, s4) := saveLoom s3 slot
        let c := s4.core
        let t := s4.cluster.task slot
        let p : Parked :=
          { loom := l, queues := c.queues, followers := (s4.members.drop 1).map (fun k => (s4.coreAt k).queues),
            followMarks := (s4.members.drop 1).map (fun k => (s4.coreAt k).vmarks), holds := c.holds, vmarks := c.vmarks, gmarks := c.gmarks,
            mmarks := c.mmarks, fails := c.fails, saveRegion := t.saveRegion,
            gangSave := if c.gang.standing then c.gang.save else none, kill := c.trap.kill, scbase := c.modes.scbase, scshift := c.modes.scshift,
            usedTime := c.usedTime, nordTime := c.nordTime }
        let s5 := s4.putTask s4.ck slot
          { t with st := .parkedPre, pc := resume, depth := depth, gang := if c.gang.standing then c.gang.code else 0,
                   fpmode := c.modes.fpmode, covmode := c.modes.covmode, base := c.b, handlers := c.trap.depth,
                   pts := c.pts, started := true, priv := c.priv, parked := p, since := s.cycle, image := true, front := true }
        -- a standing gang's save region and the queues' regions stay: only the cores are freed (R133, R134, R345)
        let s6 : State := { s5 with core := { s5.core with
          gang := if c.gang.standing then { s5.core.gang with save := none } else s5.core.gang, queues := [] } }
        let s7 := (s6.members.drop 1).foldl (fun s k => s.putCore k { s.coreAt k with queues := [] }) s6
        .done (freeCore (orphanAsked s7 s7.cur slot t.launch) s7.cur)
    | (r, _) => r

/-- A yield point (R104): a cancelled task ends, a pending request parks it, else the budget is reloaded. -/
def yieldPoint (s : State) (resume : Word) (reload : Nat) : State :=
  if s.task.cancel then endRunning s .cancel
  else if s.core.preempt then
    match parkPreempt s resume with
    | .done s1 => s1
    | .miss a => killOwn s 0x311 8 a
    | .ue s1 => endRunning s1 (.poison 0x10)
  else { s with core := { s.core with pc := resume, wcnt := reload, waiting := false } }

/-- The bytes of a message (R243). -/
def msgBytes (m : Message) : List Byte :=
  leBytes 8 m.handler ++ leBytes 8 m.w0.toNat ++ leBytes 8 m.w1.toNat ++ leBytes 8 m.w2.toNat ++ leBytes 8 m.w3.toNat ++
    leBytes 8 m.sender.toNat ++ leBytes 8 m.time ++ leBytes 2 m.space ++ leBytes 2 m.cls ++ leBytes 4 m.tag

/-- The local address of an array offset (R24, R137). -/
def localAddr (off : Nat) : Word := wordOfNat (2 ^ 63 + off)

/-- The argument register j of a task at its first dispatch: a tile's word becomes its landing region (R24). -/
def argAt (t : Task) (j : Nat) (w : Word) : Word :=
  match t.tiles.find? (fun x => x.arg == j) with
  | some x => localAddr (x.region.getD 0)
  | none => w

/-- The state of a core at the first dispatch of a task (R24, R227); the trap registers stay the core's (R135). -/
def firstCore (s : State) (ck : Nat) (c : Core) (slot : Nat) (t : Task) : Core :=
  let x := (s.clusterAt ck).ctxAt t.space
  let regs := [(0, argAt t 0 t.a0), (1, argAt t 1 t.a1), (2, argAt t 2 t.a2), (3, argAt t 3 t.a3), (4, t.a4)]
  { regs := regs.foldl (fun m r => mset (fun _ => 0) m r.1 r.2) []
    pc := t.entry, priv := t.priv, running := some slot, space := c.space
    modes := { fpmode := x.tdef % 256, covmode := fld x.tdef 8 2 }
    trap := { c.trap with depth := 0, kill := 0 }
    wcnt := x.ylim, pts := max c.pts t.pts, dispatched := s.cycle, oldCode := c.oldCode, credit := c.credit
    loom := { acc := c.loom.acc, ue := c.loom.ue }, nordTime := c.nordTime, seen := c.seen }

/-- The state of a core at the resumption of a parked task (R42, R120, R133). The window floor equals the base. -/
def resumedCore (s : State) (ck : Nat) (c : Core) (slot : Nat) (t : Task) : Core :=
  let x := (s.clusterAt ck).ctxAt t.space
  let rec0 := parkKey s ck t.space slot + 64
  let ws := (List.range 32).map (fun i => wordOfNat (s.readN (rec0 + 8 * i) 8))
  let c1 : Core :=
    { b := t.base, f := t.base, pc := t.pc, priv := t.priv, running := some slot, space := c.space
      modes := { fpmode := t.fpmode, covmode := t.covmode }
      trap := { c.trap with depth := t.handlers, kill := t.parked.kill }
      wcnt := x.ylim, pts := max c.pts t.pts, dispatched := s.cycle, oldCode := c.oldCode, credit := c.credit
      share := t.parked.loom.weight, seen := c.seen
      usedTime := t.parked.usedTime, nordTime := max c.nordTime t.parked.nordTime
      loom := { acc := c.loom.acc, ue := c.loom.ue } }
  { c1.refill t.base ws with gmarks := t.parked.gmarks, mmarks := t.parked.mmarks, fails := t.parked.fails }

/-- Load v0 to v23 and m0 to m15 from the words of the stack region (R119). -/
def wideFrom (c : Core) (ws : List Word) : Core :=
  let word := fun (i : Nat) => (ws.getD i 0).toNat
  let c1 := (List.range 24).foldl (fun (c : Core) i =>
    c.setV i (BitVec.ofNat 512 ((List.range 8).foldl (fun n j => n + word (8 * i + j) * 2 ^ (64 * j)) 0))) c
  (List.range 16).foldl (fun (c : Core) i =>
    c.setM i (BitVec.ofNat 1024 ((List.range 16).foldl (fun n j => n + word (192 + 16 * i + j) * 2 ^ (64 * j)) 0))) c1

/-- Load an accumulator from its image (R231). -/
def accFrom (s : State) (ck off : Nat) (l : CoreLoom) (k : Nat) : CoreLoom :=
  { l with acc := (List.range 1024).foldl (fun a i =>
      mset (fun _ => 0) a (k * 1024 + i) (BitVec.ofNat 32 (s.readN (arrayKey ck (off + 4 * i)) 4))) l.acc }

/-- The binding of the scale cache that a command accepted now finds (R217, R231). -/
def CoreLoom.bindingNext (l : CoreLoom) : Option (Word × Nat) :=
  l.queue.foldl (fun b q =>
    let b1 := if q.fn == 5 then (if bit q.control 9 then some (q.scbase, q.scshift) else none) else b
    match l.rebinds.find? (fun r => r.1 == q.seq) with
    | some r => some r.2
    | none => b1) l.cache

/-- The scale cache is bound again, as if LMSCL had been accepted at the resumption: at once where the queue is empty, else
behind its last command, so that commands accepted before the park find what they found (R214, R217, R231, R233). -/
def CoreLoom.bindAgain (l : CoreLoom) (base : Word) (shift : Nat) : CoreLoom :=
  if l.bindingNext.isNone then l
  else match l.queue.getLast? with
    | none => { l with lines := [], cache := some (base, shift), rebinds := [] }
    | some q => { l with rebinds := l.rebinds.filter (fun r => r.1 != q.seq) ++ [(q.seq, base, shift)] }

/-- What the status block and the command records of a save region at offset o give a parked loom (R230, R231): flags,
weight, failures, and of each record the fields it holds. -/
def loadBlock (s : State) (ck o : Nat) (l : CoreLoom) : CoreLoom :=
  let key := arrayKey ck (o + 16384)
  let stat := s.readN key 8
  { l with
    inUse := fld stat 0 4, dirty := fld stat 4 4, zero := fld stat 8 4, frozen := false, weight := fld stat 28 4
    firstFail := fld stat 32 8, failed := fld stat 40 8
    queue := l.queue.zipIdx.map fun x =>
      let r := key + 32 + 12 * x.2
      { x.1 with region := wordOfNat (2 ^ 63 + s.readN r 4 % 262144), second := s.readN (r + 4) 4
                 control := s.readN (r + 8) 4 % 2048 } }

/-- Restore the loom of a task parked by pre-emption (R231): the status block and the command records, the accumulators
from their images or +0, the scale cache bound again. -/
def restoreLoom (s : State) (ck : Nat) (p : Parked) : CoreLoom :=
  match p.saveRegion with
  | none => { p.loom with acc := [], frozen := false }.bindAgain p.scbase p.scshift
  | some o =>
    let l := loadBlock s ck o { p.loom with acc := [] }
    let key := arrayKey ck (o + 16392)
    ((List.range 4).filter (fun k => bit l.inUse k && !bit l.zero k)).foldl (fun l k => accFrom s ck (o + 4096 * k) l k)
      (l.bindAgain (wordOfNat (s.readN key 8)) (s.readN (key + 8) 1 % 64))

end Sys2Proof.Machine
end

