-- ==== Sys2Proof/Machine/Operands.lean ====
section
/-! DEFINITION. Operand forms: registers each instruction names, immediates and displacements (R288), vector and queue
operands (R124), lanes (R123, R421), element addresses (R241). -/

namespace Sys2Proof.Machine

/-- The general registers an instruction reads (R295, R312). -/
def generalReads : Instr → List Nat
  | .add _ a b => [a.toNat, b.toNat]
  | .sub _ a b => [a.toNat, b.toNat]
  | .mul _ a b => [a.toNat, b.toNat]
  | .mulh _ a b => [a.toNat, b.toNat]
  | .div _ a b => [a.toNat, b.toNat]
  | .rem _ a b => [a.toNat, b.toNat]
  | .and _ a b => [a.toNat, b.toNat]
  | .or _ a b => [a.toNat, b.toNat]
  | .xor _ a b => [a.toNat, b.toNat]
  | .shl _ a b => [a.toNat, b.toNat]
  | .shr _ a b => [a.toNat, b.toNat]
  | .sha _ a b => [a.toNat, b.toNat]
  | .min _ a b => [a.toNat, b.toNat]
  | .max _ a b => [a.toNat, b.toNat]
  | .sel d a b c => [d.toNat, a.toNat, b.toNat, c.toNat]
  | .mov _ a => [a.toNat]
  | .clz _ a => [a.toNat]
  | .popc _ a => [a.toNat]
  | .bfx _ a b _ => [a.toNat, b.toNat]
  | .bfi d a b => [a.toNat, b.toNat, d.toNat]
  | .lea _ a b _ => [a.toNat, b.toNat]
  | .cmp d a b _ _ => [a.toNat, b.toNat, d.toNat]
  | .addi _ a _ => [a.toNat]
  | .andi _ a _ => [a.toNat]
  | .ori _ a _ => [a.toNat]
  | .br r _ _ _ => [r.toNat]
  | .jmpi a => [a.toNat]
  | .ret a => [a.toNat]
  | .halt a => [a.toNat]
  | .haltR d a => [a.toNat, d.toNat]
  | .spawn _ a _ => [a.toNat, a.toNat + 1, a.toNat + 2, a.toNat + 3]
  | .touch _ a _ => [a.toNat]
  | .resolve _ a b _ => [a.toNat, b.toNat]
  | .poison _ a b _ => [a.toNat, b.toNat]
  | .cancel _ a => [a.toNat]
  | .launch _ a => [a.toNat]
  | .depdec _ a => [a.toNat]
  | .bind _ a b _ => [a.toNat, b.toNat]
  | .hold _ a => [a.toNat]
  | .fspill _ a => [a.toNat]
  | .ffill _ a => [a.toNat]
  | .ld _ b _ _ => [b.toNat]
  | .st t b _ _ => [t.toNat, b.toNat]
  | .ldv _ b _ => [b.toNat]
  | .stv _ b _ => [b.toNat]
  | .ldm _ b _ => [b.toNat]
  | .stm _ b _ => [b.toNat]
  | .gath _ a _ _ => [a.toNat]
  | .scat _ a _ _ => [a.toNat]
  | .amo d a _ _ _ _ => [d.toNat, a.toNat]
  | .cas d a _ _ => [d.toNat, d.toNat + 1, a.toNat]
  | .permit _ a b => [a.toNat, b.toNat]
  | .cpy s r d => [s.toNat, r.toNat, d.toNat]
  | .cpyQ s r _ => [s.toNat, r.toNat]
  | .amsg _ a b => [a.toNat, b.toNat, b.toNat + 1, b.toNat + 2, b.toNat + 3, b.toNat + 4]
  | .amsgP _ a b => [a.toNat, b.toNat, b.toNat + 1, b.toNat + 2, b.toNat + 3, b.toNat + 4]
  | .rstv _ g _ _ => [g.toNat]
  | .rstvLaneRange _ g l _ _ => [g.toNat, l.toNat]
  | .vcmp d _ _ _ _ _ _ _ => [d.toNat]
  | .lmbind _ r g _ _ => [r.toNat, g.toNat]
  | .lmbindUnbind _ _ g _ _ => [g.toNat]
  | .lmrun _ r g _ => [r.toNat, g.toNat]
  | .lmmom _ r g => [r.toNat, g.toNat]
  | .lmzero _ _ g _ => [g.toNat]
  | .lmdrn _ r g _ _ => [r.toNat, g.toNat]
  | .lmdrnV _ _ g _ => [g.toNat]
  | .lmchk _ r g _ => [r.toNat, g.toNat]
  | .lmcb _ r _ _ => [r.toNat]
  | .lmwt _ _ g _ => [g.toNat]
  | .cktst _ _ b => [b.toNat]
  | .mts a _ => [a.toNat]
  | .trap a => [a.toNat]
  | .xinv a b v => if v = 0 then [] else if v = 1 then [a.toNat] else [a.toNat, b.toNat]
  | .cmoDrop a => [a.toNat]
  | .cmoPf a => [a.toNat]
  | _ => []

/-- The general registers an instruction writes. -/
def generalWrites : Instr → List Nat
  | .add d _ _ => [d.toNat]
  | .sub d _ _ => [d.toNat]
  | .mul d _ _ => [d.toNat]
  | .mulh d _ _ => [d.toNat]
  | .div d _ _ => [d.toNat]
  | .rem d _ _ => [d.toNat]
  | .and d _ _ => [d.toNat]
  | .or d _ _ => [d.toNat]
  | .xor d _ _ => [d.toNat]
  | .shl d _ _ => [d.toNat]
  | .shr d _ _ => [d.toNat]
  | .sha d _ _ => [d.toNat]
  | .min d _ _ => [d.toNat]
  | .max d _ _ => [d.toNat]
  | .sel d _ _ _ => [d.toNat]
  | .mov d _ => [d.toNat]
  | .clz d _ => [d.toNat]
  | .popc d _ => [d.toNat]
  | .bfx d _ _ _ => [d.toNat]
  | .bfi d _ _ => [d.toNat]
  | .lea d _ _ _ => [d.toNat]
  | .cmp d _ _ _ _ => [d.toNat]
  | .addi d _ _ => [d.toNat]
  | .andi d _ _ => [d.toNat]
  | .ori d _ _ => [d.toNat]
  | .movi d _ => [d.toNat]
  | .spawn f _ _ => [f.toNat]
  | .touch d _ _ => [d.toNat]
  | .resolve d _ _ _ => [d.toNat]
  | .poison d _ _ _ => [d.toNat]
  | .cancel d _ => [d.toNat]
  | .launch d _ => [d.toNat]
  | .depdec d _ => [d.toNat]
  | .reside d => [d.toNat]
  | .bind d _ _ _ => [d.toNat]
  | .fspill d _ => [d.toNat]
  | .ffill d _ => [d.toNat]
  | .ld t _ _ _ => [t.toNat]
  | .amo d _ _ _ _ _ => [d.toNat]
  | .cas d _ _ _ => [d.toNat]
  | .permit d _ _ => [d.toNat]
  | .cpy s _ _ => [s.toNat]
  | .cpyQ s _ _ => [s.toNat]
  | .amsg d _ _ => [d.toNat]
  | .amsgP d _ _ => [d.toNat]
  | .rstv s _ _ _ => [s.toNat]
  | .rstvLaneRange s _ _ _ _ => [s.toNat]
  | .vcmp d _ _ _ _ _ _ _ => [d.toNat]
  | .lmbind s _ _ _ _ => [s.toNat]
  | .lmbindUnbind s _ _ _ _ => [s.toNat]
  | .lmrun s _ _ _ => [s.toNat]
  | .lmmom s _ _ => [s.toNat]
  | .lmzero s _ _ _ => [s.toNat]
  | .lmdrn s _ _ _ _ => [s.toNat]
  | .lmdrnV s _ _ _ => [s.toNat]
  | .lmsclOn s _ _ _ => [s.toNat]
  | .lmsclOff s _ _ _ => [s.toNat]
  | .lmchk s _ _ _ => [s.toNat]
  | .lmcb s _ _ _ => [s.toNat]
  | .lmwt s _ _ _ => [s.toNat]
  | .lmfrzOn s _ _ _ => [s.toNat]
  | .lmfrzOff s _ _ _ => [s.toNat]
  | .mfs d _ => [d.toNat]
  | _ => []

/-- The vector or queue specifiers an instruction reads. -/
def vectorReads : Instr → List Nat
  | .stv t _ _ => [t.toNat]
  | .gath _ _ i _ => [i.toNat]
  | .scat s _ i _ => [s.toNat, i.toNat]
  | .rstv _ _ _ v => [v.toNat]
  | .rstvLaneRange _ _ _ _ v => [v.toNat]
  | .vadd _ a b _ => [a.toNat, b.toNat]
  | .vsub _ a b _ => [a.toNat, b.toNat]
  | .vmul _ a b _ => [a.toNat, b.toNat]
  | .vfma d a b _ => [a.toNat, b.toNat, d.toNat]
  | .vmin _ a b _ => [a.toNat, b.toNat]
  | .vmax _ a b _ => [a.toNat, b.toNat]
  | .vabs _ a _ => [a.toNat]
  | .vsel d a b _ => [a.toNat, b.toNat, d.toNat]
  | .vmov _ a _ => [a.toNat]
  | .vbit d a b _ => [a.toNat, b.toNat, d.toNat]
  | .vperm _ a b _ => [a.toNat, b.toNat]
  | .vtrn _ a _ => [a.toNat, a.toNat + 1, a.toNat + 2, a.toNat + 3, a.toNat + 4, a.toNat + 5, a.toNat + 6, a.toNat + 7]
  | .vbcast _ a _ => [a.toNat]
  | .vidx _ a _ => [a.toNat]
  | .vred _ a _ => [a.toNat]
  | .vdot d a b _ => [a.toNat, b.toNat, d.toNat]
  | .vcvt _ a _ _ => [a.toNat]
  | .vcmp _ a b _ _ _ _ _ => [a.toNat, b.toNat]
  | .vrcp _ a _ => [a.toNat]
  | .vrsq _ a _ => [a.toNat]
  | .vexp2 _ a _ => [a.toNat]
  | .vlog2 _ a _ => [a.toNat]
  | .vsin _ a _ => [a.toNat]
  | .vtanh _ a _ => [a.toNat]
  | .mscl _ _ b _ => [b.toNat]
  | .mset _ a b _ => [a.toNat, b.toNat]
  | .mcoll _ _ f k _ => if f.toNat < 2 then [] else [k.toNat]
  | .ckacc d a => [d.toNat, a.toNat]
  | .cktst x y _ => [x.toNat, y.toNat]
  | _ => []

/-- The vector or queue specifiers an instruction writes, or holds (R251). -/
def vectorWrites : Instr → List Nat
  | .hold d _ => [d.toNat]
  | .ldv t _ _ => [t.toNat]
  | .gath d _ _ _ => [d.toNat]
  | .vadd d _ _ _ => [d.toNat]
  | .vsub d _ _ _ => [d.toNat]
  | .vmul d _ _ _ => [d.toNat]
  | .vfma d _ _ _ => [d.toNat]
  | .vmin d _ _ _ => [d.toNat]
  | .vmax d _ _ _ => [d.toNat]
  | .vabs d _ _ => [d.toNat]
  | .vsel d _ _ _ => [d.toNat]
  | .vmov d _ _ => [d.toNat]
  | .vbit d _ _ _ => [d.toNat]
  | .vperm d _ _ _ => [d.toNat]
  | .vtrn d _ _ => [d.toNat, d.toNat + 1, d.toNat + 2, d.toNat + 3, d.toNat + 4, d.toNat + 5, d.toNat + 6, d.toNat + 7]
  | .vbcast d _ _ => [d.toNat]
  | .vidx d _ _ => [d.toNat]
  | .vred d _ _ => [d.toNat]
  | .vdot d _ _ _ => [d.toNat]
  | .vcvt d _ _ _ => [d.toNat]
  | .vrcp d _ _ => [d.toNat]
  | .vrsq d _ _ => [d.toNat]
  | .vexp2 d _ _ => [d.toNat]
  | .vlog2 d _ _ => [d.toNat]
  | .vsin d _ _ => [d.toNat]
  | .vtanh d _ _ => [d.toNat]
  | .mcoll d _ _ _ _ => [d.toNat]
  | .ckacc d _ => [d.toNat]
  | _ => []

/-- The moment registers an instruction reads. -/
def momentReads : Instr → List Nat
  | .stm t _ _ => [t.toNat]
  | .madd _ a b _ => [a.toNat, b.toNat]
  | .msub _ a b _ => [a.toNat, b.toNat]
  | .mmul _ a b _ => [a.toNat, b.toNat]
  | .mfma d a b _ => [a.toNat, b.toNat, d.toNat]
  | .mscl _ a _ _ => [a.toNat]
  | .msq _ a _ => [a.toNat]
  | .mrelu _ a _ => [a.toNat]
  | .mexp _ a _ => [a.toNat]
  | .msigm _ a _ => [a.toNat]
  | .mcoll _ a _ _ _ => [a.toNat]
  | _ => []

/-- The moment registers an instruction writes. -/
def momentWrites : Instr → List Nat
  | .ldm t _ _ => [t.toNat]
  | .madd d _ _ _ => [d.toNat]
  | .msub d _ _ _ => [d.toNat]
  | .mmul d _ _ _ => [d.toNat]
  | .mfma d _ _ _ => [d.toNat]
  | .mscl d _ _ _ => [d.toNat]
  | .msq d _ _ => [d.toNat]
  | .mrelu d _ _ => [d.toNat]
  | .mexp d _ _ => [d.toNat]
  | .msigm d _ _ => [d.toNat]
  | .mset d _ _ _ => [d.toNat]
  | _ => []

/-- The immediate of an FI, FM, FB or FS word of n bits with the unit's WIDE payloads before it (R288). -/
def State.imm (s : State) (v n : Nat) : Int :=
  sext (s.core.unit.wide * 2 ^ n + v) (n + 22 * s.core.unit.wides)

/-- A branch target: words from the address of the last word (R284, R288). -/
def State.target (s : State) (disp : Int) : Word := s.core.unit.here + wordOfInt (4 * disp)

/-- The address of an FM form: base plus offset times the scale (R288). -/
def State.addrFM (s : State) (b : BitVec 5) (o : BitVec 14) (scale : Nat) : Word :=
  s.x b + wordOfInt (s.imm o.toNat 14 * scale)

/-- Element width in bits of a vector type code (R421). -/
def laneBits : Nat → Nat
  | 0 | 1 | 11 | 12 | 15 => 8
  | 2 | 3 | 9 | 10 => 16
  | 4 | 5 | 8 => 32
  | 6 | 7 => 64
  | 13 => 4
  | _ => 8

/-- Lanes per register (R421). -/
def lanesOf (t : Nat) : Nat := 512 / laneBits t

/-- The lanes of a register, w bits each (R123). -/
def lanes (v : Vec) (w : Nat) : List Nat := (List.range (512 / w)).map (fun l => fld v.toNat (w * l) w)

/-- A register from its lanes, w bits each. -/
def ofLanes (w : Nat) (ls : List Nat) : Vec :=
  BitVec.ofNat 512 (ls.foldr (fun x n => x % 2 ^ w + n * 2 ^ w) 0)

/-- The queue offset of the unit's MODE hint (R124, R292). -/
def State.qoff (s : State) : Nat := fld s.core.unit.mode 9 4

/-- The rounding mode of the unit: the MODE hint's, else FPMODE's (R193, R292). -/
def State.rm (s : State) : Nat :=
  let m := fld s.core.unit.mode 0 3
  if m = 0 then fld s.core.modes.fpmode 0 3 else m - 1

/-- Whether a conversion overflow traps: the MODE hint's choice, else FPMODE's (R197, R292). -/
def State.ovf (s : State) : Bool :=
  match fld s.core.unit.mode 3 2 with
  | 1 => false
  | 2 => true
  | _ => bit s.core.modes.fpmode 3

/-- The covariance of the unit: 0 IND, 1 COR, 2 ANT (R203, R292). -/
def State.cov (s : State) : Nat :=
  let m := fld s.core.unit.mode 5 2
  if m = 0 then fld s.core.modes.covmode 0 2 else m - 1

/-- Whether a negative variance is taken as zero: the MODE hint's choice, else FPMODE's (R207, R292). -/
def State.clamps (s : State) : Bool :=
  match fld s.core.unit.mode 7 2 with
  | 1 => false
  | 2 => true
  | _ => bit s.core.modes.fpmode 4

/-- Whether an instruction rounds by the mode (R193, R202, R422). -/
def rounds : Instr → Bool
  | .vadd _ _ _ t | .vsub _ _ _ t | .vmul _ _ _ t | .vfma _ _ _ t | .vdot _ _ _ t => 8 ≤ t.toNat
  | .vred _ _ t => 8 ≤ t.toNat
  | .vcvt _ _ _ _ => true
  | .vrcp _ _ t | .vrsq _ _ t | .vexp2 _ _ t | .vlog2 _ _ t | .vsin _ _ t | .vtanh _ _ t => 9 ≤ t.toNat
  | .madd _ _ _ _ | .msub _ _ _ _ | .mmul _ _ _ _ | .mfma _ _ _ _ | .mscl _ _ _ _ | .mset _ _ _ _ => true
  | .msq _ _ _ | .mrelu _ _ _ | .mexp _ _ _ | .msigm _ _ _ => true
  | .mcoll _ _ _ _ _ => true
  | _ => false

/-- The vector or queue specifiers a unit reads: its sources, and v23 where it rounds stochastically (R194). -/
def State.vectorSources (s : State) (i : Instr) : List Nat :=
  if rounds i && s.rm == 4 then vectorReads i ++ [23] else vectorReads i

/-- TVAL of QUNDER (R125). -/
def qunderVal (q : Nat) (write : Bool) (n : Nat) : Word := wordOfNat (q + 8 * b2n write + 16 * n)

/-- The key of a slot of a queue's ring (R127). -/
def slotKey (ck region i : Nat) : Nat := arrayKey ck (region + 128 + 64 * (i % 16))

/-- The slot contents of a queue of a core; an unreserved ring holds no filled slot. -/
def State.slot (s : State) (k q i : Nat) : Vec :=
  match ((s.coreAt k).q q).region with
  | some r => BitVec.ofNat 512 (s.readN (slotKey (k / 8) r i) 64)
  | none => 0

/-- Reading of a vector operand on one core: the value, or the QUNDER TVAL (R124). -/
def State.readSpec (s : State) (k spec off : Nat) : Vec ⊕ Word :=
  if spec < 24 then .inl ((s.coreAt k).v spec)
  else
    let q := (s.coreAt k).q (spec - 24)
    if q.n ≤ off then .inr (qunderVal (spec - 24) false off)
    else .inl (s.slot k (spec - 24) (q.head + off))

/-- Reading of a vector operand over the members (R50): all values, or the member's number and the QUNDER TVAL. -/
def State.readMembers (s : State) (spec off : Nat) : List Nat → List Vec ⊕ (Nat × Word)
  | [] => .inl []
  | k :: ks =>
    match s.readSpec k spec off with
    | .inr v => .inr (k % 8, v)
    | .inl x =>
      match s.readMembers spec off ks with
      | .inr r => .inr r
      | .inl xs => .inl (x :: xs)

/-- A vector operand over the members of the current core (R50, R124). -/
def State.readV (s : State) (spec : BitVec 5) : List Vec ⊕ (Nat × Word) :=
  s.readMembers spec.toNat s.qoff s.members

/-- The ring of a queue is reserved when it is first named (R127); none where the pool is full. -/
def reserveQueue (s : State) (k q : Nat) : Option State :=
  let x := s.coreAt k
  match (x.q q).region with
  | some _ => some s
  | none =>
    let slot := match s.core.running with
      | some i => i
      | none => 4096
    match (s.clusterAt (k / 8)).reserve 1152 slot 1 with
    | none => none
    | some (o, c) => some ((s.putCluster (k / 8) c).putCore k (x.setQ q { x.q q with region := some o }))

/-- Reserve the rings of a queue specifier on all members. -/
def reserveMembers (s : State) (spec : Nat) (ks : List Nat) : Option State :=
  if spec < 24 then some s
  else ks.foldl (fun o k => o.bind (fun s => reserveQueue s k (spec - 24))) (some s)

/-- The first member whose queue a write at an offset would run over (R124). -/
def State.writeUnder (s : State) (spec off : Nat) (ks : List Nat) : Option (Nat × Word) :=
  if spec < 24 then none
  else (ks.find? (fun k => decide (16 ≤ ((s.coreAt k).q (spec - 24)).n + off))).map
    (fun k => (k % 8, qunderVal (spec - 24) true off))

/-- Write a vector destination on one core: a register, or the unpublished slot of R124, whose line takes the write's time by
the current core (R126, R165). -/
def State.writeSpec (s : State) (k spec off : Nat) (v : Vec) : State :=
  let x := s.coreAt k
  if spec < 24 then s.putCore k (x.setV spec v)
  else
    let q := x.q (spec - 24)
    match q.region with
    | none => s
    | some r =>
      let i := (q.head + q.n + off) % 16
      let s1 := corePut s (slotKey (k / 8) r i) (leBytes 64 v.toNat)
      s1.putCore k ((s1.coreAt k).setQ (spec - 24) { q with marks := mdel q.marks i })

/-- Write a vector destination over the members. -/
def writeMembers (spec off : Nat) : State → List Nat → List Vec → State
  | s, k :: ks, v :: vs => writeMembers spec off (s.writeSpec k spec off v) ks vs
  | s, _, _ => s

/-- Write a vector destination over the members of the current core, and go on; the ring of a destination queue is
reserved first, as a hold-wait (R127), and a full ring takes QUNDER (R124). -/
def State.retV (s : State) (spec : BitVec 5) (vs : List Vec) : State :=
  match s.writeUnder spec.toNat s.qoff s.members with
  | some (m, v) => trapMember s m 15 v
  | none =>
    match reserveMembers s spec.toNat s.members with
    | none => s.wait
    | some s1 => (writeMembers spec.toNat s.qoff s1 s.members vs).adv

/-- Instructions whose destination queue is tested before their lanes trap (R267): the QUNDER of the destination. -/
def State.destUnder (s : State) (spec : BitVec 5) : Option (Nat × Word) :=
  s.writeUnder spec.toNat s.qoff s.members

/-- All lanes of a vector operand over the members, the leader's first (R50). -/
def allLanes (vs : List Vec) (w : Nat) : List Nat := vs.flatMap (fun v => lanes v w)

/-- Registers from a list of all lanes, as many as there are members. -/
def splitLanes (w : Nat) (n : Nat) (ls : List Nat) : List Vec :=
  (List.range n).map (fun j => ofLanes w ((ls.drop (512 / w * j)).take (512 / w)))

/-- Element addresses of a gather or scatter (R241, R347): base, indices per member, element bytes. -/
def elementAddrs (base : Word) (idx : List Vec) (t : Nat) : List Word :=
  let w := laneBits t
  let e := if w = 64 then 8 else 16
  idx.flatMap (fun v => ((lanes v 32).take e).map (fun i => base + wordOfInt (sext i 32 * (w / 8 : Nat))))

end Sys2Proof.Machine
end

