-- ==== Sys2Proof/Machine/Flags.lean ====
section
/-! DEFINITION. Conditions, result bits and status words: CMP and VCMP conditions (R298), QSTAT and GSTAT (R131), the
status words of copies, messages and loom commands (R225, R236, R246), ladder counters (R55, R131). -/

namespace Sys2Proof.Machine

/-- A condition on two integer lanes of w bits; codes 2 to 5 signed, 6 to 9 unsigned (R298). -/
def condInt (c w x y : Nat) : Bool :=
  match c with
  | 0 => x == y
  | 1 => x != y
  | 2 => decide (sext x w < sext y w)
  | 3 => decide (sext x w ≤ sext y w)
  | 4 => decide (sext y w < sext x w)
  | 5 => decide (sext y w ≤ sext x w)
  | 6 => decide (x < y)
  | 7 => decide (x ≤ y)
  | 8 => decide (y < x)
  | _ => decide (y ≤ x)

/-- Write one bit of a word, the other 63 unchanged (R121). -/
def setBit (x : Word) (i : Nat) (v : Bool) : Word := wordOfNat (putFld x.toNat i 1 (b2n v))

/-- QSTAT of a core (R131). -/
def qstatOf (c : Core) : Nat :=
  (List.range 8).foldl (fun n i =>
    let q := c.q i
    n + (q.n + 32 * b2n q.region.isSome + 64 * b2n q.waits) * 2 ^ (8 * i)) 0

/-- GSTAT of a core (R131). -/
def gstatOf (g : Gang) : Nat :=
  g.code % 4 + 4 * b2n g.standing + 8 * (g.leader % 8) + 64 * (g.member % 8) + 512 * b2n g.memberTrap

/-- The status word of a copy, AMSG or RSTV: code, reason, bytes committed, and [63:60] (R236, R246). -/
def statusWord (code reason committed top : Nat) : Word :=
  wordOfNat (code + 256 * reason + 65536 * committed + top * 2 ^ 60)

/-- The status word of a loom command (R225). -/
def loomStatus (fn code reason steps : Nat) : Word :=
  wordOfNat (code + 256 * reason + 65536 * steps + fn * 2 ^ 60)

/-- TCTRA and TCTRB of a launch record (R131). -/
def tctrA (r : Ladder) : Word := wordOfNat (r.created * 2 ^ 32 + r.complete)
def tctrB (r : Ladder) : Word := wordOfNat (r.poisoned * 2 ^ 32 + r.cancelled)

/-- The launch summary (R55). -/
def launchSummary (r : Ladder) : Word :=
  wordOfNat ((r.complete % 2 ^ 32) * 2 ^ 32 + min r.poisoned 65535 * 65536 + r.firstError)

/-- A binding word from the fields of BIND (R132, R326). -/
def bindWord (cfg : Nat) (cls : Nat) (entry : Word) : Word :=
  wordOfNat (fld cfg 0 3 * 2 ^ 45 + cls * 2 ^ 43 + fld cfg 5 1 * 2 ^ 42 + fld cfg 6 3 * 2 ^ 39 + fld cfg 9 4 * 2 ^ 35 +
    entry.toNat / 32 % 2 ^ 35)

/-- Fields of a binding (R132). -/
def chbStatus (w : Word) : Nat := fld w.toNat 48 16
def chbPrio (w : Word) : Nat := fld w.toNat 45 3
def chbClass (w : Word) : Nat := fld w.toNat 43 2
def chbGate (w : Word) : Bool := bit w.toNat 42
def chbQueue (w : Word) : Nat := fld w.toNat 39 3
def chbCount (w : Word) : Nat := fld w.toNat 35 4 + 1
def chbEntry (w : Word) : Word := wordOfNat (w.toNat % 2 ^ 35 * 32)

end Sys2Proof.Machine
end

