-- ==== Sys2Proof/Machine/Early.lean ====
section
/-! DEFINITION. The conditions that come before every other, under a false guard too (R122, R267): ILLEGAL and PRIV,
with their TVAL (R266). -/

namespace Sys2Proof.Machine

/-- A BFI or BFX field specification that is not valid (R323). -/
def badField (v : Word) : Bool :=
  let w := fld v.toNat 8 7
  w == 0 || decide (64 < fld v.toNat 0 6 + w)

/-- ILLEGAL for an operand that is no future handle (R19, R338, R344, R400, R418). -/
def futureOnly (h : Word) : Option (Nat × Word) := if badForm h || hKind h != 1 then some (1, h) else none

/-- Whether a place word is well-formed (R245). -/
def badPlace (h : Word) : Bool :=
  let n := h.toNat
  fld n 62 2 != 0 || fld n 27 9 != 0 || fld n 0 24 != 0 || decide (3199 < hCluster h)

/-- Whether a handler value is one that a program may name (R245, R320). -/
def goodHandler (h : Word) : Bool :=
  let n := h.toNat
  (0x20 ≤ n && n ≤ 0x2F) || (0x100 ≤ n && n < 2 ^ 40 && n % 32 == 0)

/-- AMSG's ILLEGAL conditions (R320); that a work-ladder handle is one is the model's choice (log entry 30). -/
def amsgIllegal (s : State) (a b : BitVec 5) (place : Bool) : Option (Nat × Word) :=
  if 27 < b.toNat then some (1, wordOfNat b.toNat)
  else if !goodHandler (s.x b) then some (1, s.x b)
  else if place then (if badPlace (s.x a) then some (1, s.x a) else none)
  else if badForm (s.x a) || hKind (s.x a) == 2 then some (1, s.x a)
  else none

/-- The entry address of a SPAWN (R288, R413). -/
def spawnEntry (s : State) (d : BitVec 16) : Word := s.target (s.imm d.toNat 16)

/-- Whether unprivileged code may read a system register (R131). -/
def userReads (n : Nat) : Bool := !(n ≤ 3 || n == 0x10 || (0x14 ≤ n && n ≤ 0x18))

/-- Whether unprivileged code may write a system register (R131). -/
def userWrites (n : Nat) : Bool := 0x24 ≤ n && n ≤ 0x27

/-- Whether privileged code may not write a system register (R131, R136). -/
def readOnly (n : Nat) : Bool := n == 0x12 || (0x20 ≤ n && n ≤ 0x23) || (0x28 ≤ n && n ≤ 0x2A)

/-- Whether a written FTLIM breaks one of the conditions of R66. -/
def badFtlim (s : State) (v : Nat) : Bool :=
  let x := s.ctx
  let limit := v % 8192
  let base := fld v 16 12
  let resident := s.cluster.entries.any (fun e => e.2.space == s.core.space && e.2.resident)
  limit == 0 || 4096 < limit || 4096 < base + limit || (base != x.ftBase && resident) ||
    s.cluster.spad < x.parkb.toNat % 262144 + 320 * limit

/-- Whether a value written to a system register breaks a stated alignment, range or reserved field (R66, R73, R89,
R101, R131). -/
def badValue (s : State) (n : Nat) (w : Word) : Bool :=
  let v := w.toNat
  match n with
  | 0x03 => v % 2048 != 0
  | 0x10 => badFtlim s v
  | 0x11 => v % 65536 < 64
  | 0x15 | 0x16 => v % 4096 != 0
  | 0x17 => match formOf w with
    | .near off => off % 64 != 0 || s.cluster.spad < off + 320 * s.ctx.ftLimit
    | _ => true
  | 0x18 => v % 16384 != 0
  | 0x19 => 4 < v % 8 || fld v 5 3 != 0 || fld v 8 2 == 3 || 1024 ≤ v
  | 0x24 => 4 < v % 8 || 32 ≤ v
  | 0x25 => 2 < v
  | 0x27 => 64 ≤ v
  | _ => false

/-- The conditions of MTS in the order of R382. -/
def mtsEarly (s : State) (n : Nat) (v : Word) : Option (Nat × Word) :=
  if !s.core.priv && !userWrites n then some (2, wordOfNat n)
  else if readOnly n || badValue s n v then some (1, v)
  else none

/-- PRIV with the word (R296). -/
def privWord (s : State) : Option (Nat × Word) := if s.core.priv then none else some (2, s.wordVal)

/-- ERET's PRIV and ILLEGAL; the kill flag and the cancel bit end the task before the window is looked at (R118, R341). -/
def eretEarly (s : State) : Option (Nat × Word) :=
  match privWord s with
  | some t => some t
  | none => if s.core.trap.kill == 0 && !s.task.cancel && decide (s.core.b < 8) then some (1, s.wordVal) else none

/-- Whether a handle is that of the EMPTY completion future of a job whose home is the issuing cluster (R57, R61). -/
def jobsFuture (s : State) (h : Word) : Bool :=
  hKind h == 1 && hModule h == s.pod.module && hCk h == s.ck && hSub (ownerAt s s.ck s.core.space h) == 4

/-- ILLEGAL and PRIV beyond `accepted`: the operand values and modes that each entry names. -/
def earlyOperand (s : State) : Instr → Option (Nat × Word)
  | .bfi _ _ b => if badField (s.x b) then some (1, s.x b) else none
  | .bfx _ _ b _ => if badField (s.x b) then some (1, s.x b) else none
  | .ret a =>
    let k := (s.x a).toNat % 4
    if k == 0 || s.core.b < 8 * k then some (1, s.wordVal) else none
  | .haltR d _ =>
    let e := s.x d
    if e == 0 || e.toNat % 32 != 0 || 2 ^ 40 ≤ e.toNat then some (1, e) else none
  | .spawn _ _ d => if (spawnEntry s d).toNat % 32 != 0 then some (1, spawnEntry s d) else none
  | .touch _ a _ => futureOnly (s.x a)
  | .resolve _ a _ _ => futureOnly (s.x a)
  | .poison _ a _ _ => futureOnly (s.x a)
  | .depdec _ a => futureOnly (s.x a)
  | .fspill _ a => futureOnly (s.x a)
  | .ffill _ a => futureOnly (s.x a)
  | .cancel _ a =>
    let h := s.x a
    if badForm h || hKind h == 3 then some (1, h)
    else if hKind h == 2 && hSub h == 4 then privWord s
    else if jobsFuture s h then privWord s
    else none
  | .bind _ a b _ =>
    if 8192 ≤ (s.x b).toNat then some (1, s.x b)
    else if (s.x a).toNat % 32 != 0 || 2 ^ 40 ≤ (s.x a).toNat then some (1, s.x a)
    else none
  | .hold _ a => if 65536 ≤ (s.x a).toNat then some (1, s.x a) else none
  | .cpy r _ _ => if 16777216 < (s.x r).toNat then some (1, s.x r) else none
  | .cpyQ r _ _ => if 16777216 < (s.x r).toNat then some (1, s.x r) else none
  | .amsg _ a b => amsgIllegal s a b false
  | .amsgP _ a b => amsgIllegal s a b true
  | .rstv _ g _ _ => if badForm (s.x g) || hKind (s.x g) != 3 then some (1, s.x g) else none
  | .rstvLaneRange _ g l _ _ =>
    let r := (s.x l).toNat
    if bit r 7 || 32768 ≤ r || fld r 8 7 == 0 || 16 < fld r 8 7 then some (1, s.x l)
    else if badForm (s.x g) || hKind (s.x g) != 3 then some (1, s.x g)
    else none
  | .lmbindUnbind _ _ _ f _ => if f == 1 then privWord s else none
  | .lmdrn _ _ g _ _ => if bit (s.x g).toNat 27 then privWord s else none
  | .lmdrnV _ _ g _ => if bit (s.x g).toNat 27 then privWord s else none
  | .lmwt _ _ g _ => if bit (s.x g).toNat 27 then privWord s else none
  | .lmfrzOn _ _ _ _ => privWord s
  | .lmfrzOff _ _ _ _ => privWord s
  | .mfs _ n => if !s.core.priv && !userReads n.toNat then some (2, wordOfNat n.toNat) else none
  | .mts a n => mtsEarly s n.toNat (s.x a)
  | .eret => eretEarly s
  | .xinv a b v =>
    if v != 0 && 65536 ≤ (s.x a).toNat then some (1, s.x a)
    else if v == 2 && 2 ^ 56 ≤ (s.x b).toNat then some (1, s.x b)
    else privWord s
  | .unassignedInstructionWord w => some (1, wordOfNat w.toNat)
  | _ => none

/-- The ILLEGAL or PRIV trap of an instruction, if it takes one. -/
def early (i : Instr) (s : State) : Option (Nat × Word) :=
  if accepted i then earlyOperand s i else some (1, s.wordVal)

/-- Run a meaning's body unless the instruction takes ILLEGAL or PRIV. -/
def State.legal (s : State) (i : Instr) (body : State → State) : State :=
  match early i s with
  | some (c, v) => trap s c v
  | none => body s

end Sys2Proof.Machine
end

