-- ==== Sys2Proof/Machine/Control.lean ====
section
/-! DEFINITION. Control flow and the end of tasks: BR to YIELD, HALT (R47, R327, R328, R350, R353, R354, R406, R438). -/

namespace Sys2Proof.Machine

/-- BR: taken when X[r][i] XOR sense = 1 (R327). -/
def execBr (r : BitVec 5) (i : BitVec 6) (sense : BitVec 1) (d : BitVec 14) (s : State) : Out :=
  .next (if bit (s.x r).toNat i.toNat != (sense == 1) then s.goto (s.target (s.imm d.toNat 14)) else s.adv)

/-- JMP (R353). -/
def execJmp (d : BitVec 26) (s : State) : Out := .next (s.goto (s.target (sext d.toNat 26)))

/-- JMPI: a target that is not word-aligned takes ALIGN (R354). -/
def execJmpi (a : BitVec 5) (s : State) : Out :=
  .next (if (s.x a).toNat % 4 != 0 then trap s 3 (s.x a) else s.goto (s.x a))

/-- The link word of a CALL (R118). -/
def linkWord (s : State) (code : Nat) : Word := s.core.unit.here + 4 + wordOfNat code

/-- CALL: WSPILL where the advance passes f + 128, else link, base and target (R118, R328). -/
def execCall (k : BitVec 2) (d : BitVec 24) (s : State) : Out :=
  .next (s.legal (.call k d) fun s =>
    let n := 8 * k.toNat
    let c := s.core
    if c.f + 128 < c.b + n + 32 then windowTrap s 6 (spillWindowOut s)
    else
      let c1 := c.setLogical (c.b + n + 31) (linkWord s k.toNat)
      { s with core := { c1 with b := c.b + n, pc := s.target (sext d.toNat 24) } })

/-- RET: ILLEGAL for link code 0 or below the first frame, WFILL below the floor, else the base is lowered (R118,
R406). -/
def execRet (a : BitVec 5) (s : State) : Out :=
  .next (s.legal (.ret a) fun s =>
    let link := s.x a
    let n := 8 * (link.toNat % 4)
    let c := s.core
    if c.b - n < c.f then windowTrap s 7 (fillWindow s)
    else { s with core := { c with b := c.b - n, pc := wordOfNat (link.toNat / 4 * 4) } })

/-- The reload of WCNT by YIELD n (R104, R438). -/
def yieldReload (n ylim : Nat) : Nat := if 1 ≤ n ∧ n ≤ ylim then n else ylim

/-- YIELD: no effect in privileged mode, else a yield point (R104, R105, R438). -/
def execYield (n : BitVec 16) (s : State) : Out :=
  .next (if s.core.priv then s.adv
    else yieldPoint s (s.core.unit.here + 4) (yieldReload n.toNat s.ctx.ylim))

/-- Whether earlier use-annotated atomics of the current task are still pending (R182). -/
def usedPending (s : State) : Bool :=
  let mine := fun (p : Pending) => p.ck == s.ck && s.core.running == some p.slot
  s.pod.com.any mine || s.pod.qnt.any mine ||
    s.pod.farUsed.any (fun o => o.1.ck == s.ck && s.core.running == some o.1.slot && o.1.count == (s.cluster.entry o.1.slot).count)

/-- Whether engine jobs or loom commands of the current task are outstanding (R182, R350). -/
def jobsPending (s : State) : Bool :=
  !s.core.loom.queue.isEmpty ||
  (match s.core.running with
   | some slot => lateOf s s.ck slot || s.cluster.loom.freezing.any (fun w => w.slot == slot)
   | none => false) ||
  s.pod.jobs.any (fun j => j.ck == s.ck && j.core == s.cur % 8 && !j.discard && !j.dead)

/-- The core's part of a task's end by HALT: the core is freed, its share powers down or is kept (R47, R48, R350). -/
def leaveCore (s : State) (retain : Option Word) : State :=
  let ck := s.ck
  let c := s.cur % 8
  let s1 := freeCore s s.cur
  let h := (s1.clusterAt ck).heddle
  match retain with
  | some e => s1.putHeddle ck { h with retained := mput h.retained c e }
  | none => powerDown s1 ck c

/-- The end that HALT gives the task: an unhandled trap inside a handler, a pending engine or loom failure, or the
value (R226, R273, R350, R451). -/
def haltEnd (s : State) (v : Word) : TaskEnd :=
  let c := s.core
  if 0 < c.trap.depth then .poison (c.trap.cause.toNat % 256)
  else if (c.fails.head?).isSome then .poison (256 + (c.fails.map (·.2)).headD 0)
  else if c.loom.firstFail != 0 then .poison (256 + c.loom.firstFail)
  else .full v

/-- The homes of the output tiles of a task, none where one cannot be reached (R37, R38). -/
def outSegs (s : State) (ck space : Nat) : List Tile → Option (List Seg) × State
  | [] => (some [], s)
  | t :: ts =>
    match segments s ck space t.addr t.len true with
    | (.bad _ _, s1) => (none, s1)
    | (.ok g, s1) =>
      match outSegs s1 ck space ts with
      | (some gs, s2) => (some (g ++ gs), s2)
      | (none, s2) => (none, s2)

/-- What a task with a write-back to come lets go when it halts: its name, its queue and save regions and its private slots; its
tiles stay (R47, R127, R218, R404). -/
def letGoAtHalt (s : State) (slot : Nat) : State :=
  let c := s.cluster.releaseNames slot
  freeName (s.putCluster s.ck { c with
    regions := c.regions.filter (fun r => r.slot != slot || !(r.kind == 1 || r.kind == 2 || r.kind == 3))
    loom := { c.loom with slots := c.loom.slots.filter (fun w => !(w.2.held == 1 && w.2.slot == slot)) } }) (c.task slot).name

/-- What the output tiles of a task are written back from (R37). -/
def outRegions (ck : Nat) (t : Task) : List Seg :=
  (t.tiles.filter (fun x => x.kind != 1)).map (fun x => .mem (arrayKey ck (x.region.getD 0)) x.len 0)

/-- The time at which HALT leaves the task: no earlier than what it waited for (R170, R171, R351). -/
def State.haltTime (s : State) : Nat := max s.endTime s.core.usedTime

/-- HALT once its waits are over (R350): a cancelled task ends, output tiles go to write-back, else the task ends. -/
def haltTask (s : State) (v : Word) (retain : Option Word) : State :=
  match s.core.running with
  | none => s.adv
  | some slot =>
    let t := s.cluster.task slot
    let e := haltEnd s v
    let outs := t.tiles.any (fun x => x.kind != 1)
    let fullEnd := match e with
      | .full _ => true
      | _ => false
    if t.cancel then leaveCore (endTask s s.ck slot .cancel s.haltTime) none
    else if outs && fullEnd then
      let (r, s0) := outSegs s s.ck t.space (t.tiles.filter (fun x => x.kind != 1))
      let key := s0.issueKey s.ck 16 s.haltTime (outRegions s.ck t) (r.getD [])
      let s1 := letGoAtHalt { s0 with pod := { s0.pod with jobSeq := s0.pod.jobSeq + 1 } } slot
      leaveCore (s1.putTask s.ck slot
        { t with st := .ending, result := v, pts := s.haltTime, started := true, wsegs := r.getD [], wseq := s.pod.jobSeq,
                 wkey := key, wdom := s.ctx.ddom, name := 0, saveRegion := none, fail := if r.isSome then 0 else 0x205 }) retain
    else leaveCore (endTask s s.ck slot e s.haltTime) retain

/-- HALT waits for the task's jobs, then ends the task (R350). -/
def haltWith (v : Word) (retain : Option Word) (s : State) : State :=
  if jobsPending s || usedPending s then s.wait else haltTask s v retain

/-- HALT (R350). -/
def execHalt (a : BitVec 5) (s : State) : Out := .next (haltWith (s.x a) none s)

/-- HALT with retain names a successor entry (R48, R350). -/
def execHaltR (d a : BitVec 5) (s : State) : Out :=
  .next (s.legal (.haltR d a) fun s => haltWith (s.x a) (some (s.x d)) s)

/-- NOP (R397). -/
def execNop (s : State) : Out := .next s.adv

/-- TRAP raises cause 0x1F with X[a] in TVAL (R420). -/
def execTrap (a : BitVec 5) (s : State) : Out := .next (trap s 31 (s.x a))

/-- ERET (R341). -/
def execEret (s : State) : Out := .next (s.legal .eret trapReturn)

/-- A word that is no instruction takes ILLEGAL with the word in TVAL (R297). -/
def execUnassignedInstructionWord (w : IWord) (s : State) : Out := .next (trap s 1 (wordOfNat w.toNat))

end Sys2Proof.Machine
end

