-- ==== Sys2Proof/Machine/Futures.lean ====
section
/-! DEFINITION. Futures, tasks and groups: TOUCH to FFILL of MAJ 0x10, and SPAWN (R31 to R53, R76 to R90, R247, R251,
R326, R329, R338, R339, R344, R345, R352, R355, R400, R404, R413, R418, R419). -/

namespace Sys2Proof.Machine

/-- Whether a future is homed in another cluster (R85). -/
def isRemote (s : State) (h : Word) : Bool := hModule h != s.pod.module || hCk h != s.ck

/-- The sender word of the running task (R24, R243): its future handle, its group name, or its launch handle. -/
def senderWord (t : Task) : Word := if t.name != 0 then t.name else if t.visible then t.home else t.launch

/-- The launch tag of a message (R243). -/
def launchTag (h : Word) : Nat :=
  if hKind h == 2 then hCluster h + 4096 * hDie h + 65536 * hModule h + 67108864 * (hGen h % 64) else 0

/-- What waits for an answer into register d of the current task. -/
def State.waiter (s : State) (d : BitVec 5) : Waiter :=
  let slot := s.core.running.getD 4096
  { ck := s.ck, slot := slot, count := (s.cluster.entry slot).count, reg := s.core.b + d.toNat }

/-- A message of the running task (R243). -/
def State.message (s : State) (code : Nat) : Message :=
  { handler := code, sender := senderWord s.task, time := s.core.pts, space := s.core.space, cls := s.task.cls,
    tag := launchTag s.task.launch }

/-- A packet of the current task to a cluster of a module. -/
def State.packet (s : State) (code : Nat) (target : Word) : Packet :=
  { srcModule := s.pod.module, src := s.ck, dstModule := hModule target, dst := hCk target, target := target,
    msg := s.message code }

/-- A destination write that is to land later, asked for by the current unit (R313, R337, R373). -/
def State.addLate (s : State) (l : Late) : State :=
  { s with pod := { s.pod with late := s.pod.late ++ [{ l with base := s.core.unit.base }] } }

/-- Whether an access of the current task at another home is not yet acknowledged: a message waits for it (R168). -/
def unacked (s : State) : Bool :=
  match s.core.running with
  | none => false
  | some slot => s.pod.late.any (fun l => l.dst.ck == s.ck && l.dst.slot == slot && l.dst.core.isNone && !l.ready)

/-- Whether a message of the current task to the same target, in this cluster, is still on its way: the task's next operation
on that target comes behind it (R111, R254). -/
def behindOwn (s : State) (h : Word) : Bool :=
  s.pod.net.any fun q => q.srcModule == s.pod.module && q.src == s.ck && q.dst == s.ck && q.target == h &&
    q.msg.sender == senderWord s.task

/-- Perform an operation on a future: at this home, or as a message whose answer lands in register d (R85, R373). -/
def onFuture (s : State) (d : BitVec 5) (h : Word) (p : Packet) (here : State → Status × State) : State :=
  match checkHandle s h with
  | some (c, v) => trap s c v
  | none =>
    if unacked s || behindOwn s h then s.wait
    else if isRemote s h then
      let s1 := s.send { p with reply := s.waiter d }
      (s1.addLate { dst := s.waiter d, value := 0, ready := false }).adv
    else
      match here s with
      | (.now r, s1) => s1.ret d (wordOfNat r)
      | (.wait, _) => s.wait
      | (.later, s1) => (s1.addLate { dst := s.waiter d, value := 0, ready := false }).adv
      | (.priv, s1) => trap s1 2 s.wordVal

/-- RESOLVE and POISON (R80, R400): behind the wait for its earlier accesses, a cancelled issuer fills nothing. -/
def fillOp (d : BitVec 5) (h v : Word) (st : FState) (code : Nat) (keep : Bool) (s : State) : State :=
  if (checkHandle s h).isNone && !unacked s && !behindOwn s h && s.task.cancel then s.ret d 8
  else onFuture s d h { s.packet code h with form := b2n keep, msg := { s.message code with w0 := h, w1 := v } }
    (fun s => Status.of (fillAt s s.ck s.core.space h st v keep s.core.pts))

/-- RESOLVE (R400). -/
def execResolve (d a b : BitVec 5) (k : BitVec 1) (s : State) : Out :=
  .next (s.legal (.resolve d a b k) (fillOp d (s.x a) (s.x b) .full 9 (k == 1)))

/-- POISON (R79, R400). -/
def execPoison (d a b : BitVec 5) (k : BitVec 1) (s : State) : Out :=
  .next (s.legal (.poison d a b k) (fillOp d (s.x a) (wordOfNat ((s.x b).toNat % 65536)) .poisoned 10 (k == 1)))

/-- DEPDEC (R338). -/
def execDepdec (d a : BitVec 5) (s : State) : Out :=
  .next (s.legal (.depdec d a) fun s =>
    onFuture s d (s.x a) { s.packet 12 (s.x a) with msg := { s.message 12 with w0 := s.x a } }
      (fun s => Status.of (depdecAt s s.ck s.core.space (s.x a) s.core.pts)))

/-- FSPILL (R86, R344). -/
def execFspill (d a : BitVec 5) (s : State) : Out :=
  .next (s.legal (.fspill d a) fun s =>
    onFuture s d (s.x a) { s.packet 13 (s.x a) with msg := { s.message 13 with w0 := s.x a } }
      (fun s => Status.of (fspillAt s s.ck s.core.space (s.x a) s.core.pts)))

/-- FFILL (R86, R344). -/
def execFfill (d a : BitVec 5) (s : State) : Out :=
  .next (s.legal (.ffill d a) fun s =>
    onFuture s d (s.x a) { s.packet 14 (s.x a) with msg := { s.message 14 with w0 := s.x a } }
      (fun s => Status.of (ffillAt s s.ck s.core.space (s.x a) s.core.pts)))

/-- CANCEL of a future or of a work-ladder object (R57, R82, R329). -/
def execCancel (d a : BitVec 5) (s : State) : Out :=
  .next (s.legal (.cancel d a) fun s =>
    let h := s.x a
    let p := { s.packet 11 h with msg := { s.message 11 with w0 := h, w3 := wordOfNat (b2n s.core.priv) } }
    if hKind h == 2 && hModule h == s.pod.module then
      if unacked s then s.wait
      else
        let (r, s1) := cancelLadder s h s.core.pts
        s1.ret d (wordOfNat r)
    else onFuture s d h p (fun s => cancelAt s s.ck s.core.space { p with reply := s.waiter d } s.core.priv s.core.pts))

/-- Whether a parking TOUCH must still wait for the task's outstanding work on its core (R41 step 1). -/
def parkWaits (s : State) : Bool :=
  !s.core.loom.queue.isEmpty ||
  s.pod.jobs.any (fun j => j.ck == s.ck && s.core.running == some j.slot && !j.discard && !j.dead &&
    (j.queue.isSome || j.kind == .gather))

/-- Join the waiter list of a resident entry (R41 step 5). -/
def joinWaiters (s : State) (ck slot w : Nat) : State :=
  let e := (s.clusterAt ck).entry slot
  s.putEntry ck slot { e with waiters := if e.waiters.contains w then e.waiters else e.waiters ++ [w] }

/-- Join the refill queue of a slot (R77). -/
def joinRefill (s : State) (ck slot w : Nat) : State :=
  let e := (s.clusterAt ck).entry slot
  s.putEntry ck slot { e with refill := e.refill ++ [w] }

/-- Park the current task at its TOUCH, then let it join a list (R41). -/
def parkAt (s : State) (h : Word) (join : State → Nat → State) : State :=
  match s.core.running with
  | none => s.wait
  | some slot =>
    if parkWaits s then s.wait
    else
      match parkTouch s h s.core.unit.base with
      | .done s1 => join s1 slot
      | .miss a => killOwn s 0x311 8 a
      | .ue s1 => endRunning s1 (.poison 0x10)

/-- Deliver a TOUCH's word, or POISONED under `.p` where it is no FULL value (R78, R418). -/
def deliver (s : State) (d : BitVec 5) (h w : Word) (v : BitVec 5) (isFull : Bool) (done : State → State) : State :=
  if v == 2 && !isFull then trap s 13 h else (done s).ret d w

/-- The home's word that a woken TOUCH.p finds no FULL value is of no more use (R418). -/
def clearPoison (s : State) : State :=
  if s.task.parked.poisonAt then
    match s.core.running with
    | some slot => s.putTask s.ck slot { s.task with parked := { s.task.parked with poisonAt := false } }
    | none => s
  else s

/-- TOUCH of a future homed in this cluster (R76 to R78, R418, R419). -/
def touchHere (d : BitVec 5) (h : Word) (v : BitVec 5) (s0 : State) : State :=
  let s := clearPoison s0
  let ck := s.ck
  let self := s.core.running
  let own := s.task.visible && s.task.home == h
  match lookup s ck s.core.space h s.core.pts with
  | (.wait, _) => s.wait
  | (.fatal, s1) => s1.wait
  | (.stale, s1) => deliver s1 d h staleWord v false fun s => match self with
    | some w => leaveList s ck w
    | none => s
  | (.resident slot, s1) =>
    let e := (s1.clusterAt ck).entry slot
    if e.st == .empty then
      if own then deliver s1 d h 0x8000000000000302 v false id
      else if s.core.priv then deliver s1 d h 0x8000000000000304 v false id
      else parkAt s1 h (fun s w => joinWaiters s ck slot w)
    else
      deliver s1 d h (touchWord e.st e.value) v (e.st == .full) fun s =>
        let s2 : State := { s with core := { s.core with pts := max s.core.pts e.fillTime } }
        consume s2 ck slot self (v != 1)
  | (.inPlace slot k, s1) =>
    let b := s1.readN (k.key + 32) 1
    if b % 8 == 1 then
      if s.core.priv then deliver s1 d h 0x8000000000000304 v false id
      else parkAt s1 h (fun s w => joinRefill s ck slot w)
    else
      deliver s1 d h (touchWord (.ofCode (b % 8)) (wordOfNat (s1.readN (k.key + 8) 8))) v (b % 8 == 2) fun s =>
        let s2 : State := { s with core := { s.core with pts := max s.core.pts s.cluster.heddle.spillTime } }
        if v == 1 || bit b 3 then s2 else clearRec s2 ck s.core.space k

/-- Ask other homes one request after another and wait for the answers (R168, R419): the answers in order, or none
while the unit waits. -/
def askAll (s : State) (reqs : List Packet) : Option (List Nat) × State :=
  let n := s.core.answers.length
  match reqs.drop n with
  | [] => (some (s.core.answers.take reqs.length), { s with core := { s.core with answers := [], asked := 0 } })
  | p :: _ =>
    if n < s.core.asked then (none, s.wait)
    else
      let w : Waiter := { s.waiter 0 with core := some s.cur }
      let s1 := s.send { p with reply := w }
      (none, ({ s1 with core := { s1.core with asked := n + 1 } } : State).wait)

/-- TOUCH of a future homed elsewhere (R85, R418, R419): unprivileged code parks at once, privileged code waits for the
home's answer, which carries the word and, in bit 64, whether it is a FULL value. -/
def touchThere (d : BitVec 5) (h : Word) (v : BitVec 5) (s : State) : State :=
  let own := s.task.visible && s.task.home == h
  let m : Message := { s.message 8 with w0 := h, w1 := s.core.unit.here + 4, w3 := wordOfNat (b2n own) }
  let p : Packet := { s.packet 8 h with form := v.toNat, msg := m, reply := s.waiter d }
  if s.core.priv then
    if s.core.asked == 0 && unacked s then s.wait
    else
      match askAll s [{ p with form := v.toNat + 8 }] with
      | (some (a :: _), s1) => deliver s1 d h (wordOfNat a) v (bit a 64) id
      | (_, s1) => s1
  else if s.task.parked.poisonAt then trap (clearPoison s) 13 h
  else if unacked s then s.wait
  else parkAt s h (fun s _ => s.send p)

/-- TOUCH (R418, R419). -/
def execTouch (d a v : BitVec 5) (s : State) : Out :=
  .next (s.legal (.touch d a v) fun s =>
    let h := s.x a
    match checkHandle s h with
    | some (c, w) => trap s c w
    | none => if isRemote s h then touchThere d h v s else touchHere d h v s)

/-- The allocation of an operation that carries time m: the spill area is read no earlier (R69, R170). -/
def allocateAt (s : State) (ck space m : Nat) : Alloc × State :=
  allocate (if ((s.clusterAt ck).ctxAt space).spilled then s.heddleAt ck m else s) ck space

/-- Allocate an entry for the current core's instruction: go on with it, wait for a spill write, or FTFULL (R71, R72). -/
def withEntry (s : State) (body : State → Nat → Nat → State) : State :=
  match allocateAt s s.ck s.core.space s.core.pts with
  | (.got slot gen, s1) => body s1 slot gen
  | (.spillFirst slot, s1) =>
    if s1.cluster.heddle.spilling.isSome then s1.wait else (s1.startSpill s1.ck slot).wait
  | (.later, s1) => s1.wait
  | (.full v, s1) => trap s1 8 (wordOfNat v)
  | (.fatal, s1) => s1.wait

/-- Allocate a second entry for an instruction that has been given a first one: nothing of either is done where the
second has to wait or takes FTFULL (R69, R71). -/
def withSecondEntry (s : State) (slot gen : Nat) (body : State → Nat → Nat → State) : State :=
  match allocateAt (s.newEntry s.ck s.core.space slot gen 0 0 0 true) s.ck s.core.space s.core.pts with
  | (.got i g, s1) => body s1 i g
  | (.spillFirst i, _) =>
    if s.cluster.heddle.spilling.isSome then s.wait else (s.startSpill s.ck i).wait
  | (.later, _) => s.wait
  | (.full v, _) => trap s 8 (wordOfNat v)
  | (.fatal, s1) => s1.wait

/-- The parent link of what a task creates (R31). -/
def parentLink (t : Task) : Word := if t.visible then t.home else t.launch

/-- Whether a ladder record can be made anew: its object has ended, or its job was killed and another one holds the SPACE
(R275; log entry 20). -/
def reusable (s : State) (r : Ladder) : Bool :=
  if r.killed then s.ladders.any (fun x => x.2.kind == .job && x.2.space == r.space && !x.2.ended) else r.ended && !r.sweeping

/-- A record of a die's ladder table for a new object (R54), other than a given one: one that is free or can be made anew
(which one is log entry 20). -/
def freeLadderBut (s : State) (die : Nat) (but : Option Nat) : Option Nat :=
  pickPlace s.cycle ((List.range 4096).filter fun i =>
    let r := mget (fun _ => ({} : Ladder)) (s.dieAt die).ladder i
    some i != but && (r.kind == .free || reusable s r))

/-- A record for a new object. -/
def freeLadder (s : State) (die : Nat) : Option Nat := freeLadderBut s die none

/-- Make a ladder record on a die, counted by the object above it: its handle with the record's next generation, which is 1
in a record that was never used (R18, R55; log entry 51). -/
def makeLadder (s : State) (die i : Nat) (r : Ladder) (sub : Nat) : Word × State :=
  let d := s.dieAt die
  let gen := ((mget (fun _ => ({} : Ladder)) d.ladder i).gen + 1) % 16777216
  (ladderHandle s.pod.module die i sub gen,
    countObject (s.putDie die { d with ladder := mput d.ladder i { r with gen := gen } }) r.above)

/-- The job of a SPACE: its handle and its record (R56). -/
def jobOf (s : State) (space : Nat) : Option (Word × Ladder) :=
  s.ladders.find? (fun x => x.2.kind == .job && x.2.space == space && !x.2.ended)

/-- The graph of a tag within a SPACE's job, one that was cancelled included (R57, R309). -/
def graphOf (s : State) (space tag : Nat) : Option Word :=
  let job := ((jobOf s space).map (·.1)).getD 0
  (s.ladders.find? (fun x => x.2.kind == .graph && x.2.space == space && x.2.tag == tag && x.2.job == job &&
    (!x.2.ended || x.2.wasCancelled))).map (·.1)

/-- The graph of a tag, made with a completion future if it does not exist yet (R54, R309), in another record than `i`. -/
def graphFor (s : State) (die i space tag : Nat) (phase job fut : Word) : Word × State :=
  match graphOf s space tag with
  | some h => (h, s)
  | none =>
    match freeLadderBut s die (some i) with
    | none => (phase, s)
    | some j =>
      let (h, s1) := makeLadder s die j { kind := .graph, space := space, tag := tag, future := fut, parent := phase, job := job } 2
      let c := s1.clusterAt (hCk fut)
      let e := c.entry (hSlot fut)
      (h, if fut == 0 then s1 else
        s1.putEntry (hCk fut) (hSlot fut) { e with owner := h, parent := if phase == 0 then job else phase })

/-- The header of the launch spill area (R89). -/
def lspillHeader (s : State) (ck space : Nat) : Option Spot × State :=
  match heddleSpot s ck space ((s.clusterAt ck).ctxAt space).lspill 64 true with
  | (some p, s1) => (some p, heddleRead s1 ck space p)
  | r => r

/-- The address of slot i of the launch spill area (R89). -/
def lspillVa (s : State) (ck space i : Nat) : Word := wordOfNat (((s.clusterAt ck).ctxAt space).lspill + 64 + 128 * i)

/-- The two halves of slot i of the launch spill area, which may lie on different pages (R89). -/
def lspillSlot (s : State) (ck space i : Nat) : Option (Spot × Spot) × State :=
  let va := (lspillVa s ck space i).toNat
  match heddleSpot s ck space va 64 true with
  | (none, s1) => (none, s1)
  | (some a, s1) =>
    match heddleSpot s1 ck space (va + 64) 64 true with
    | (none, s2) => (none, s2)
    | (some b, s2) => (some (a, b), s2)

/-- Append a launch record to the launch spill area (R89): slots of 128 bytes behind the header. -/
def appendSpilled (s : State) (hp : Spot) (slot : Spot × Spot) (q : QLaunch) : State :=
  let cap := s.readN hp.key 4
  let tail := s.readN (hp.key + 8) 4
  let bs := q.words.flatMap (fun w => leBytes 8 w.toNat)
  let put := fun (s : State) (p : Spot) (bs : List Byte) => heddleWrite s q.ck q.space p bs
  let s1 := put (put s slot.1 (bs.take 64)) slot.2 (bs.drop 64)
  let s2 := put s1 { hp with key := hp.key + 8 } (leBytes 4 (if tail + 1 = cap then 0 else tail + 1) ++
    leBytes 4 (s1.readN (hp.key + 12) 4 + 1))
  let die := q.ck / 4096
  let d := s2.dieAt die
  s2.putDie die { d with spilled := d.spilled ++ [{ q with order := s.cycle }] }

/-- The cores of the block other than the leader that are not yet the gang's (R345). -/
def gangMissing (s : State) (size : Nat) : List Nat :=
  ((blockOf (s.cur % 8) size).drop 1).filter (fun c => (s.coreAt (s.ck * 8 + c)).gang.follows != some (s.cur % 8))

/-- Take a free core of the block, or ask a core of the leader's class or lower for its yield point (R49, R345); one that
serves another context is waited for (R452). -/
def takeMember (s : State) (c : Nat) : State :=
  let k := s.ck * 8 + c
  let y := s.coreAt k
  let ask := fun (k : Nat) => s.putCore k { s.coreAt k with preempt := true }
  if y.space != s.core.space then s
  else
  match y.running, y.gang.follows with
  | none, none =>
    let h := s.cluster.heddle
    (s.putHeddle s.ck { h with freeOrder := h.freeOrder.filter (· != c) }).putCore k
      { y with gang := { follows := some (s.cur % 8) }, vregs := [], queues := [], vmarks := [], holds := [] }
  | some slot, _ => if s.task.cls ≤ (s.cluster.task slot).cls then ask k else s
  | none, some l =>
    let lk := s.ck * 8 + l
    match (s.coreAt lk).running with
    | some slot => if l != s.cur % 8 && s.task.cls ≤ (s.cluster.task slot).cls then ask lk else s
    | none => s

/-- GANG (R49, R345): traps inside a gang or for size code 0, else waits until every core of the block is taken. -/
def execGang (c : BitVec 2) (s : State) : Out :=
  .next (
    if s.core.gang.standing || c == 0 then trap s 19 s.wordVal
    else
      let size := gangSize c.toNat
      let reserved := match s.core.gang.save with
        | some _ => some s
        | none =>
          match s.cluster.reserve (1536 * (size - 1)) (s.core.running.getD 4096) 3 with
          | some (o, cl) =>
            let s1 := s.putCluster s.ck cl
            some { s1 with core := { s1.core with gang := { s1.core.gang with save := some o } } }
          | none => none
      match reserved with
      | none => s.wait
      | some s1 =>
        let s2 := (gangMissing s1 size).foldl takeMember s1
        if (gangMissing s2 size).isEmpty then
          State.adv { s2 with core := { s2.core with
            gang := { code := c.toNat, standing := true, leader := s2.cur % 8, save := s2.core.gang.save } } }
        else State.wait { s2 with core := { s2.core with gang := { s2.core.gang with forming := size } } })

/-- DISBAND (R339): waits for jobs that are to land in the followers' registers and queues. -/
def execDisband (s : State) : Out :=
  .next (
    if !s.core.gang.standing then trap s 19 s.wordVal
    else if s.pod.jobs.any (fun j => j.ck == s.ck && j.core == s.cur % 8 && !j.dead && 1 < j.members) then s.wait
    else (disband s s.cur).adv)

/-- RESIDE gives the task a group name and moves it to the job's standing launch (R53, R404). -/
def execReside (d : BitVec 5) (s : State) : Out :=
  .next (
    match s.core.running with
    | none => s.ret d 0
    | some slot =>
      let t := s.task
      if t.name != 0 then s.ret d t.name
      else
        let cl := s.cluster
        let g := s.cur % 8
        let r := mget (fun _ => {}) cl.names g
        if r.slot.isSome || r.moved then s.ret d 0
        else
          let code := if s.core.gang.standing then s.core.gang.code else 0
          let name := groupName s.pod.module s.ck g code r.gen
          let stand := standingLaunch s s.core.space
          let s1 := s.putCluster s.ck { cl with names := mput cl.names g { r with slot := some slot, code := code } }
          let s2 := countCreated (countEnded s1 t.launch false false 0 s.core.pts) stand s.ck
          (s2.putTask s.ck slot { t with name := name, launch := stand }).ret d name)

/-- Set a binding (R132, R326, R383): a fresh one reserves the message queue first, an unbinding bounces the queued
messages; none where the pool has no room. What an unbind leaves of a gated activation that waits is log entry 35. -/
def setBinding (s : State) (ck space n : Nat) (w : Word) : Option State :=
  let c := s.clusterAt ck
  let x := c.ctxAt space
  let old := mget (fun _ => (0 : Word)) x.chb n
  let unbound := fun (w : Word) => w.toNat % 2 ^ 35 == 0
  if unbound w then
    let q := mget (fun _ => []) x.chans n
    let c1 := match (x.chanRegion.find? (fun r => r.1 == n)) with
      | some r => c.release r.2
      | none => c
    let s1 := s.putCluster ck (c1.putCtx space
      { x with chb := mput x.chb n w, chans := mdel x.chans n, chanRegion := mdel x.chanRegion n })
    some (q.foldl (fun s p => bounce s p 6) s1)
  else if unbound old then
    match c.reserve 8192 4096 4 with
    | none => none
    | some (o, c1) => some (s.putCluster ck (c1.putCtx space
        { x with chb := mput x.chb n w, chanRegion := mput x.chanRegion n o }))
  else some (s.putCluster ck (c.putCtx space { x with chb := mput x.chb n w }))

/-- BIND (R326). -/
def execBind (d a b : BitVec 5) (n : BitVec 4) (s : State) : Out :=
  .next (s.legal (.bind d a b n) fun s =>
    let cfg := (s.x b).toNat
    let cls := if s.core.priv then fld cfg 3 2 else max (fld cfg 3 2) s.task.cls
    let w := if s.x a = 0 then 0 else bindWord cfg cls (s.x a)
    let old := mget (fun _ => (0 : Word)) s.ctx.chb n.toNat
    match setBinding s s.ck s.core.space n.toNat w with
    | none => s.wait
    | some s1 => s1.ret d old)

/-- HOLD (R251, R352): waits while a hold on vd stands. -/
def execHold (d a : BitVec 5) (s : State) : Out :=
  .next (s.legal (.hold d a) fun s =>
    let h := mget (fun _ => {}) s.core.holds d.toNat
    if h.cnt != 0 then s.wait
    else
      State.adv { s with core := { s.core with
        holds := mput s.core.holds d.toNat { cnt := (s.x a).toNat - h.arrivals, arrivals := 0 } } })

end Sys2Proof.Machine
end

