-- ==== Sys2Proof/Machine/Ladder.lean ====
section
/-! DEFINITION. The ladder commands (R56) and the completion of graphs, phases and jobs (R54, R56). -/

namespace Sys2Proof.Machine

/-- Allocate an entry in a cluster at once, a victim's spill included: a place and generation, or why there is none (R69 to
R72). A fatal context error is in the state; any other failure changes nothing. -/
def allocateNow (s : State) (ck space : Nat) : Alloc × State :=
  match allocate s ck space with
  | (.spillFirst slot, s1) =>
    match spillNow s1 ck slot with
    | (.done, s2) =>
      match allocate s2 ck space with
      | (.got i gen, s3) => (.got i gen, s3)
      | (.fatal, s3) => (.fatal, s3)
      | _ => (.full 1, s)
    | (.fatal, s2) => (.fatal, s2)
    | (.noRecord, _) => (.full 1, s)
  | (.full v, _) => (.full v, s)
  | r => r

/-- An object is live: its record stands, it has not ended and was not cancelled. -/
def State.live? (s : State) (h : Word) : Bool :=
  match s.ladder? h with
  | some r => !r.ended && !r.wasCancelled
  | none => false

/-- The kept entries of a launch that ended are to be freed, and its counts are forgotten (R84, R113). -/
def closeLaunch (h : Word) (s : State) (ck : Nat) : State :=
  let x := (s.clusterAt ck).heddle
  s.putHeddle ck { x with kept := x.kept ++ [h], counts := mdel x.counts (launchTag h) }

/-- The clusters that hold entries, spilled ones among them, or counts of a launch (R84, R113). -/
def launchHolders (s : State) (h : Word) : List Nat :=
  (s.clusters.filter (fun c => c.2.entries.any (fun e => e.2.launch == h) || c.2.heddle.keptSpilled.any (fun x => x.2 == h) ||
    c.2.heddle.counts.any (fun x => x.1 == launchTag h))).map (·.1)

/-- A standing launch ends with its job: its kept entries are to be freed (R53, R65, R84). -/
def endStanding (s : State) (h : Word) (r : Ladder) : State :=
  (launchHolders s h).foldl (closeLaunch h) (endObject s h r)

/-- A job completes with exit status 0: its completion future is filled, its standing launch ends (R53, R54, R56). -/
def completeJob (s : State) (job : Word) : State :=
  match s.ladder? job with
  | none => s
  | some r =>
    if r.ended then s
    else
      let s1 := (s.ladders.filter (fun x => x.2.standing && x.2.job == job && !x.2.ended)).foldl
        (fun s x => endStanding s x.1 x.2) s
      let r1 := (s1.ladder? job).getD r
      fillCompletion (endObject s1 job r1) r.space r.future .full 0 r1.maxTime

/-- The pod-wide barrier of a phase passes: its completion future takes the phase number, and a last phase completes
its job (R54, R56). -/
def passPhase (s : State) (phase : Word) : State :=
  match s.ladder? phase with
  | none => s
  | some r =>
    if r.ended || !r.entered then s
    else
      let s1 := fillCompletion (endObject s phase { r with passed := true }) r.space r.future .full (wordOfNat r.tag) r.maxTime
      match s1.ladder? r.parent with
      | some j => if j.last && j.current == phase then completeJob s1 r.parent else s1
      | none => s1

/-- Two records of a die's ladder table for new objects. -/
def twoLadders (s : State) (die : Nat) : Option (Nat × Nat) :=
  match freeLadder s die with
  | none => none
  | some i => (freeLadderBut s die (some i)).map (fun j => (i, j))

/-- Create job (R56): LCRES's value. The reasons are tested in their order, an allocation last (log entry 15). The standing
launch has no completion future (log entry 55). -/
def createJob (s : State) (die : Nat) (lca lcb : Word) : Word × State :=
  let space := fld lca.toNat 0 16
  let ck := die * 4096 + fld lca.toNat 16 12
  if fld lca.toNat 28 36 != 0 || lcb != 0 then (1, s)
  else
    match twoLadders s die with
    | none => (2, s)
    | some (i, j) =>
      if s.ladders.any (fun x => x.2.kind == .job && x.2.space == space && !x.2.ended) then (3, s)
      else if !s.serves ck || !((s.clusterAt ck).ctxAt space).live then (4, s)
      else
        match allocateNow s ck space with
        | (.got slot gen, s1) =>
          let fut := futureHandle s1.pod.module ck slot gen
          let (h, s2) := makeLadder s1 die i { kind := .job, space := space, future := fut } 4
          let (_, s3) := makeLadder s2 die j
            { kind := .launch, space := space, standing := true, parent := h, job := h, placed := true } 1
          (h, s3.newEntry ck space slot gen 0 h 0 false)
        | (_, s1) => (5, s1)

/-- Open phase (R56): LCRES's value. -/
def openPhase (s : State) (lca lcb : Word) : Word × State :=
  let n := fld lcb.toNat 32 11
  if fld lcb.toNat 43 21 != 0 || n == 0 || 1024 < n then (1, s)
  else
    match freeLadder s (hDie lca) with
    | none => (2, s)
    | some i =>
      match s.ladder? lca with
      | none => (6, s)
      | some r =>
        if r.kind != .job || hSub lca != 4 then (6, s)
        else if r.last then (7, s)
        else if r.ended then (6, s)
        else
          let ck := hCk r.future
          match allocateNow s ck r.space with
          | (.got slot gen, s1) =>
            let fut := futureHandle s1.pod.module ck slot gen
            let s2 := enterPhase s1 r.current true
            let (h, s3) := makeLadder s2 (hDie lca) i
              { kind := .phase, space := r.space, future := fut, parent := lca, job := lca, tag := fld lcb.toNat 0 32,
                modules := n, prev := r.current } 3
            let s4 := match s3.ladder? lca with
              | some j => s3.putLadder lca { j with current := h }
              | none => s3
            (h, s4.newEntry ck r.space slot gen lca h 0 false)
          | (_, s1) => (5, s1)

/-- Close job (R56): LCRES's value. A job that never opened a phase completes at once (log entry 15). -/
def closeJob (s : State) (lca lcb : Word) : Word × State :=
  if lcb != 0 then (1, s)
  else
    match s.ladder? lca with
    | none => (6, s)
    | some r =>
      if r.kind != .job || hSub lca != 4 then (6, s)
      else if r.last then (7, s)
      else if r.ended then (6, s)
      else
        let s1 := s.putLadder lca { r with last := true }
        if r.current == 0 then (0, completeJob s1 lca)
        else
          let s2 := enterPhase s1 r.current true
          match s2.ladder? r.current with
          | some p => if p.ended then (0, completeJob s2 lca) else (0, s2)
          | none => (0, completeJob s2 lca)

/-- Whether a ladder command's allocation has to wait for an entry that is on its way out (R71, R72, R87): the write to LCMD
waits for it. -/
def ladderWaits (s : State) (die : Nat) (cmd : Nat) (lca lcb : Word) : Bool :=
  let later := fun (ck space : Nat) => match (allocate s ck space).1 with
    | .later => true
    | _ => false
  match cmd with
  | 1 => (createJob s die lca lcb).1 == 5 && later (die * 4096 + fld lca.toNat 16 12) (fld lca.toNat 0 16)
  | 2 => match s.ladder? lca with
    | some r => (openPhase s lca lcb).1 == 5 && later (hCk r.future) r.space
    | none => false
  | _ => false

/-- The write to LCMD performs the command; LCRES holds its result (R56). -/
def ladderCommand (s : State) (die : Nat) (cmd : Nat) (lca lcb : Word) : State :=
  let (r, s1) := match cmd with
    | 1 => createJob s die lca lcb
    | 2 => openPhase s lca lcb
    | 3 => closeJob s lca lcb
    | _ => ((1 : Word), s)
  let d := s1.dieAt die
  s1.putDie die { d with lcmd := wordOfNat cmd, lca := lca, lcb := lcb, lcres := r }

/-- LCMD_CREATE_JOB: the write of command 1 (R56). -/
def execLcmdCreateJob (die : Nat) (lca lcb : Word) (s : State) : Out :=
  .next (if ladderWaits s die 1 lca lcb then s else ladderCommand s die 1 lca lcb)

/-- LCMD_OPEN_PHASE: the write of command 2 (R56). -/
def execLcmdOpenPhase (die : Nat) (lca lcb : Word) (s : State) : Out :=
  .next (if ladderWaits s die 2 lca lcb then s else ladderCommand s die 2 lca lcb)

/-- LCMD_CLOSE_JOB: the write of command 3 (R56). -/
def execLcmdCloseJob (die : Nat) (lca lcb : Word) (s : State) : Out := .next (ladderCommand s die 3 lca lcb)

/-- PHASE_BARRIER_PASS: as many modules as LCB named have entered; what other modules did is the schedule's to say
(R56; log entry 2). -/
def execPhaseBarrierPass (die k : Nat) (s : State) : Out :=
  let r := mget (fun _ => ({} : Ladder)) (s.dieAt die).ladder k
  .next (if r.kind == .phase then passPhase s (ladderHandle s.pod.module die k 3 r.gen) else s)

end Sys2Proof.Machine
end

