-- ==== Sys2Proof/Machine/Device.lean ====
section
/-! DEFINITION. The device register window (R150): its blocks, the reads and writes of their registers, and the events
that are such a write (R139, R141, R159, R249, R258 to R262, R276, R278, R280, R282). -/

namespace Sys2Proof.Machine

/-- A register of the device window (R150), by block. -/
inductive Dev where
  | cluster (ck off : Nat)
  | die (d off : Nat)
  | io (i off : Nat)
  deriving DecidableEq, Repr

/-- The block and offset of an address of the device window (R150). -/
def devOf (pa : Nat) : Dev :=
  let a := pa - 0x10000000000
  let block := a / 0x10000000
  let off := a % 0x10000000
  if block < 16 then
    if off < 0xC800000 then .cluster (block * 4096 + off / 0x10000) (off % 0x10000) else .die block (off - 0xC800000)
  else .io (block - 16) off

/-- One of the four registers of an error bank (R276). -/
def ErrBank.reg (b : ErrBank) (i : Nat) : Nat :=
  match i with
  | 0 => b.stat
  | 1 => b.addr.toNat
  | 2 => b.synd.toNat
  | _ => b.time

/-- The offset of an error bank within a run of four registers, or none. -/
def bankIndex (base off : Nat) : Option Nat :=
  if base ≤ off ∧ off < base + 32 then some ((off - base) / 8) else none

/-- ASPLIT (R139). -/
def Cluster.asplitReg (c : Cluster) : Nat :=
  c.asplit + 256 * b2n c.asplitNext.isSome + 512 * b2n c.asplitRefused

/-- The L2 counters (R159). -/
def L2.counter (l : L2) (off : Nat) : Nat :=
  match off with
  | 0x100 => l.tags.length
  | 0x108 => l.entries.length
  | 0x110 => (l.tags.filter (fun t => match l.entry? t.entry with
      | some e => decide (2 ≤ e.count)
      | none => false)).length
  | 0x118 => l.shares
  | 0x120 => l.unshares
  | 0x128 => l.saturations
  | 0x130 => l.evictions
  | _ => l.writebacks

/-- A word of a chronograph filter (R262). -/
def Io.filterWord (x : Io) (port f w : Nat) : Word :=
  (mget (fun _ => []) (mget (fun _ => ({} : Chrono)) x.chrono port).filters f).getD w 0

/-- The value of a register; one with no behaviour of its own holds what was last written, and so do LCA and LCB with their
reserved bits (R4, R56, R150; the model's choice, log entry 16). -/
def devRead (s : State) (pa : Nat) : Nat :=
  let plain := (mget (fun _ => 0) s.io.plain pa).toNat
  match devOf pa with
  | .cluster ck off =>
    let c := s.clusterAt ck
    match bankIndex 0x100 off with
    | some i => c.bank.reg i
    | none =>
      match off with
      | 0 => c.asplitReg
      | 8 => c.poolBase + c.poolLen * 65536
      | 0x10 => c.hstate + 4 * c.volts
      | _ => plain
  | .die d off =>
    let x := s.dieAt d
    match bankIndex 0x400 off with
    | some i => x.bank.reg i
    | none =>
      if 0x100 ≤ off ∧ off ≤ 0x138 then x.l2.counter off
      else if 0x200 ≤ off ∧ off < 0x280 then (mget (fun _ => 0) x.xsp ((off - 0x200) / 8)).toNat
      else
        match off with
        | 0 => x.spdir
        | 0x300 => x.lcmd.toNat
        | 0x308 => x.lca.toNat
        | 0x310 => x.lcb.toNat
        | 0x318 => x.lcres.toNat
        | _ => plain
  | .io i off =>
    match bankIndex 0x40 off with
    | some j => (mget (fun _ => ({} : ErrBank)) s.io.banks i).reg j
    | none =>
      let base := 0x1000 + 0x1000 * i
      if base ≤ off ∧ off < base + 0x1000 then (s.io.filterWord i ((off - base) / 64) ((off - base) % 64 / 8)).toNat
      else
        match off with
        | 0x10 => (mget (fun _ => 0) s.io.hmsg i).toNat
        | 0x18 => (mget (fun _ => 0) s.io.hspace i).toNat
        | 0x20 => if i = 0 then s.io.boote.toNat else plain
        | _ => plain

/-- The scratchpad size of a split code (R139). -/
def splitSize (n : Nat) : Nat :=
  match n with
  | 0 => 65536
  | 1 => 131072
  | 2 => 196608
  | _ => 229376

/-- Whether everything placed in the scratchpad fits a size: park areas, `.region` areas, landing pool (R139). -/
def Cluster.fits (c : Cluster) (size : Nat) : Bool :=
  c.spaces.all (fun sp =>
    let x := c.ctxAt sp
    decide (x.parkb.toNat % 262144 + 320 * x.ftLimit ≤ size) && x.dataRegions.all (fun r => decide (r.1 + r.2 ≤ size))) &&
  decide ((c.poolBase + c.poolLen) * 1024 ≤ size)

/-- A write of ASPLIT (R139). -/
def writeAsplit (s : State) (ck : Nat) (v : Word) : State :=
  let c := s.clusterAt ck
  let n := v.toNat % 4
  if n = c.asplit then s
  else if c.fits (splitSize n) then s.putCluster ck { c with asplitNext := some n, asplitRefused := false }
  else s.putCluster ck { c with asplitRefused := true }

/-- A pending split takes effect when the cluster holds no task (R139): the L1 is emptied, banks that change role read
as zero, their lines take the array's memory timestamp (R164). -/
def applyAsplit (s : State) (ck : Nat) : State :=
  let c := s.clusterAt ck
  match c.asplitNext with
  | none => s
  | some n =>
    if c.tasks.any (fun t => t.2.st != .free) then s
    else
      let lo := min c.spad (splitSize n)
      let off := fun (k : Nat) => decide (arrayKey ck lo ≤ k) && decide (k < arrayKey ck 262144)
      let gone := c.times.filter (fun t => off (t.1 * 128))
      let m := gone.foldl (fun m t => max m (max t.2.1 t.2.2 + 1)) c.mts
      let c1 : Cluster := { c with asplit := n, asplitNext := none, l1 := [], mts := m,
                                   times := c.times.filter (fun t => !off (t.1 * 128)) }
      let s1 := s.putCluster ck c1
      { s1 with mem := s1.mem.filter (fun x => !off x.1), bad := s1.bad.filter (fun g => !off (8 * g)) }

/-- A write of LPOOL: ignored where the pool would lie outside the scratchpad or over a park area (R141). -/
def writeLpool (s : State) (ck : Nat) (v : Word) : State :=
  let c := s.clusterAt ck
  let base := fld v.toNat 0 9
  let len := fld v.toNat 16 9
  if c.spad < (base + len) * 1024 || c.inPark (base * 1024) (len * 1024) then s
  else s.putCluster ck { c with poolBase := base, poolLen := len }

/-- A write of EBSTAT clears the bank if it still holds the value written (R278). -/
def ErrBank.clear (b : ErrBank) (v : Word) : ErrBank := if b.stat = v.toNat then {} else b

/-- A write of an L2 counter: zero clears a counter of events, all else is ignored (R159). -/
def clearCounter (l : L2) (off : Nat) (v : Word) : L2 :=
  if v != 0 then l
  else
    match off with
    | 0x118 => { l with shares := 0 }
    | 0x120 => { l with unshares := 0 }
    | 0x128 => { l with saturations := 0 }
    | 0x130 => { l with evictions := 0 }
    | 0x138 => { l with writebacks := 0 }
    | _ => l

/-- Write a die's L2 counter (R159). -/
def writeCounter (s : State) (d off : Nat) (v : Word) : State :=
  let x := s.dieAt d
  s.putDie d { x with l2 := clearCounter x.l2 off v }

/-- The modulus of a filter's producer and consumer indices (R263). -/
def ringModulus (c : Nat) : Nat := c * (65536 / c)

/-- A write of the word at bytes 32 to 39 of a filter changes the consumer index only, taken modulo W (R262, R263). -/
def writeConsumer (s : State) (port f : Nat) (v : Word) : State :=
  let x := mget (fun _ => ({} : Chrono)) s.io.chrono port
  let ws := (List.range 5).map (s.io.filterWord port f)
  let w := ringModulus (fld (ws.getD 2 0).toNat 16 16)
  let ci := fld v.toNat 16 16 % w
  let ws1 := ws.set 4 (wordOfNat (putFld (ws.getD 4 0).toNat 16 16 ci))
  { s with io := { s.io with chrono := mput s.io.chrono port { x with filters := mput x.filters f ws1 } } }

/-- A write of another word of a filter (R262); bytes 40 to 63 are reserved. -/
def writeFilter (s : State) (port f w : Nat) (v : Word) : State :=
  if w = 4 then writeConsumer s port f v
  else if 4 < w then s
  else
    let x := mget (fun _ => ({} : Chrono)) s.io.chrono port
    let ws1 := ((List.range 5).map (s.io.filterWord port f)).set w v
    { s with io := { s.io with chrono := mput s.io.chrono port { x with filters := mput x.filters f ws1 } } }

/-- A store to BOOTE: channel 0 of context 0 on cluster 0 of die 0 is bound to the entry at class HIGH (R282). -/
def writeBoote (s : State) (v : Word) : State :=
  let s1 : State := { s with io := { s.io with boote := v } }
  match setBinding s1 0 0 0 (bindWord 0 1 v) with
  | some s2 => s2
  | none => s1

/-- A store to an MSI-X offset sends that vector (R258). -/
def sendVector (s : State) (i vec : Nat) (v : Word) : State :=
  { s with io := { s.io with msix := s.io.msix ++ [(i * 64 + vec, v)] } }

/-- A write of a register with no behaviour of its own (R150; log entry 16). -/
def writePlain (s : State) (pa : Nat) (v : Word) : State :=
  { s with io := { s.io with plain := mput s.io.plain pa v } }

/-- A write in a cluster's block. -/
def writeClusterReg (s : State) (ck off pa : Nat) (v : Word) : State :=
  match bankIndex 0x100 off with
  | some 0 => let c := s.clusterAt ck; s.putCluster ck { c with bank := c.bank.clear v }
  | some _ => s
  | none =>
    match off with
    | 0 => writeAsplit s ck v
    | 8 => writeLpool s ck v
    | 0x10 => s
    | _ => writePlain s pa v

/-- A write in a die's control block. -/
def writeDieReg (s : State) (d off pa : Nat) (v : Word) : State :=
  let x := s.dieAt d
  match bankIndex 0x400 off with
  | some 0 => s.putDie d { x with bank := x.bank.clear v }
  | some _ => s
  | none =>
    if 0x100 ≤ off ∧ off ≤ 0x138 then writeCounter s d off v
    else if 0x200 ≤ off ∧ off < 0x280 then
      s.putDie d { x with xsp := mput x.xsp ((off - 0x200) / 8) (wordOfNat (v.toNat % 2 ^ 35)) }
    else
      match off with
      | 0 => s.putDie d { x with spdir := fld v.toNat 20 20 * 2 ^ 20 }
      | 0x300 => ladderCommand s d (if fld v.toNat 4 60 = 0 then v.toNat else 0) x.lca x.lcb
      | 0x308 => s.putDie d { x with lca := v }
      | 0x310 => s.putDie d { x with lcb := v }
      | 0x318 => s
      | _ => writePlain s pa v

/-- A write in an I/O die's block. -/
def writeIoReg (s : State) (i off pa : Nat) (v : Word) : State :=
  match bankIndex 0x40 off with
  | some 0 =>
    let b := mget (fun _ => ({} : ErrBank)) s.io.banks i
    { s with io := { s.io with banks := mput s.io.banks i (b.clear v) } }
  | some _ => s
  | none =>
    let base := 0x1000 + 0x1000 * i
    if base ≤ off ∧ off < base + 0x1000 then writeFilter s i ((off - base) / 64) ((off - base) % 64 / 8) v
    else if 0x400 ≤ off ∧ off < 0x600 then sendVector s i ((off - 0x400) / 8) v
    else
      match off with
      | 0x10 => { s with io := { s.io with hmsg := mput s.io.hmsg i v } }
      | 0x18 => { s with io := { s.io with hspace := mput s.io.hspace i (wordOfNat (v.toNat % 65536)) } }
      | 0x20 => if i = 0 then writeBoote s v else writePlain s pa v
      | _ => writePlain s pa v

/-- An aligned 8-byte write to a device register (R150). -/
def devWrite (s : State) (pa : Nat) (v : Word) : State :=
  match devOf pa with
  | .cluster ck off => writeClusterReg s ck off pa v
  | .die d off => writeDieReg s d off pa v
  | .io i off => writeIoReg s i off pa v

/-- Whether a write to a device register waits: LCMD, for an almanac entry that is on its way out (R56, R71). -/
def regWaits (s : State) (v : Word) : Dev → Bool
  | .die d off => off == 0x300 && ladderWaits s d v.toNat (s.dieAt d).lca (s.dieAt d).lcb
  | _ => false

/-- The same for the register's address (R150). -/
def devWaits (s : State) (pa : Nat) (v : Word) : Bool := regWaits s v (devOf pa)

/-- ASPLIT_WRITE (R139). -/
def execAsplitWrite (ck : Nat) (v : Word) (s : State) : Out := .next (writeAsplit s ck v)

/-- ASPLIT_APPLY (R139). -/
def execAsplitApply (ck : Nat) (s : State) : Out := .next (applyAsplit s ck)

/-- LPOOL_WRITE (R141). -/
def execLpoolWrite (ck : Nat) (v : Word) (s : State) : Out := .next (writeLpool s ck v)

/-- EBSTAT_CLEAR (R278): banks are numbered by the key of their cluster, then 65536 + die, then 131072 + I/O die. -/
def execEbstatClear (bank : Nat) (v : Word) (s : State) : Out :=
  .next (
    if bank < 65536 then let c := s.clusterAt bank; s.putCluster bank { c with bank := c.bank.clear v }
    else if bank < 131072 then
      let x := s.dieAt (bank - 65536)
      s.putDie (bank - 65536) { x with bank := x.bank.clear v }
    else
      let b := mget (fun _ => ({} : ErrBank)) s.io.banks (bank - 131072)
      { s with io := { s.io with banks := mput s.io.banks (bank - 131072) (b.clear v) } })

/-- L2_COUNTER_CLEAR (R159). -/
def execL2CounterClear (die off : Nat) (v : Word) (s : State) : Out := .next (writeCounter s die off v)

/-- DEVICE_REGISTER_WRITE (R150). -/
def execDeviceRegisterWrite (pa : Nat) (v : Word) (s : State) : Out := .next (if devWaits s pa v then s else devWrite s pa v)

/-- MSIX_VECTOR_SEND (R258). -/
def execMsixVectorSend (io vec : Nat) (v : Word) (s : State) : Out := .next (sendVector s io vec v)

/-- BOOTE_WRITE (R282). -/
def execBooteWrite (v : Word) (s : State) : Out := .next (writeBoote s v)

/-- FILTER_CONSUMER_WRITE (R262). -/
def execFilterConsumerWrite (io f : Nat) (v : Word) (s : State) : Out := .next (writeConsumer s io f v)

end Sys2Proof.Machine
end

