-- ==== Sys2Proof/Decode.lean ====
section
/-! DEFINITION. The decoder of instruction words (R284, R287, R289 to R295, R297), total on every word and on
every list of bytes, and after it the encoder, written from the same table of the spec. -/

namespace Sys2Proof

/-- Why a word is no instruction (R297, R311). -/
inductive Reject where
  /-- MAJ is unassigned -/
  | unassignedMajor
  /-- fn, loom fn or hint kind is unassigned -/
  | unassignedFunction
  /-- a reserved field, or a field the instruction fixes, does not hold its value -/
  | reservedField
  /-- fewer than four bytes -/
  | truncated
  deriving DecidableEq, Repr

/-- What one word is: an instruction, a hint with its payload (R290 to R293), or neither. -/
inductive Decoded where
  | instr (i : Instr)
  | wide (payload : Nat)
  | grd (payload : Nat)
  | mode (payload : Nat)
  | sched (payload : Nat)
  | reject (r : Reject) (w : Nat)
  deriving DecidableEq, Repr

/-- The words of MAJ 0x01 (R294). -/
def decode01 (w : Nat) : Decoded :=
  match w % 64 with
  | 0 => if w / 64 % 32 = 0 then .instr (.add (BitVec.ofNat 5 (w / 2097152)) (BitVec.ofNat 5 (w / 65536)) (BitVec.ofNat 5 (w / 2048)))
    else .reject .reservedField w
  | 1 => if w / 64 % 32 = 0 then .instr (.sub (BitVec.ofNat 5 (w / 2097152)) (BitVec.ofNat 5 (w / 65536)) (BitVec.ofNat 5 (w / 2048)))
    else .reject .reservedField w
  | 2 => if w / 64 % 32 = 0 then .instr (.mul (BitVec.ofNat 5 (w / 2097152)) (BitVec.ofNat 5 (w / 65536)) (BitVec.ofNat 5 (w / 2048)))
    else .reject .reservedField w
  | 3 => if w / 64 % 32 = 0 then .instr (.mulh (BitVec.ofNat 5 (w / 2097152)) (BitVec.ofNat 5 (w / 65536)) (BitVec.ofNat 5 (w / 2048)))
    else .reject .reservedField w
  | 4 => if w / 64 % 32 = 0 then .instr (.div (BitVec.ofNat 5 (w / 2097152)) (BitVec.ofNat 5 (w / 65536)) (BitVec.ofNat 5 (w / 2048)))
    else .reject .reservedField w
  | 5 => if w / 64 % 32 = 0 then .instr (.rem (BitVec.ofNat 5 (w / 2097152)) (BitVec.ofNat 5 (w / 65536)) (BitVec.ofNat 5 (w / 2048)))
    else .reject .reservedField w
  | 6 => if w / 64 % 32 = 0 then .instr (.and (BitVec.ofNat 5 (w / 2097152)) (BitVec.ofNat 5 (w / 65536)) (BitVec.ofNat 5 (w / 2048)))
    else .reject .reservedField w
  | 7 => if w / 64 % 32 = 0 then .instr (.or (BitVec.ofNat 5 (w / 2097152)) (BitVec.ofNat 5 (w / 65536)) (BitVec.ofNat 5 (w / 2048)))
    else .reject .reservedField w
  | 8 => if w / 64 % 32 = 0 then .instr (.xor (BitVec.ofNat 5 (w / 2097152)) (BitVec.ofNat 5 (w / 65536)) (BitVec.ofNat 5 (w / 2048)))
    else .reject .reservedField w
  | 9 => if w / 64 % 32 = 0 then .instr (.shl (BitVec.ofNat 5 (w / 2097152)) (BitVec.ofNat 5 (w / 65536)) (BitVec.ofNat 5 (w / 2048)))
    else .reject .reservedField w
  | 10 => if w / 64 % 32 = 0 then .instr (.shr (BitVec.ofNat 5 (w / 2097152)) (BitVec.ofNat 5 (w / 65536)) (BitVec.ofNat 5 (w / 2048)))
    else .reject .reservedField w
  | 11 => if w / 64 % 32 = 0 then .instr (.sha (BitVec.ofNat 5 (w / 2097152)) (BitVec.ofNat 5 (w / 65536)) (BitVec.ofNat 5 (w / 2048)))
    else .reject .reservedField w
  | 12 => if w / 64 % 32 = 0 then .instr (.min (BitVec.ofNat 5 (w / 2097152)) (BitVec.ofNat 5 (w / 65536)) (BitVec.ofNat 5 (w / 2048)))
    else .reject .reservedField w
  | 13 => if w / 64 % 32 = 0 then .instr (.max (BitVec.ofNat 5 (w / 2097152)) (BitVec.ofNat 5 (w / 65536)) (BitVec.ofNat 5 (w / 2048)))
    else .reject .reservedField w
  | 14 => .instr (.sel (BitVec.ofNat 5 (w / 2097152)) (BitVec.ofNat 5 (w / 65536)) (BitVec.ofNat 5 (w / 2048)) (BitVec.ofNat 5 (w / 64)))
  | 15 => if w / 64 % 1024 = 0 then .instr (.mov (BitVec.ofNat 5 (w / 2097152)) (BitVec.ofNat 5 (w / 65536)))
    else .reject .reservedField w
  | 16 => if w / 64 % 1024 = 0 then .instr (.clz (BitVec.ofNat 5 (w / 2097152)) (BitVec.ofNat 5 (w / 65536)))
    else .reject .reservedField w
  | 17 => if w / 64 % 1024 = 0 then .instr (.popc (BitVec.ofNat 5 (w / 2097152)) (BitVec.ofNat 5 (w / 65536)))
    else .reject .reservedField w
  | 18 => if w / 128 % 16 = 0 then .instr (.bfx (BitVec.ofNat 5 (w / 2097152)) (BitVec.ofNat 5 (w / 65536)) (BitVec.ofNat 5 (w / 2048)) (BitVec.ofNat 1 (w / 64)))
    else .reject .reservedField w
  | 19 => if w / 64 % 32 = 0 then .instr (.bfi (BitVec.ofNat 5 (w / 2097152)) (BitVec.ofNat 5 (w / 65536)) (BitVec.ofNat 5 (w / 2048)))
    else .reject .reservedField w
  | 20 => .instr (.lea (BitVec.ofNat 5 (w / 2097152)) (BitVec.ofNat 5 (w / 65536)) (BitVec.ofNat 5 (w / 2048)) (BitVec.ofNat 5 (w / 64)))
  | _ => .reject .unassignedFunction w

/-- The words of MAJ 0x02 (R294). -/
def decode02 (w : Nat) : Decoded :=
  .instr (.cmp (BitVec.ofNat 5 (w / 2097152)) (BitVec.ofNat 5 (w / 65536)) (BitVec.ofNat 5 (w / 2048)) (BitVec.ofNat 5 (w / 64)) (BitVec.ofNat 6 w))

/-- The words of MAJ 0x03 (R294). -/
def decode03 (w : Nat) : Decoded :=
  .instr (.addi (BitVec.ofNat 5 (w / 2097152)) (BitVec.ofNat 5 (w / 65536)) (BitVec.ofNat 16 w))

/-- The words of MAJ 0x04 (R294). -/
def decode04 (w : Nat) : Decoded :=
  .instr (.andi (BitVec.ofNat 5 (w / 2097152)) (BitVec.ofNat 5 (w / 65536)) (BitVec.ofNat 16 w))

/-- The words of MAJ 0x05 (R294). -/
def decode05 (w : Nat) : Decoded :=
  .instr (.ori (BitVec.ofNat 5 (w / 2097152)) (BitVec.ofNat 5 (w / 65536)) (BitVec.ofNat 16 w))

/-- The words of MAJ 0x06 (R294). -/
def decode06 (w : Nat) : Decoded :=
  if w / 65536 % 32 = 0 then .instr (.movi (BitVec.ofNat 5 (w / 2097152)) (BitVec.ofNat 16 w))
  else .reject .reservedField w

/-- The words of MAJ 0x08 (R294). -/
def decode08 (w : Nat) : Decoded :=
  .instr (.br (BitVec.ofNat 5 (w / 2097152)) (BitVec.ofNat 6 (w / 32768)) (BitVec.ofNat 1 (w / 16384)) (BitVec.ofNat 14 w))

/-- The words of MAJ 0x09 (R294). -/
def decode09 (w : Nat) : Decoded :=
  .instr (.jmp (BitVec.ofNat 26 w))

/-- The words of MAJ 0x0A (R294). -/
def decode0A (w : Nat) : Decoded :=
  match w % 64 with
  | 0 => if w / 64 % 1024 = 0 ∧ w / 2097152 % 32 = 0 then .instr (.jmpi (BitVec.ofNat 5 (w / 65536)))
    else .reject .reservedField w
  | _ => .reject .unassignedFunction w

/-- The words of MAJ 0x0B (R294). -/
def decode0B (w : Nat) : Decoded :=
  .instr (.call (BitVec.ofNat 2 (w / 16777216)) (BitVec.ofNat 24 w))

/-- The words of MAJ 0x0C (R294). -/
def decode0C (w : Nat) : Decoded :=
  match w % 64 with
  | 0 => if w / 64 % 1024 = 0 ∧ w / 2097152 % 32 = 0 then .instr (.ret (BitVec.ofNat 5 (w / 65536)))
    else .reject .reservedField w
  | _ => .reject .unassignedFunction w

/-- The words of MAJ 0x0D (R294). -/
def decode0D (w : Nat) : Decoded :=
  if w / 65536 % 1024 = 0 then .instr (.yield (BitVec.ofNat 16 w))
  else .reject .reservedField w

/-- The words of MAJ 0x0E (R294). -/
def decode0E (w : Nat) : Decoded :=
  match w % 65536 with
  | 0 => if w / 2097152 % 32 = 0 then .instr (.halt (BitVec.ofNat 5 (w / 65536)))
    else .reject .reservedField w
  | 1 => .instr (.haltR (BitVec.ofNat 5 (w / 2097152)) (BitVec.ofNat 5 (w / 65536)))
  | _ => .reject .unassignedFunction w

/-- The words of MAJ 0x0F (R294). -/
def decode0F (w : Nat) : Decoded :=
  .instr (.spawn (BitVec.ofNat 5 (w / 2097152)) (BitVec.ofNat 5 (w / 65536)) (BitVec.ofNat 16 w))

/-- The words of MAJ 0x10 (R294). -/
def decode10 (w : Nat) : Decoded :=
  match w % 64 with
  | 0 => if w / 2048 % 32 = 0 then .instr (.touch (BitVec.ofNat 5 (w / 2097152)) (BitVec.ofNat 5 (w / 65536)) (BitVec.ofNat 5 (w / 64)))
    else .reject .reservedField w
  | 1 => if w / 128 % 16 = 0 then .instr (.resolve (BitVec.ofNat 5 (w / 2097152)) (BitVec.ofNat 5 (w / 65536)) (BitVec.ofNat 5 (w / 2048)) (BitVec.ofNat 1 (w / 64)))
    else .reject .reservedField w
  | 2 => if w / 128 % 16 = 0 then .instr (.poison (BitVec.ofNat 5 (w / 2097152)) (BitVec.ofNat 5 (w / 65536)) (BitVec.ofNat 5 (w / 2048)) (BitVec.ofNat 1 (w / 64)))
    else .reject .reservedField w
  | 3 => if w / 64 % 1024 = 0 then .instr (.cancel (BitVec.ofNat 5 (w / 2097152)) (BitVec.ofNat 5 (w / 65536)))
    else .reject .reservedField w
  | 4 => if w / 64 % 1024 = 0 then .instr (.launch (BitVec.ofNat 5 (w / 2097152)) (BitVec.ofNat 5 (w / 65536)))
    else .reject .reservedField w
  | 5 => if w / 256 % 262144 = 0 then .instr (.gang (BitVec.ofNat 2 (w / 64)))
    else .reject .reservedField w
  | 6 => if w / 64 % 1048576 = 0 then .instr (.disband)
    else .reject .reservedField w
  | 7 => if w / 64 % 1024 = 0 then .instr (.depdec (BitVec.ofNat 5 (w / 2097152)) (BitVec.ofNat 5 (w / 65536)))
    else .reject .reservedField w
  | 8 => if w / 64 % 32768 = 0 then .instr (.reside (BitVec.ofNat 5 (w / 2097152)))
    else .reject .reservedField w
  | 9 => if w / 1024 % 2 = 0 then .instr (.bind (BitVec.ofNat 5 (w / 2097152)) (BitVec.ofNat 5 (w / 65536)) (BitVec.ofNat 5 (w / 2048)) (BitVec.ofNat 4 (w / 64)))
    else .reject .reservedField w
  | 10 => if w / 64 % 1024 = 0 then .instr (.hold (BitVec.ofNat 5 (w / 2097152)) (BitVec.ofNat 5 (w / 65536)))
    else .reject .reservedField w
  | 11 => if w / 64 % 1024 = 0 then .instr (.fspill (BitVec.ofNat 5 (w / 2097152)) (BitVec.ofNat 5 (w / 65536)))
    else .reject .reservedField w
  | 12 => if w / 64 % 1024 = 0 then .instr (.ffill (BitVec.ofNat 5 (w / 2097152)) (BitVec.ofNat 5 (w / 65536)))
    else .reject .reservedField w
  | _ => .reject .unassignedFunction w

/-- The words of MAJ 0x18 (R294). -/
def decode18 (w : Nat) : Decoded :=
  .instr (.ld (BitVec.ofNat 5 (w / 2097152)) (BitVec.ofNat 5 (w / 65536)) (BitVec.ofNat 2 (w / 16384)) (BitVec.ofNat 14 w))

/-- The words of MAJ 0x19 (R294). -/
def decode19 (w : Nat) : Decoded :=
  .instr (.st (BitVec.ofNat 5 (w / 2097152)) (BitVec.ofNat 5 (w / 65536)) (BitVec.ofNat 2 (w / 16384)) (BitVec.ofNat 14 w))

/-- The words of MAJ 0x1A (R294). -/
def decode1A (w : Nat) : Decoded :=
  if w / 16384 % 4 = 0 then .instr (.ldv (BitVec.ofNat 5 (w / 2097152)) (BitVec.ofNat 5 (w / 65536)) (BitVec.ofNat 14 w))
  else .reject .reservedField w

/-- The words of MAJ 0x1B (R294). -/
def decode1B (w : Nat) : Decoded :=
  if w / 16384 % 4 = 0 then .instr (.stv (BitVec.ofNat 5 (w / 2097152)) (BitVec.ofNat 5 (w / 65536)) (BitVec.ofNat 14 w))
  else .reject .reservedField w

/-- The words of MAJ 0x1C (R294). -/
def decode1C (w : Nat) : Decoded :=
  if w / 16384 % 4 = 0 then .instr (.ldm (BitVec.ofNat 5 (w / 2097152)) (BitVec.ofNat 5 (w / 65536)) (BitVec.ofNat 14 w))
  else .reject .reservedField w

/-- The words of MAJ 0x1D (R294). -/
def decode1D (w : Nat) : Decoded :=
  if w / 16384 % 4 = 0 then .instr (.stm (BitVec.ofNat 5 (w / 2097152)) (BitVec.ofNat 5 (w / 65536)) (BitVec.ofNat 14 w))
  else .reject .reservedField w

/-- The words of MAJ 0x1E (R294). -/
def decode1E (w : Nat) : Decoded :=
  match w % 64 with
  | 0 => .instr (.gath (BitVec.ofNat 5 (w / 2097152)) (BitVec.ofNat 5 (w / 65536)) (BitVec.ofNat 5 (w / 2048)) (BitVec.ofNat 5 (w / 64)))
  | 1 => .instr (.scat (BitVec.ofNat 5 (w / 2097152)) (BitVec.ofNat 5 (w / 65536)) (BitVec.ofNat 5 (w / 2048)) (BitVec.ofNat 5 (w / 64)))
  | 2 => .instr (.amo (BitVec.ofNat 5 (w / 2097152)) (BitVec.ofNat 5 (w / 65536)) (BitVec.ofNat 2 (w / 16384)) (BitVec.ofNat 3 (w / 2048)) (BitVec.ofNat 1 (w / 1024)) (BitVec.ofNat 4 (w / 64)))
  | 3 => if w / 64 % 16 = 0 ∧ w / 16384 % 4 = 0 then .instr (.cas (BitVec.ofNat 5 (w / 2097152)) (BitVec.ofNat 5 (w / 65536)) (BitVec.ofNat 3 (w / 2048)) (BitVec.ofNat 1 (w / 1024)))
    else .reject .reservedField w
  | 4 => if w / 128 % 524288 = 0 then .instr (.fence (BitVec.ofNat 1 (w / 64)))
    else .reject .reservedField w
  | 5 => if w / 2048 % 1024 = 0 then .instr (.adv (BitVec.ofNat 5 (w / 2097152)) (BitVec.ofNat 1 (w / 1024)) (BitVec.ofNat 4 (w / 64)))
    else .reject .reservedField w
  | 6 => if w / 64 % 32 = 0 then .instr (.permit (BitVec.ofNat 5 (w / 2097152)) (BitVec.ofNat 5 (w / 65536)) (BitVec.ofNat 5 (w / 2048)))
    else .reject .reservedField w
  | _ => .reject .unassignedFunction w

/-- The words of MAJ 0x1F; the queue form ignores its field dst (R235, R294, R336). -/
def decode1F (w : Nat) : Decoded :=
  match w / 8 % 2 with
  | 0 => if w % 8 = 0 ∧ w / 16 % 128 = 0 then .instr (.cpy (BitVec.ofNat 5 (w / 2097152)) (BitVec.ofNat 5 (w / 65536)) (BitVec.ofNat 5 (w / 2048)))
    else .reject .reservedField w
  | _ => if w / 16 % 128 = 0 then .instr (.cpyQ (BitVec.ofNat 5 (w / 2097152)) (BitVec.ofNat 5 (w / 65536)) (BitVec.ofNat 3 w))
    else .reject .reservedField w

/-- The words of MAJ 0x20 (R294). -/
def decode20 (w : Nat) : Decoded :=
  match w % 2 with
  | 0 => if w / 2 % 1024 = 0 then .instr (.amsg (BitVec.ofNat 5 (w / 2097152)) (BitVec.ofNat 5 (w / 65536)) (BitVec.ofNat 5 (w / 2048)))
    else .reject .reservedField w
  | _ => if w / 2 % 1024 = 0 then .instr (.amsgP (BitVec.ofNat 5 (w / 2097152)) (BitVec.ofNat 5 (w / 65536)) (BitVec.ofNat 5 (w / 2048)))
    else .reject .reservedField w

/-- The words of MAJ 0x21; the whole form ignores its field lr (R294, R407). -/
def decode21 (w : Nat) : Decoded :=
  match w / 1024 % 2 with
  | 0 => .instr (.rstv (BitVec.ofNat 5 (w / 2097152)) (BitVec.ofNat 5 (w / 65536)) (BitVec.ofNat 5 (w / 32)) (BitVec.ofNat 5 w))
  | _ => .instr (.rstvLaneRange (BitVec.ofNat 5 (w / 2097152)) (BitVec.ofNat 5 (w / 65536)) (BitVec.ofNat 5 (w / 2048)) (BitVec.ofNat 5 (w / 32)) (BitVec.ofNat 5 w))

/-- The words of MAJ 0x22 (R294). -/
def decode22 (w : Nat) : Decoded :=
  match w % 64 with
  | 0 => .instr (.vadd (BitVec.ofNat 5 (w / 2097152)) (BitVec.ofNat 5 (w / 65536)) (BitVec.ofNat 5 (w / 2048)) (BitVec.ofNat 5 (w / 64)))
  | 1 => .instr (.vsub (BitVec.ofNat 5 (w / 2097152)) (BitVec.ofNat 5 (w / 65536)) (BitVec.ofNat 5 (w / 2048)) (BitVec.ofNat 5 (w / 64)))
  | 2 => .instr (.vmul (BitVec.ofNat 5 (w / 2097152)) (BitVec.ofNat 5 (w / 65536)) (BitVec.ofNat 5 (w / 2048)) (BitVec.ofNat 5 (w / 64)))
  | 3 => .instr (.vfma (BitVec.ofNat 5 (w / 2097152)) (BitVec.ofNat 5 (w / 65536)) (BitVec.ofNat 5 (w / 2048)) (BitVec.ofNat 5 (w / 64)))
  | 4 => .instr (.vmin (BitVec.ofNat 5 (w / 2097152)) (BitVec.ofNat 5 (w / 65536)) (BitVec.ofNat 5 (w / 2048)) (BitVec.ofNat 5 (w / 64)))
  | 5 => .instr (.vmax (BitVec.ofNat 5 (w / 2097152)) (BitVec.ofNat 5 (w / 65536)) (BitVec.ofNat 5 (w / 2048)) (BitVec.ofNat 5 (w / 64)))
  | 6 => if w / 2048 % 32 = 0 then .instr (.vabs (BitVec.ofNat 5 (w / 2097152)) (BitVec.ofNat 5 (w / 65536)) (BitVec.ofNat 5 (w / 64)))
    else .reject .reservedField w
  | 7 => .instr (.vsel (BitVec.ofNat 5 (w / 2097152)) (BitVec.ofNat 5 (w / 65536)) (BitVec.ofNat 5 (w / 2048)) (BitVec.ofNat 5 (w / 64)))
  | 8 => if w / 2048 % 32 = 0 then .instr (.vmov (BitVec.ofNat 5 (w / 2097152)) (BitVec.ofNat 5 (w / 65536)) (BitVec.ofNat 5 (w / 64)))
    else .reject .reservedField w
  | 9 => .instr (.vbit (BitVec.ofNat 5 (w / 2097152)) (BitVec.ofNat 5 (w / 65536)) (BitVec.ofNat 5 (w / 2048)) (BitVec.ofNat 5 (w / 64)))
  | 10 => .instr (.vperm (BitVec.ofNat 5 (w / 2097152)) (BitVec.ofNat 5 (w / 65536)) (BitVec.ofNat 5 (w / 2048)) (BitVec.ofNat 5 (w / 64)))
  | 11 => if w / 2048 % 32 = 0 then .instr (.vtrn (BitVec.ofNat 5 (w / 2097152)) (BitVec.ofNat 5 (w / 65536)) (BitVec.ofNat 5 (w / 64)))
    else .reject .reservedField w
  | 12 => if w / 2048 % 32 = 0 then .instr (.vbcast (BitVec.ofNat 5 (w / 2097152)) (BitVec.ofNat 5 (w / 65536)) (BitVec.ofNat 5 (w / 64)))
    else .reject .reservedField w
  | 13 => if w / 2048 % 32 = 0 then .instr (.vidx (BitVec.ofNat 5 (w / 2097152)) (BitVec.ofNat 5 (w / 65536)) (BitVec.ofNat 5 (w / 64)))
    else .reject .reservedField w
  | 14 => if w / 2048 % 32 = 0 then .instr (.vred (BitVec.ofNat 5 (w / 2097152)) (BitVec.ofNat 5 (w / 65536)) (BitVec.ofNat 5 (w / 64)))
    else .reject .reservedField w
  | 15 => .instr (.vdot (BitVec.ofNat 5 (w / 2097152)) (BitVec.ofNat 5 (w / 65536)) (BitVec.ofNat 5 (w / 2048)) (BitVec.ofNat 5 (w / 64)))
  | 16 => .instr (.vcvt (BitVec.ofNat 5 (w / 2097152)) (BitVec.ofNat 5 (w / 65536)) (BitVec.ofNat 5 (w / 2048)) (BitVec.ofNat 5 (w / 64)))
  | _ => .reject .unassignedFunction w

/-- The words of MAJ 0x23 (R294). -/
def decode23 (w : Nat) : Decoded :=
  .instr (.vcmp (BitVec.ofNat 5 (w / 2097152)) (BitVec.ofNat 5 (w / 65536)) (BitVec.ofNat 5 (w / 2048)) (BitVec.ofNat 1 (w / 1024)) (BitVec.ofNat 4 (w / 64)) (BitVec.ofNat 1 (w / 32)) (BitVec.ofNat 1 (w / 16)) (BitVec.ofNat 4 w))

/-- The words of MAJ 0x24 (R294). -/
def decode24 (w : Nat) : Decoded :=
  match w % 64 with
  | 0 => if w / 2048 % 32 = 0 then .instr (.vrcp (BitVec.ofNat 5 (w / 2097152)) (BitVec.ofNat 5 (w / 65536)) (BitVec.ofNat 5 (w / 64)))
    else .reject .reservedField w
  | 1 => if w / 2048 % 32 = 0 then .instr (.vrsq (BitVec.ofNat 5 (w / 2097152)) (BitVec.ofNat 5 (w / 65536)) (BitVec.ofNat 5 (w / 64)))
    else .reject .reservedField w
  | 2 => if w / 2048 % 32 = 0 then .instr (.vexp2 (BitVec.ofNat 5 (w / 2097152)) (BitVec.ofNat 5 (w / 65536)) (BitVec.ofNat 5 (w / 64)))
    else .reject .reservedField w
  | 3 => if w / 2048 % 32 = 0 then .instr (.vlog2 (BitVec.ofNat 5 (w / 2097152)) (BitVec.ofNat 5 (w / 65536)) (BitVec.ofNat 5 (w / 64)))
    else .reject .reservedField w
  | 4 => if w / 2048 % 32 = 0 then .instr (.vsin (BitVec.ofNat 5 (w / 2097152)) (BitVec.ofNat 5 (w / 65536)) (BitVec.ofNat 5 (w / 64)))
    else .reject .reservedField w
  | 5 => if w / 2048 % 32 = 0 then .instr (.vtanh (BitVec.ofNat 5 (w / 2097152)) (BitVec.ofNat 5 (w / 65536)) (BitVec.ofNat 5 (w / 64)))
    else .reject .reservedField w
  | _ => .reject .unassignedFunction w

/-- The words of MAJ 0x26 (R294). -/
def decode26 (w : Nat) : Decoded :=
  match w % 64 with
  | 0 => if w / 128 % 16 = 8 then .instr (.madd (BitVec.ofNat 5 (w / 2097152)) (BitVec.ofNat 5 (w / 65536)) (BitVec.ofNat 5 (w / 2048)) (BitVec.ofNat 1 (w / 64)))
    else .reject .reservedField w
  | 1 => if w / 128 % 16 = 8 then .instr (.msub (BitVec.ofNat 5 (w / 2097152)) (BitVec.ofNat 5 (w / 65536)) (BitVec.ofNat 5 (w / 2048)) (BitVec.ofNat 1 (w / 64)))
    else .reject .reservedField w
  | 2 => if w / 128 % 16 = 8 then .instr (.mmul (BitVec.ofNat 5 (w / 2097152)) (BitVec.ofNat 5 (w / 65536)) (BitVec.ofNat 5 (w / 2048)) (BitVec.ofNat 1 (w / 64)))
    else .reject .reservedField w
  | 3 => if w / 128 % 16 = 8 then .instr (.mfma (BitVec.ofNat 5 (w / 2097152)) (BitVec.ofNat 5 (w / 65536)) (BitVec.ofNat 5 (w / 2048)) (BitVec.ofNat 1 (w / 64)))
    else .reject .reservedField w
  | 4 => if w / 128 % 16 = 8 then .instr (.mscl (BitVec.ofNat 5 (w / 2097152)) (BitVec.ofNat 5 (w / 65536)) (BitVec.ofNat 5 (w / 2048)) (BitVec.ofNat 1 (w / 64)))
    else .reject .reservedField w
  | 5 => if w / 128 % 512 = 8 then .instr (.msq (BitVec.ofNat 5 (w / 2097152)) (BitVec.ofNat 5 (w / 65536)) (BitVec.ofNat 1 (w / 64)))
    else .reject .reservedField w
  | 6 => if w / 128 % 512 = 8 then .instr (.mrelu (BitVec.ofNat 5 (w / 2097152)) (BitVec.ofNat 5 (w / 65536)) (BitVec.ofNat 1 (w / 64)))
    else .reject .reservedField w
  | 7 => if w / 128 % 512 = 8 then .instr (.mexp (BitVec.ofNat 5 (w / 2097152)) (BitVec.ofNat 5 (w / 65536)) (BitVec.ofNat 1 (w / 64)))
    else .reject .reservedField w
  | 8 => if w / 128 % 512 = 8 then .instr (.msigm (BitVec.ofNat 5 (w / 2097152)) (BitVec.ofNat 5 (w / 65536)) (BitVec.ofNat 1 (w / 64)))
    else .reject .reservedField w
  | 9 => if w / 128 % 16 = 8 then .instr (.mset (BitVec.ofNat 5 (w / 2097152)) (BitVec.ofNat 5 (w / 65536)) (BitVec.ofNat 5 (w / 2048)) (BitVec.ofNat 1 (w / 64)))
    else .reject .reservedField w
  | 10 => if w / 128 % 16 = 8 then .instr (.mcoll (BitVec.ofNat 5 (w / 2097152)) (BitVec.ofNat 5 (w / 65536)) (BitVec.ofNat 2 (w / 16384)) (BitVec.ofNat 3 (w / 2048)) (BitVec.ofNat 1 (w / 64)))
    else .reject .reservedField w
  | _ => .reject .unassignedFunction w

/-- The words of MAJ 0x28 (R294). -/
def decode28 (w : Nat) : Decoded :=
  match w % 16 with
  | 0 => if w / 1024 % 2 = 0 then .instr (.lmbind (BitVec.ofNat 5 (w / 2097152)) (BitVec.ofNat 5 (w / 65536)) (BitVec.ofNat 5 (w / 2048)) (BitVec.ofNat 1 (w / 512)) (BitVec.ofNat 5 (w / 16)))
    else if w / 1024 % 2 = 1 then .instr (.lmbindUnbind (BitVec.ofNat 5 (w / 2097152)) (BitVec.ofNat 5 (w / 65536)) (BitVec.ofNat 5 (w / 2048)) (BitVec.ofNat 1 (w / 512)) (BitVec.ofNat 5 (w / 16)))
    else .reject .reservedField w
  | 1 => if w / 512 % 4 = 0 then .instr (.lmrun (BitVec.ofNat 5 (w / 2097152)) (BitVec.ofNat 5 (w / 65536)) (BitVec.ofNat 5 (w / 2048)) (BitVec.ofNat 5 (w / 16)))
    else .reject .reservedField w
  | 2 => if w / 16 % 128 = 17 then .instr (.lmmom (BitVec.ofNat 5 (w / 2097152)) (BitVec.ofNat 5 (w / 65536)) (BitVec.ofNat 5 (w / 2048)))
    else .reject .reservedField w
  | 3 => if w / 512 % 4 = 0 then .instr (.lmzero (BitVec.ofNat 5 (w / 2097152)) (BitVec.ofNat 5 (w / 65536)) (BitVec.ofNat 5 (w / 2048)) (BitVec.ofNat 5 (w / 16)))
    else .reject .reservedField w
  | 4 => if w / 512 % 2 = 0 then .instr (.lmdrn (BitVec.ofNat 5 (w / 2097152)) (BitVec.ofNat 5 (w / 65536)) (BitVec.ofNat 5 (w / 2048)) (BitVec.ofNat 1 (w / 1024)) (BitVec.ofNat 5 (w / 16)))
    else if w / 16 % 64 = 40 then .instr (.lmdrnV (BitVec.ofNat 5 (w / 2097152)) (BitVec.ofNat 5 (w / 65536)) (BitVec.ofNat 5 (w / 2048)) (BitVec.ofNat 1 (w / 1024)))
    else .reject .reservedField w
  | 5 => if w / 512 % 4 = 1 then .instr (.lmsclOn (BitVec.ofNat 5 (w / 2097152)) (BitVec.ofNat 5 (w / 65536)) (BitVec.ofNat 5 (w / 2048)) (BitVec.ofNat 5 (w / 16)))
    else if w / 512 % 4 = 0 then .instr (.lmsclOff (BitVec.ofNat 5 (w / 2097152)) (BitVec.ofNat 5 (w / 65536)) (BitVec.ofNat 5 (w / 2048)) (BitVec.ofNat 5 (w / 16)))
    else .reject .reservedField w
  | 6 => if w / 512 % 4 = 0 then .instr (.lmchk (BitVec.ofNat 5 (w / 2097152)) (BitVec.ofNat 5 (w / 65536)) (BitVec.ofNat 5 (w / 2048)) (BitVec.ofNat 5 (w / 16)))
    else .reject .reservedField w
  | 7 => if w / 512 % 4 = 0 then .instr (.lmcb (BitVec.ofNat 5 (w / 2097152)) (BitVec.ofNat 5 (w / 65536)) (BitVec.ofNat 5 (w / 2048)) (BitVec.ofNat 5 (w / 16)))
    else .reject .reservedField w
  | 8 => if w / 512 % 4 = 0 then .instr (.lmwt (BitVec.ofNat 5 (w / 2097152)) (BitVec.ofNat 5 (w / 65536)) (BitVec.ofNat 5 (w / 2048)) (BitVec.ofNat 5 (w / 16)))
    else .reject .reservedField w
  | 9 => if w / 512 % 4 = 1 then .instr (.lmfrzOn (BitVec.ofNat 5 (w / 2097152)) (BitVec.ofNat 5 (w / 65536)) (BitVec.ofNat 5 (w / 2048)) (BitVec.ofNat 5 (w / 16)))
    else if w / 512 % 4 = 0 then .instr (.lmfrzOff (BitVec.ofNat 5 (w / 2097152)) (BitVec.ofNat 5 (w / 65536)) (BitVec.ofNat 5 (w / 2048)) (BitVec.ofNat 5 (w / 16)))
    else .reject .reservedField w
  | _ => .reject .unassignedFunction w

/-- The words of MAJ 0x2A (R294). -/
def decode2A (w : Nat) : Decoded :=
  match w % 64 with
  | 0 => if w / 64 % 1024 = 0 then .instr (.ckacc (BitVec.ofNat 5 (w / 2097152)) (BitVec.ofNat 5 (w / 65536)))
    else .reject .reservedField w
  | 1 => if w / 64 % 32 = 0 then .instr (.cktst (BitVec.ofNat 5 (w / 2097152)) (BitVec.ofNat 5 (w / 65536)) (BitVec.ofNat 5 (w / 2048)))
    else .reject .reservedField w
  | _ => .reject .unassignedFunction w

/-- The words of MAJ 0x3C (R294). -/
def decode3C (w : Nat) : Decoded :=
  match w % 64 with
  | 0 => if w / 65536 % 32 = 0 then .instr (.mfs (BitVec.ofNat 5 (w / 2097152)) (BitVec.ofNat 10 (w / 64)))
    else .reject .reservedField w
  | 1 => if w / 2097152 % 32 = 0 then .instr (.mts (BitVec.ofNat 5 (w / 65536)) (BitVec.ofNat 10 (w / 64)))
    else .reject .reservedField w
  | 2 => if w / 64 % 1024 = 0 ∧ w / 2097152 % 32 = 0 then .instr (.trap (BitVec.ofNat 5 (w / 65536)))
    else .reject .reservedField w
  | 3 => if w / 64 % 1048576 = 0 then .instr (.eret)
    else .reject .reservedField w
  | 4 => if w / 2097152 % 32 = 0 then .instr (.xinv (BitVec.ofNat 5 (w / 65536)) (BitVec.ofNat 5 (w / 2048)) (BitVec.ofNat 5 (w / 64)))
    else .reject .reservedField w
  | 5 => if w / 64 % 1048576 = 0 then .instr (.cmoI)
    else if w / 64 % 1024 = 1 ∧ w / 2097152 % 32 = 0 then .instr (.cmoDrop (BitVec.ofNat 5 (w / 65536)))
    else if w / 64 % 1024 = 2 ∧ w / 2097152 % 32 = 0 then .instr (.cmoPf (BitVec.ofNat 5 (w / 65536)))
    else .reject .reservedField w
  | _ => .reject .unassignedFunction w

/-- The words of MAJ 0x3F: NOP and the four hints that modify the next instruction (R289 to R293). A hint's own
reserved bits are tested where the unit is formed. -/
def decode3F (w : Nat) : Decoded :=
  match w / 4194304 % 16 with
  | 0 => if w % 4194304 = 0 then .instr .nop else .reject .reservedField w
  | 1 => .wide (w % 4194304)
  | 2 => .grd (w % 4194304)
  | 3 => .mode (w % 4194304)
  | 4 => .sched (w % 4194304)
  | _ => .reject .unassignedFunction w

/-- Decode one 32-bit word, given as a number (R284, R294). -/
def decodeNat (w : Nat) : Decoded :=
  match w / 67108864 % 64 with
  | 1 => decode01 w
  | 2 => decode02 w
  | 3 => decode03 w
  | 4 => decode04 w
  | 5 => decode05 w
  | 6 => decode06 w
  | 8 => decode08 w
  | 9 => decode09 w
  | 10 => decode0A w
  | 11 => decode0B w
  | 12 => decode0C w
  | 13 => decode0D w
  | 14 => decode0E w
  | 15 => decode0F w
  | 16 => decode10 w
  | 24 => decode18 w
  | 25 => decode19 w
  | 26 => decode1A w
  | 27 => decode1B w
  | 28 => decode1C w
  | 29 => decode1D w
  | 30 => decode1E w
  | 31 => decode1F w
  | 32 => decode20 w
  | 33 => decode21 w
  | 34 => decode22 w
  | 35 => decode23 w
  | 36 => decode24 w
  | 38 => decode26 w
  | 40 => decode28 w
  | 42 => decode2A w
  | 60 => decode3C w
  | 63 => decode3F w
  | _ => .reject .unassignedMajor w

/-- Decode the word that the first four bytes hold, little-endian (R284), and give the bytes after it. -/
def decodeBytes : List Byte → Decoded × List Byte
  | b0 :: b1 :: b2 :: b3 :: rest =>
    (decodeNat (b0.toNat + 256 * b1.toNat + 65536 * b2.toNat + 16777216 * b3.toNat), rest)
  | bs => (.reject .truncated 0, bs)

/-- The four bytes of a word as memory holds it (R284). -/
def wordBytes (w : Nat) : List Byte :=
  [BitVec.ofNat 8 w, BitVec.ofNat 8 (w / 256), BitVec.ofNat 8 (w / 65536), BitVec.ofNat 8 (w / 16777216)]

/-- The instruction that the decoder reads from a word given with its number of bits. -/
def decodeTableWord (nbits w : Nat) : Option Instr :=
  if nbits ≤ 32 then
    match (decodeBytes (wordBytes (w % 2 ^ nbits))).1 with
    | .instr i => some i
    | _ => none
  else none

/-- Whether a row of the table has an encoding: the events of the device have none. -/
def hasWord : Instr → Bool
  | .add _ _ _ => true
  | .sub _ _ _ => true
  | .mul _ _ _ => true
  | .mulh _ _ _ => true
  | .div _ _ _ => true
  | .rem _ _ _ => true
  | .and _ _ _ => true
  | .or _ _ _ => true
  | .xor _ _ _ => true
  | .shl _ _ _ => true
  | .shr _ _ _ => true
  | .sha _ _ _ => true
  | .min _ _ _ => true
  | .max _ _ _ => true
  | .sel _ _ _ _ => true
  | .mov _ _ => true
  | .clz _ _ => true
  | .popc _ _ => true
  | .bfx _ _ _ _ => true
  | .bfi _ _ _ => true
  | .lea _ _ _ _ => true
  | .cmp _ _ _ _ _ => true
  | .addi _ _ _ => true
  | .andi _ _ _ => true
  | .ori _ _ _ => true
  | .movi _ _ => true
  | .br _ _ _ _ => true
  | .jmp _ => true
  | .jmpi _ => true
  | .call _ _ => true
  | .ret _ => true
  | .yield _ => true
  | .halt _ => true
  | .haltR _ _ => true
  | .spawn _ _ _ => true
  | .touch _ _ _ => true
  | .resolve _ _ _ _ => true
  | .poison _ _ _ _ => true
  | .cancel _ _ => true
  | .launch _ _ => true
  | .gang _ => true
  | .disband => true
  | .depdec _ _ => true
  | .reside _ => true
  | .bind _ _ _ _ => true
  | .hold _ _ => true
  | .fspill _ _ => true
  | .ffill _ _ => true
  | .ld _ _ _ _ => true
  | .st _ _ _ _ => true
  | .ldv _ _ _ => true
  | .stv _ _ _ => true
  | .ldm _ _ _ => true
  | .stm _ _ _ => true
  | .gath _ _ _ _ => true
  | .scat _ _ _ _ => true
  | .amo _ _ _ _ _ _ => true
  | .cas _ _ _ _ => true
  | .fence _ => true
  | .adv _ _ _ => true
  | .permit _ _ _ => true
  | .cpy _ _ _ => true
  | .cpyQ _ _ _ => true
  | .amsg _ _ _ => true
  | .amsgP _ _ _ => true
  | .rstv _ _ _ _ => true
  | .rstvLaneRange _ _ _ _ _ => true
  | .vadd _ _ _ _ => true
  | .vsub _ _ _ _ => true
  | .vmul _ _ _ _ => true
  | .vfma _ _ _ _ => true
  | .vmin _ _ _ _ => true
  | .vmax _ _ _ _ => true
  | .vabs _ _ _ => true
  | .vsel _ _ _ _ => true
  | .vmov _ _ _ => true
  | .vbit _ _ _ _ => true
  | .vperm _ _ _ _ => true
  | .vtrn _ _ _ => true
  | .vbcast _ _ _ => true
  | .vidx _ _ _ => true
  | .vred _ _ _ => true
  | .vdot _ _ _ _ => true
  | .vcvt _ _ _ _ => true
  | .vcmp _ _ _ _ _ _ _ _ => true
  | .vrcp _ _ _ => true
  | .vrsq _ _ _ => true
  | .vexp2 _ _ _ => true
  | .vlog2 _ _ _ => true
  | .vsin _ _ _ => true
  | .vtanh _ _ _ => true
  | .madd _ _ _ _ => true
  | .msub _ _ _ _ => true
  | .mmul _ _ _ _ => true
  | .mfma _ _ _ _ => true
  | .mscl _ _ _ _ => true
  | .msq _ _ _ => true
  | .mrelu _ _ _ => true
  | .mexp _ _ _ => true
  | .msigm _ _ _ => true
  | .mset _ _ _ _ => true
  | .mcoll _ _ _ _ _ => true
  | .lmbind _ _ _ _ _ => true
  | .lmbindUnbind _ _ _ _ _ => true
  | .lmrun _ _ _ _ => true
  | .lmmom _ _ _ => true
  | .lmzero _ _ _ _ => true
  | .lmdrn _ _ _ _ _ => true
  | .lmdrnV _ _ _ _ => true
  | .lmsclOn _ _ _ _ => true
  | .lmsclOff _ _ _ _ => true
  | .lmchk _ _ _ _ => true
  | .lmcb _ _ _ _ => true
  | .lmwt _ _ _ _ => true
  | .lmfrzOn _ _ _ _ => true
  | .lmfrzOff _ _ _ _ => true
  | .ckacc _ _ => true
  | .cktst _ _ _ => true
  | .mfs _ _ => true
  | .mts _ _ => true
  | .trap _ => true
  | .eret => true
  | .xinv _ _ _ => true
  | .cmoI => true
  | .cmoDrop _ => true
  | .cmoPf _ => true
  | .nop => true
  | .spillWriteAck _ => false
  | .lateWriteLands _ => false
  | .translationDone _ _ _ => false
  | .hbmFillReturn _ _ _ _ => false
  | .combinerFlush _ => false
  | .comBatchApply _ => false
  | .ptsTick _ _ => false
  | .wcntIdleTick _ _ => false
  | .overlongHoldWait _ _ => false
  | .taskDispatch _ => false
  | .stagingStart _ => false
  | .tilePushLanded _ _ _ => false
  | .outputWriteBackDone _ _ => false
  | .wakeWaiters _ _ => false
  | .copyComplete _ => false
  | .engineJobComplete _ => false
  | .queueSlotLanding _ => false
  | .loomPieceStart _ => false
  | .loomCommandComplete _ _ => false
  | .loomFreezeDone _ => false
  | .placerTask _ => false
  | .taskPlacement _ => false
  | .launchQueueDrain _ => false
  | .launchRelease _ _ => false
  | .sweepStart _ _ => false
  | .sweep _ _ => false
  | .sweepResult _ _ => false
  | .phaseBarrierPass _ _ => false
  | .keptEntryScan _ => false
  | .cancelScanStep _ => false
  | .balancerCheck _ => false
  | .migrationCopyDone _ _ => false
  | .forwardingEntryExpiry _ _ => false
  | .remoteLoad _ => false
  | .remoteStore _ => false
  | .remoteAmo _ => false
  | .remoteCas _ => false
  | .answer _ => false
  | .remoteTouch _ => false
  | .remoteResolve _ => false
  | .remotePoison _ => false
  | .remoteCancel _ => false
  | .remoteDepdec _ => false
  | .remoteFspill _ => false
  | .remoteFfill _ => false
  | .remoteWake _ => false
  | .rstvStore _ => false
  | .channelDelivery _ => false
  | .activationCreate _ _ _ => false
  | .entryAddressMessage _ => false
  | .lcmdCreateJob _ _ _ => false
  | .lcmdOpenPhase _ _ _ => false
  | .lcmdCloseJob _ _ _ => false
  | .asplitWrite _ _ => false
  | .asplitApply _ => false
  | .lpoolWrite _ _ => false
  | .ebstatClear _ _ => false
  | .l2CounterClear _ _ _ => false
  | .deviceRegisterWrite _ _ => false
  | .msixVectorSend _ _ _ => false
  | .booteWrite _ => false
  | .filterConsumerWrite _ _ _ => false
  | .hostMessageWrite _ _ _ _ => false
  | .hostMemoryAccess _ _ _ _ _ => false
  | .chronographFrame _ _ _ _ _ => false
  | .ptpMessage _ _ => false
  | .fabricHeaderError _ => false
  | .endToEndTimeout _ => false
  | .linkMarginLoss _ _ _ => false
  | .moduleFailureMark _ => false
  | .correctedErrorWindow _ _ => false
  | .patrolScrub _ _ => false
  | .clusterRetest _ _ _ => false
  | .powerOn _ => false
  | .resetRequest _ => false
  | .unassignedInstructionWord _ => true
  | .killMessage _ _ => false
  | .qntQuantumWrite _ _ => false
  | .jobReadPassDone _ => false
  | .contextSwitch _ _ _ => false

/-- The word of an instruction, as a number (R287, R294); an event has none. -/
def encodeNat : Instr → Option Nat
  | .add d a b => some (0x04000000 + d.toNat * 2097152 + a.toNat * 65536 + b.toNat * 2048)
  | .sub d a b => some (0x04000001 + d.toNat * 2097152 + a.toNat * 65536 + b.toNat * 2048)
  | .mul d a b => some (0x04000002 + d.toNat * 2097152 + a.toNat * 65536 + b.toNat * 2048)
  | .mulh d a b => some (0x04000003 + d.toNat * 2097152 + a.toNat * 65536 + b.toNat * 2048)
  | .div d a b => some (0x04000004 + d.toNat * 2097152 + a.toNat * 65536 + b.toNat * 2048)
  | .rem d a b => some (0x04000005 + d.toNat * 2097152 + a.toNat * 65536 + b.toNat * 2048)
  | .and d a b => some (0x04000006 + d.toNat * 2097152 + a.toNat * 65536 + b.toNat * 2048)
  | .or d a b => some (0x04000007 + d.toNat * 2097152 + a.toNat * 65536 + b.toNat * 2048)
  | .xor d a b => some (0x04000008 + d.toNat * 2097152 + a.toNat * 65536 + b.toNat * 2048)
  | .shl d a b => some (0x04000009 + d.toNat * 2097152 + a.toNat * 65536 + b.toNat * 2048)
  | .shr d a b => some (0x0400000A + d.toNat * 2097152 + a.toNat * 65536 + b.toNat * 2048)
  | .sha d a b => some (0x0400000B + d.toNat * 2097152 + a.toNat * 65536 + b.toNat * 2048)
  | .min d a b => some (0x0400000C + d.toNat * 2097152 + a.toNat * 65536 + b.toNat * 2048)
  | .max d a b => some (0x0400000D + d.toNat * 2097152 + a.toNat * 65536 + b.toNat * 2048)
  | .sel d a b c => some (0x0400000E + d.toNat * 2097152 + a.toNat * 65536 + b.toNat * 2048 + c.toNat * 64)
  | .mov d a => some (0x0400000F + d.toNat * 2097152 + a.toNat * 65536)
  | .clz d a => some (0x04000010 + d.toNat * 2097152 + a.toNat * 65536)
  | .popc d a => some (0x04000011 + d.toNat * 2097152 + a.toNat * 65536)
  | .bfx d a b s => some (0x04000012 + d.toNat * 2097152 + a.toNat * 65536 + b.toNat * 2048 + s.toNat * 64)
  | .bfi d a b => some (0x04000013 + d.toNat * 2097152 + a.toNat * 65536 + b.toNat * 2048)
  | .lea d a b s => some (0x04000014 + d.toNat * 2097152 + a.toNat * 65536 + b.toNat * 2048 + s.toNat * 64)
  | .cmp d a b c i => some (0x08000000 + d.toNat * 2097152 + a.toNat * 65536 + b.toNat * 2048 + c.toNat * 64 + i.toNat)
  | .addi d a i => some (0x0C000000 + d.toNat * 2097152 + a.toNat * 65536 + i.toNat)
  | .andi d a i => some (0x10000000 + d.toNat * 2097152 + a.toNat * 65536 + i.toNat)
  | .ori d a i => some (0x14000000 + d.toNat * 2097152 + a.toNat * 65536 + i.toNat)
  | .movi d i => some (0x18000000 + d.toNat * 2097152 + i.toNat)
  | .br r i s d => some (0x20000000 + r.toNat * 2097152 + i.toNat * 32768 + s.toNat * 16384 + d.toNat)
  | .jmp d => some (0x24000000 + d.toNat)
  | .jmpi a => some (0x28000000 + a.toNat * 65536)
  | .call k d => some (0x2C000000 + k.toNat * 16777216 + d.toNat)
  | .ret a => some (0x30000000 + a.toNat * 65536)
  | .yield n => some (0x34000000 + n.toNat)
  | .halt a => some (0x38000000 + a.toNat * 65536)
  | .haltR d a => some (0x38000001 + d.toNat * 2097152 + a.toNat * 65536)
  | .spawn f a d => some (0x3C000000 + f.toNat * 2097152 + a.toNat * 65536 + d.toNat)
  | .touch d a v => some (0x40000000 + d.toNat * 2097152 + a.toNat * 65536 + v.toNat * 64)
  | .resolve d a b k => some (0x40000001 + d.toNat * 2097152 + a.toNat * 65536 + b.toNat * 2048 + k.toNat * 64)
  | .poison d a b k => some (0x40000002 + d.toNat * 2097152 + a.toNat * 65536 + b.toNat * 2048 + k.toNat * 64)
  | .cancel d a => some (0x40000003 + d.toNat * 2097152 + a.toNat * 65536)
  | .launch d a => some (0x40000004 + d.toNat * 2097152 + a.toNat * 65536)
  | .gang c => some (0x40000005 + c.toNat * 64)
  | .disband => some (0x40000006)
  | .depdec d a => some (0x40000007 + d.toNat * 2097152 + a.toNat * 65536)
  | .reside d => some (0x40000008 + d.toNat * 2097152)
  | .bind d a b n => some (0x40000009 + d.toNat * 2097152 + a.toNat * 65536 + b.toNat * 2048 + n.toNat * 64)
  | .hold d a => some (0x4000000A + d.toNat * 2097152 + a.toNat * 65536)
  | .fspill d a => some (0x4000000B + d.toNat * 2097152 + a.toNat * 65536)
  | .ffill d a => some (0x4000000C + d.toNat * 2097152 + a.toNat * 65536)
  | .ld t b s o => some (0x60000000 + t.toNat * 2097152 + b.toNat * 65536 + s.toNat * 16384 + o.toNat)
  | .st t b s o => some (0x64000000 + t.toNat * 2097152 + b.toNat * 65536 + s.toNat * 16384 + o.toNat)
  | .ldv t b o => some (0x68000000 + t.toNat * 2097152 + b.toNat * 65536 + o.toNat)
  | .stv t b o => some (0x6C000000 + t.toNat * 2097152 + b.toNat * 65536 + o.toNat)
  | .ldm t b o => some (0x70000000 + t.toNat * 2097152 + b.toNat * 65536 + o.toNat)
  | .stm t b o => some (0x74000000 + t.toNat * 2097152 + b.toNat * 65536 + o.toNat)
  | .gath d a i t => some (0x78000000 + d.toNat * 2097152 + a.toNat * 65536 + i.toNat * 2048 + t.toNat * 64)
  | .scat s a i t => some (0x78000001 + s.toNat * 2097152 + a.toNat * 65536 + i.toNat * 2048 + t.toNat * 64)
  | .amo d a s u z o => some (0x78000002 + d.toNat * 2097152 + a.toNat * 65536 + s.toNat * 16384 + u.toNat * 2048 + z.toNat * 1024 + o.toNat * 64)
  | .cas d a u z => some (0x78000003 + d.toNat * 2097152 + a.toNat * 65536 + u.toNat * 2048 + z.toNat * 1024)
  | .fence e => some (0x78000004 + e.toNat * 64)
  | .adv q e c => some (0x78000005 + q.toNat * 2097152 + e.toNat * 1024 + c.toNat * 64)
  | .permit d a b => some (0x78000006 + d.toNat * 2097152 + a.toNat * 65536 + b.toNat * 2048)
  | .cpy s r d => some (0x7C000000 + s.toNat * 2097152 + r.toNat * 65536 + d.toNat * 2048)
  | .cpyQ s r q => some (0x7C000008 + s.toNat * 2097152 + r.toNat * 65536 + q.toNat)
  | .amsg d a b => some (0x80000000 + d.toNat * 2097152 + a.toNat * 65536 + b.toNat * 2048)
  | .amsgP d a b => some (0x80000001 + d.toNat * 2097152 + a.toNat * 65536 + b.toNat * 2048)
  | .rstv s g n v => some (0x84000000 + s.toNat * 2097152 + g.toNat * 65536 + n.toNat * 32 + v.toNat)
  | .rstvLaneRange s g l n v => some (0x84000400 + s.toNat * 2097152 + g.toNat * 65536 + l.toNat * 2048 + n.toNat * 32 + v.toNat)
  | .vadd d a b t => some (0x88000000 + d.toNat * 2097152 + a.toNat * 65536 + b.toNat * 2048 + t.toNat * 64)
  | .vsub d a b t => some (0x88000001 + d.toNat * 2097152 + a.toNat * 65536 + b.toNat * 2048 + t.toNat * 64)
  | .vmul d a b t => some (0x88000002 + d.toNat * 2097152 + a.toNat * 65536 + b.toNat * 2048 + t.toNat * 64)
  | .vfma d a b t => some (0x88000003 + d.toNat * 2097152 + a.toNat * 65536 + b.toNat * 2048 + t.toNat * 64)
  | .vmin d a b t => some (0x88000004 + d.toNat * 2097152 + a.toNat * 65536 + b.toNat * 2048 + t.toNat * 64)
  | .vmax d a b t => some (0x88000005 + d.toNat * 2097152 + a.toNat * 65536 + b.toNat * 2048 + t.toNat * 64)
  | .vabs d a t => some (0x88000006 + d.toNat * 2097152 + a.toNat * 65536 + t.toNat * 64)
  | .vsel d a b t => some (0x88000007 + d.toNat * 2097152 + a.toNat * 65536 + b.toNat * 2048 + t.toNat * 64)
  | .vmov d a t => some (0x88000008 + d.toNat * 2097152 + a.toNat * 65536 + t.toNat * 64)
  | .vbit d a b t => some (0x88000009 + d.toNat * 2097152 + a.toNat * 65536 + b.toNat * 2048 + t.toNat * 64)
  | .vperm d a b t => some (0x8800000A + d.toNat * 2097152 + a.toNat * 65536 + b.toNat * 2048 + t.toNat * 64)
  | .vtrn d a t => some (0x8800000B + d.toNat * 2097152 + a.toNat * 65536 + t.toNat * 64)
  | .vbcast d a t => some (0x8800000C + d.toNat * 2097152 + a.toNat * 65536 + t.toNat * 64)
  | .vidx d a t => some (0x8800000D + d.toNat * 2097152 + a.toNat * 65536 + t.toNat * 64)
  | .vred d a t => some (0x8800000E + d.toNat * 2097152 + a.toNat * 65536 + t.toNat * 64)
  | .vdot d a b t => some (0x8800000F + d.toNat * 2097152 + a.toNat * 65536 + b.toNat * 2048 + t.toNat * 64)
  | .vcvt d a e s => some (0x88000010 + d.toNat * 2097152 + a.toNat * 65536 + e.toNat * 2048 + s.toNat * 64)
  | .vcmp d a b x c y z t => some (0x8C000000 + d.toNat * 2097152 + a.toNat * 65536 + b.toNat * 2048 + x.toNat * 1024 + c.toNat * 64 + y.toNat * 32 + z.toNat * 16 + t.toNat)
  | .vrcp d a t => some (0x90000000 + d.toNat * 2097152 + a.toNat * 65536 + t.toNat * 64)
  | .vrsq d a t => some (0x90000001 + d.toNat * 2097152 + a.toNat * 65536 + t.toNat * 64)
  | .vexp2 d a t => some (0x90000002 + d.toNat * 2097152 + a.toNat * 65536 + t.toNat * 64)
  | .vlog2 d a t => some (0x90000003 + d.toNat * 2097152 + a.toNat * 65536 + t.toNat * 64)
  | .vsin d a t => some (0x90000004 + d.toNat * 2097152 + a.toNat * 65536 + t.toNat * 64)
  | .vtanh d a t => some (0x90000005 + d.toNat * 2097152 + a.toNat * 65536 + t.toNat * 64)
  | .madd d a b t => some (0x98000400 + d.toNat * 2097152 + a.toNat * 65536 + b.toNat * 2048 + t.toNat * 64)
  | .msub d a b t => some (0x98000401 + d.toNat * 2097152 + a.toNat * 65536 + b.toNat * 2048 + t.toNat * 64)
  | .mmul d a b t => some (0x98000402 + d.toNat * 2097152 + a.toNat * 65536 + b.toNat * 2048 + t.toNat * 64)
  | .mfma d a b t => some (0x98000403 + d.toNat * 2097152 + a.toNat * 65536 + b.toNat * 2048 + t.toNat * 64)
  | .mscl d a b t => some (0x98000404 + d.toNat * 2097152 + a.toNat * 65536 + b.toNat * 2048 + t.toNat * 64)
  | .msq d a t => some (0x98000405 + d.toNat * 2097152 + a.toNat * 65536 + t.toNat * 64)
  | .mrelu d a t => some (0x98000406 + d.toNat * 2097152 + a.toNat * 65536 + t.toNat * 64)
  | .mexp d a t => some (0x98000407 + d.toNat * 2097152 + a.toNat * 65536 + t.toNat * 64)
  | .msigm d a t => some (0x98000408 + d.toNat * 2097152 + a.toNat * 65536 + t.toNat * 64)
  | .mset d a b t => some (0x98000409 + d.toNat * 2097152 + a.toNat * 65536 + b.toNat * 2048 + t.toNat * 64)
  | .mcoll d a f k t => some (0x9800040A + d.toNat * 2097152 + a.toNat * 65536 + f.toNat * 16384 + k.toNat * 2048 + t.toNat * 64)
  | .lmbind s r g f t => some (0xA0000000 + s.toNat * 2097152 + r.toNat * 65536 + g.toNat * 2048 + f.toNat * 512 + t.toNat * 16)
  | .lmbindUnbind s r g f t => some (0xA0000400 + s.toNat * 2097152 + r.toNat * 65536 + g.toNat * 2048 + f.toNat * 512 + t.toNat * 16)
  | .lmrun s r g t => some (0xA0000001 + s.toNat * 2097152 + r.toNat * 65536 + g.toNat * 2048 + t.toNat * 16)
  | .lmmom s r g => some (0xA0000112 + s.toNat * 2097152 + r.toNat * 65536 + g.toNat * 2048)
  | .lmzero s r g t => some (0xA0000003 + s.toNat * 2097152 + r.toNat * 65536 + g.toNat * 2048 + t.toNat * 16)
  | .lmdrn s r g e t => some (0xA0000004 + s.toNat * 2097152 + r.toNat * 65536 + g.toNat * 2048 + e.toNat * 1024 + t.toNat * 16)
  | .lmdrnV s r g e => some (0xA0000284 + s.toNat * 2097152 + r.toNat * 65536 + g.toNat * 2048 + e.toNat * 1024)
  | .lmsclOn s r g t => some (0xA0000205 + s.toNat * 2097152 + r.toNat * 65536 + g.toNat * 2048 + t.toNat * 16)
  | .lmsclOff s r g t => some (0xA0000005 + s.toNat * 2097152 + r.toNat * 65536 + g.toNat * 2048 + t.toNat * 16)
  | .lmchk s r g t => some (0xA0000006 + s.toNat * 2097152 + r.toNat * 65536 + g.toNat * 2048 + t.toNat * 16)
  | .lmcb s r g t => some (0xA0000007 + s.toNat * 2097152 + r.toNat * 65536 + g.toNat * 2048 + t.toNat * 16)
  | .lmwt s r g t => some (0xA0000008 + s.toNat * 2097152 + r.toNat * 65536 + g.toNat * 2048 + t.toNat * 16)
  | .lmfrzOn s r g t => some (0xA0000209 + s.toNat * 2097152 + r.toNat * 65536 + g.toNat * 2048 + t.toNat * 16)
  | .lmfrzOff s r g t => some (0xA0000009 + s.toNat * 2097152 + r.toNat * 65536 + g.toNat * 2048 + t.toNat * 16)
  | .ckacc d a => some (0xA8000000 + d.toNat * 2097152 + a.toNat * 65536)
  | .cktst x y b => some (0xA8000001 + x.toNat * 2097152 + y.toNat * 65536 + b.toNat * 2048)
  | .mfs d n => some (0xF0000000 + d.toNat * 2097152 + n.toNat * 64)
  | .mts a n => some (0xF0000001 + a.toNat * 65536 + n.toNat * 64)
  | .trap a => some (0xF0000002 + a.toNat * 65536)
  | .eret => some (0xF0000003)
  | .xinv a b v => some (0xF0000004 + a.toNat * 65536 + b.toNat * 2048 + v.toNat * 64)
  | .cmoI => some (0xF0000005)
  | .cmoDrop a => some (0xF0000045 + a.toNat * 65536)
  | .cmoPf a => some (0xF0000085 + a.toNat * 65536)
  | .nop => some (0xFC000000)
  | .spillWriteAck _ => none
  | .lateWriteLands _ => none
  | .translationDone _ _ _ => none
  | .hbmFillReturn _ _ _ _ => none
  | .combinerFlush _ => none
  | .comBatchApply _ => none
  | .ptsTick _ _ => none
  | .wcntIdleTick _ _ => none
  | .overlongHoldWait _ _ => none
  | .taskDispatch _ => none
  | .stagingStart _ => none
  | .tilePushLanded _ _ _ => none
  | .outputWriteBackDone _ _ => none
  | .wakeWaiters _ _ => none
  | .copyComplete _ => none
  | .engineJobComplete _ => none
  | .queueSlotLanding _ => none
  | .loomPieceStart _ => none
  | .loomCommandComplete _ _ => none
  | .loomFreezeDone _ => none
  | .placerTask _ => none
  | .taskPlacement _ => none
  | .launchQueueDrain _ => none
  | .launchRelease _ _ => none
  | .sweepStart _ _ => none
  | .sweep _ _ => none
  | .sweepResult _ _ => none
  | .phaseBarrierPass _ _ => none
  | .keptEntryScan _ => none
  | .cancelScanStep _ => none
  | .balancerCheck _ => none
  | .migrationCopyDone _ _ => none
  | .forwardingEntryExpiry _ _ => none
  | .remoteLoad _ => none
  | .remoteStore _ => none
  | .remoteAmo _ => none
  | .remoteCas _ => none
  | .answer _ => none
  | .remoteTouch _ => none
  | .remoteResolve _ => none
  | .remotePoison _ => none
  | .remoteCancel _ => none
  | .remoteDepdec _ => none
  | .remoteFspill _ => none
  | .remoteFfill _ => none
  | .remoteWake _ => none
  | .rstvStore _ => none
  | .channelDelivery _ => none
  | .activationCreate _ _ _ => none
  | .entryAddressMessage _ => none
  | .lcmdCreateJob _ _ _ => none
  | .lcmdOpenPhase _ _ _ => none
  | .lcmdCloseJob _ _ _ => none
  | .asplitWrite _ _ => none
  | .asplitApply _ => none
  | .lpoolWrite _ _ => none
  | .ebstatClear _ _ => none
  | .l2CounterClear _ _ _ => none
  | .deviceRegisterWrite _ _ => none
  | .msixVectorSend _ _ _ => none
  | .booteWrite _ => none
  | .filterConsumerWrite _ _ _ => none
  | .hostMessageWrite _ _ _ _ => none
  | .hostMemoryAccess _ _ _ _ _ => none
  | .chronographFrame _ _ _ _ _ => none
  | .ptpMessage _ _ => none
  | .fabricHeaderError _ => none
  | .endToEndTimeout _ => none
  | .linkMarginLoss _ _ _ => none
  | .moduleFailureMark _ => none
  | .correctedErrorWindow _ _ => none
  | .patrolScrub _ _ => none
  | .clusterRetest _ _ _ => none
  | .powerOn _ => none
  | .resetRequest _ => none
  | .unassignedInstructionWord w => some w.toNat
  | .killMessage _ _ => none
  | .qntQuantumWrite _ _ => none
  | .jobReadPassDone _ => none
  | .contextSwitch _ _ _ => none

/-- The words of an instruction: one 32-bit word, or none for an event. -/
def encode (i : Instr) : List IWord :=
  match encodeNat i with
  | some n => [BitVec.ofNat 32 n]
  | none => []

end Sys2Proof
end

