-- ==== Sys2Proof/Machine/Fetch.lean ====
section
/-! DEFINITION. Fetching a unit and what it meets before it issues: hints (R284 to R293, R297), the scoreboard (R103,
R174, R251), marked sources (R242, R267), handled failures (R273), the guard (R121, R122). -/

namespace Sys2Proof.Machine

/-- The word at an instruction address, or the trap of its fetch: XFAULT, ALIGN or UE (R148, R267, R272). A word that
was written since this core's last CMO.I may be seen old or new (R284, R334; log entry 9). What a fetch from a host or another
module brings is free (log entry 3). A fetch fills no L2 line and takes no lease (R156; log entry 68). -/
def fetchWord (s : State) (a : Word) : (Nat ⊕ (Nat × Word)) × State :=
  match resolve s s.ck s.core.space a 4 .load with
  | (.trap c v, s1) => (.inr (c, v), s1)
  | (.ok t _, s1) =>
    match t.key? with
    | some k =>
      if s1.marked k 4 then (.inr (16, a), foundError s1 k s1.core.space)
      else
        let new := s1.readN k 4
        let old := match s1.core.oldCode.find? (fun o => o.1 == k / 128) with
          | some o => fld o.2 (8 * (k % 128)) 32
          | none => new
        if old == new then (.inl new, s1)
        else (.inl (if Config.fetchSeesNew s1.free then new else old), { s1 with free := s1.free + 1 })
    | none =>
      let (v, s2) := s1.choose
      (.inl (v % 2 ^ 32), s2)

/-- A unit as far as it is read (R285): its hints, and the first hint word that breaks a rule (R286, R297). -/
structure Scan where
  wides : List Nat := []
  grd : Option Nat := none
  mode : Option Nat := none
  sched : Option Nat := none
  /-- address order of the first bad hint word with the word -/
  bad : Option (Nat × Nat) := none
  /-- words read so far -/
  n : Nat := 0
  deriving DecidableEq, Repr

/-- Note a hint word that breaks a rule, if it is the first. -/
def Scan.flag (u : Scan) (broken : Bool) (w : Nat) : Scan :=
  if broken && u.bad.isNone then { u with bad := some (u.n, w) } else u

/-- Whether a GRD, MODE or SCHED payload holds a reserved code or field (R291 to R293). -/
def badGrd (p : Nat) : Bool := p % 1024 != 0
def badMode (p : Nat) : Bool :=
  decide (5 < fld p 0 3) || fld p 3 2 == 3 || fld p 7 2 == 3 || fld p 13 9 != 0
def badSched (p : Nat) : Bool := fld p 7 15 != 0

/-- What fetching a unit yields: a unit with its guard and instruction, or a trap. -/
inductive Fetched where
  | unit (u : ExecUnit) (grd : Option Nat) (i : Instr)
  | trap (cause : Nat) (tval : Word)
  deriving DecidableEq, Repr

/-- How many WIDE an instruction accepts (R286). -/
def widesTaken : Instr → Nat
  | .addi _ _ _ | .andi _ _ _ | .ori _ _ _ | .movi _ _ => 2
  | .ld _ _ _ _ | .st _ _ _ _ | .ldv _ _ _ | .stv _ _ _ | .ldm _ _ _ | .stm _ _ _ | .br _ _ _ _ | .spawn _ _ _ => 1
  | _ => 0

/-- The encoded WIDE word of a payload (R435). -/
def wideWord (p : Nat) : Nat := 0xFC400000 + p

/-- End a unit at its last word (R286): the first bad hint in address order, else the instruction. The place of every
WIDE is kept with its payload. -/
def Scan.finish (u : Scan) (base here : Word) (places : List Nat) (w : Nat) (i : Instr) : Fetched :=
  let extra := (u.wides.zip places).drop (widesTaken i)
  let firstOver := extra.head?.map (fun x => (x.2, wideWord x.1))
  match u.bad, firstOver with
  | some b, some o => .trap 1 (wordOfNat (if b.1 < o.1 then b.2 else o.2))
  | some b, none => .trap 1 (wordOfNat b.2)
  | none, some o => .trap 1 (wordOfNat o.2)
  | none, none => .unit
      { base := base, here := here, wide := u.wides.foldl (fun n p => n * 4194304 + p) 0, wides := u.wides.length,
        mode := u.mode.getD 0, word := w } u.grd i

/-- A word that breaks a limit of R285 ends the unit with ILLEGAL; a bad hint before it comes first. -/
def Scan.overLimit (u : Scan) (w : Nat) : Fetched :=
  match u.bad with
  | some b => .trap 1 (wordOfNat b.2)
  | none => .trap 1 (wordOfNat w)

/-- Read a unit word by word from an address (R284, R285); a unit has at most five hints, the fuel is above that. -/
def scanUnit : Nat → State → Word → Word → Scan → List Nat → Fetched × State
  | 0, s, base, _, _, _ => (.trap 1 base, s)
  | fuel + 1, s, base, a, u, places =>
    match fetchWord s a with
    | (.inr (c, v), s1) =>
      match u.bad with
      | some b => (.trap 1 (wordOfNat b.2), s1)
      | none => (.trap c v, s1)
    | (.inl w, s1) =>
      let next := { u with n := u.n + 1 }
      match decodeNat w with
      | .wide p =>
        if 2 ≤ u.wides.length then (u.overLimit w, s1)
        else scanUnit fuel s1 base (a + 4) { next with wides := u.wides ++ [p] } (places ++ [u.n])
      | .grd p =>
        if u.grd.isSome then (u.overLimit w, s1)
        else scanUnit fuel s1 base (a + 4) { u.flag (badGrd p) w with grd := some p, n := u.n + 1 } places
      | .mode p =>
        if u.mode.isSome then (u.overLimit w, s1)
        else scanUnit fuel s1 base (a + 4) { u.flag (badMode p) w with mode := some p, n := u.n + 1 } places
      | .sched p =>
        if u.sched.isSome then (u.overLimit w, s1)
        else scanUnit fuel s1 base (a + 4) { u.flag (badSched p) w with sched := some p, n := u.n + 1 } places
      | .instr i => (u.finish base a places w i, s1)
      | .reject _ r => (u.finish base a places w (.unassignedInstructionWord (BitVec.ofNat 32 r)), s1)

/-- Fetch the unit at the pc (R284, R285). -/
def fetchUnit (s : State) : Fetched × State := scanUnit 7 s s.core.pc s.core.pc {} []

/-- Whether a guard enables its unit's instruction: a[i] XOR s = 1 (R121). -/
def enabled (s : State) (grd : Option Nat) : Bool :=
  match grd with
  | none => true
  | some p => bit (s.core.x (fld p 17 5)).toNat (fld p 11 6) != bit p 10

/-- The logical general registers a unit reads: its sources and its guard (R121, R349). -/
def unitReads (s : State) (grd : Option Nat) (i : Instr) : List Nat :=
  let g := match grd with
    | some p => [fld p 17 5]
    | none => []
  (g ++ generalReads i).map (· + s.core.b)

/-- The logical general registers a unit writes; CALL writes the new window's last register (R118). -/
def unitWrites (s : State) (i : Instr) : List Nat :=
  match i with
  | .call k _ => [s.core.b + 8 * k.toNat + 31]
  | _ => (generalWrites i).map (· + s.core.b)

/-- Whether a write to a logical register of the current task is still to land: an answer, a job's status, a loom
command's status (R174, R225, R236, R337). -/
def pendingReg (s : State) (l : Nat) : Bool :=
  match s.core.running with
  | none => false
  | some slot =>
    s.pod.late.any (fun p => p.dst.ck == s.ck && p.dst.slot == slot && p.dst.core.isNone && p.dst.reg == l) ||
    s.pod.jobs.any (fun j => j.ck == s.ck && j.slot == slot && !j.discard && !j.dead && j.kind == .copy && j.dest == l) ||
    s.core.loom.queue.any (fun c => c.dest == l) ||
    s.cluster.loom.freezing.any (fun w => w.slot == slot && w.reg == l)

/-- The vector registers that a loom command in a queue still writes (LMDRN_V, R366). -/
def LCmd.vectorDests (c : LCmd) : List Nat :=
  if c.toVec then (List.range c.c).map (fun i => c.d + i) else []

/-- Whether a vector register is held, or a gather or a drain into it is still to land (R174, R251, R366). -/
def pendingVec (s : State) (v : Nat) : Bool :=
  decide (v < 24) &&
    (decide (0 < (mget (fun _ => ({} : Hold)) s.core.holds v).cnt) ||
     s.pod.jobs.any (fun j => j.ck == s.ck && j.core == s.cur % 8 && !j.discard && !j.dead && j.kind == .gather &&
       j.queue.isNone && j.dest == v) ||
     s.core.loom.queue.any (fun c => c.vectorDests.contains v))

/-- How many gathers of the current core are still to land in one of its queues, one slot each (R126, R337). -/
def pendingSlots (s : State) (q : Nat) : Nat :=
  (s.pod.jobs.filter (fun j => j.ck == s.ck && j.core == s.cur % 8 && !j.discard && !j.dead && j.kind == .gather &&
    j.queue == some q)).length

/-- Whether a queue is read at an offset where a gather is still to land (R126, R337). -/
def pendingRead (s : State) (off spec : Nat) : Bool :=
  decide (24 ≤ spec) &&
    let n := (s.core.q (spec - 24)).n
    decide (n ≤ off) && decide (off < n + pendingSlots s (spec - 24))

/-- Whether a queue's slot at an offset from the tail, where a gather is still to land, is written (R126, R337). -/
def pendingWrite (s : State) (off spec : Nat) : Bool :=
  decide (24 ≤ spec) && decide ((s.core.q (spec - 24)).n + off < 16) && decide (off < pendingSlots s (spec - 24))

/-- The offset from a queue's head at which an instruction reads it: gathers and scatters read the head (R126, R241). -/
def headOff (s : State) : Instr → Nat
  | .gath _ _ _ _ | .scat _ _ _ _ => 0
  | _ => s.qoff

/-- Whether an instruction's queue operands wait for a gather; a gather itself lands behind the earlier ones (R126, R337). -/
def queueHazard (s : State) (i : Instr) : Bool :=
  (s.vectorSources i).any (pendingRead s (headOff s i)) ||
    (match i with
     | .gath _ _ _ _ => false
     | _ => (vectorWrites i).any (pendingWrite s s.qoff))

/-- Whether a unit waits for one of its registers (R103): under a false guard its general registers alone count. -/
def hazard (s : State) (grd : Option Nat) (i : Instr) : Bool :=
  (unitReads s grd i).any (pendingReg s) ||
  (enabled s grd && ((unitWrites s i).any (pendingReg s) || (s.vectorSources i).any (pendingVec s) ||
    (vectorWrites i).any (pendingVec s) || queueHazard s i))

/-- The mark that a vector or queue source has on one of the members, with that member's core; of a queue at an offset from
its head (R242). -/
def vectorMark (s : State) (off spec : Nat) : Option (Nat × Nat) :=
  s.members.findSome? fun k =>
    let c := s.coreAt k
    if spec < 24 then (c.vmarks.find? (fun m => m.1 == spec)).map (fun m => (k % 8, m.2))
    else
      let q := c.q (spec - 24)
      (q.marks.find? (fun m => m.1 == (q.head + off) % 16)).map (fun m => (k % 8, m.2))

/-- The UE of a unit's marked sources: the core of the member whose vector source is marked, none for the leader's own
registers, and the TVAL (R51, R242, R266, R267). -/
def ueOf (s : State) (grd : Option Nat) (i : Instr) : Option (Option Nat × Word) :=
  match s.core.gmarks.find? (fun m => (unitReads s grd i).contains m.1) with
  | some m => some (none, m.2)
  | none =>
    match (s.vectorSources i).findSome? (vectorMark s (headOff s i)) with
    | some v => some (some v.1, wordOfNat v.2)
    | none => ((s.core.mmarks.find? (fun m => (momentReads i).contains m.1)).map (·.2)).map (fun v => (none, v))

/-- Reading a register that holds a failed job's status handles the failure (R273). -/
def handleFails (s : State) (grd : Option Nat) (i : Instr) : State :=
  if s.core.fails.isEmpty then s
  else
    let rs := unitReads s grd i
    { s with core := { s.core with fails := s.core.fails.filter (fun f => match f.1 with
        | some l => !rs.contains l
        | none => true) } }

/-- The state in which a unit issues: the unit is recorded and WCNT has counted it (R102). -/
def issueState (s : State) (u : ExecUnit) : State :=
  { s with core := { s.core with unit := u, wcnt := s.core.wcnt - 1, vectoring := false, waiting := false } }

/-- A unit that did not issue gets its count back (R102, R103). -/
def unissue (w : Nat) (s : State) : State :=
  if s.core.waiting then { s with core := { s.core with wcnt := w } } else s

/-- Whether a unit takes WDOG: its issue brings WCNT to zero, and it is no unprivileged YIELD (R106). -/
def wdog (s : State) (i : Instr) : Bool :=
  s.core.wcnt == 0 && !(match i with
    | .yield _ => !s.core.priv
    | _ => false)

/-- WDOG: the trap, or the end of a task that runs out again inside its handler (R106). -/
def takeWdog (s : State) : State :=
  if s.core.trap.kill == 1 then endRunning s (.poison 10) else trap s 10 (wordOfNat s.ctx.ylim)

/-- A trap on the fetch of a unit; on the fetch of a trap vector it is a fatal context error (R271, R274). -/
def fetchTrap (s : State) (c : Nat) (v : Word) : State :=
  if s.core.vectoring && c != 1 then killOwn { s with core := { s.core with vectoring := false } } 0x313 12 s.core.pc
  else trap { s with core := { s.core with vectoring := false, waiting := false, wcnt := s.core.wcnt - 1,
                                           unit := { base := s.core.pc, here := s.core.pc, word := v.toNat % 2 ^ 32 } } } c v

end Sys2Proof.Machine
end

