-- ==== Sys2Proof/Machine/Memory.lean ====
section
/-! DEFINITION. Loads and stores (LD to STM): R137, R146, R148 to R150, R165 to R168, R268, R357 to R359, R414 to R416. -/

namespace Sys2Proof.Machine

/-- One access that passed its checks: the address, where it goes, its leaf, its bytes. -/
structure Part where
  addr : Word
  target : Target
  leaf : Nat
  n : Nat
  deriving DecidableEq, Repr

/-- The checks of several accesses in order: all parts, or the first that fails with its place in the list. -/
def resolveAll (k : AccKind) : State → Nat → List (Word × Nat) → (List Part ⊕ (Nat × Nat × Word)) × State
  | s, _, [] => (.inl [], s)
  | s, j, (a, n) :: rest =>
    match resolve s s.ck s.core.space a n k with
    | (.trap c v, s1) => (.inr (j, c, v), s1)
    | (.ok t leaf, s1) =>
      match resolveAll k s1 (j + 1) rest with
      | (.inl ps, s2) => (.inl ({ addr := a, target := t, leaf := leaf, n := n } :: ps), s2)
      | (.inr r, s2) => (.inr r, s2)

/-- FATALX: the trap on the core, the record and the kill of its job (R149, R268, R274). -/
def fatalx (s : State) (addr : Word) : State :=
  trap (fatalAt s (s.ck / 4096) s.core.space 0x310 9 addr s.core.pts) 5 addr

/-- The request of a remote access: handler 0x01 to 0x04, its address, its bytes and its data (R168, R244). -/
def remotePacket (s : State) (handler m va n : Nat) (data : Nat) : Packet :=
  let msg : Message := { s.message handler with w0 := wordOfNat va, w1 := wordOfNat n, w2 := s.core.unit.base }
  { srcModule := s.pod.module, src := s.ck, dstModule := m, dst := s.ck, target := wordOfNat va, msg := msg,
    form := data }

/-- The requests of the remote parts of a load. -/
def partReqs (s : State) (ps : List Part) : List Packet :=
  ps.filterMap fun p => match p.target with
    | .remote m va => some (remotePacket s 1 m va p.n 0)
    | _ => none

/-- An answer that tells of a refused remote access (R149). -/
def fatalAnswer : Nat := 2 ^ 16400

/-- An answer that tells that the access is none the target performs: a device register is not reached by it (R150,
R160). -/
def alignAnswer : Nat := 2 ^ 16401

/-- The bit of an answer that tells of an uncorrectable error in its data, which is at most 2,048 bytes (R252, R268, R272). -/
def markBit : Nat := 16384

/-- What an answer's value is raised by where the data has an uncorrectable error. -/
def markedAnswer : Nat := 2 ^ markBit

/-- The register number of a waiter that waits for an acknowledgement alone. -/
def noRegister : Nat := 2 ^ 20

/-- The value of one part, with the mark it brings where its data has an uncorrectable error (R268, R272); a remote
part takes the next answer. -/
def loadPart (s : State) (p : Part) (answers : List Nat) : Nat × Option Word × List Nat × State :=
  match p.target with
  | .device pa => (devRead s pa, none, answers, s.strong)
  | .host _ _ => let (v, s1) := loadHost s p.n; (v, none, answers, s1)
  | .remote _ _ =>
    let a := answers.headD 0
    (a % markedAnswer, if bit a markBit then some p.addr else none, answers.drop 1, s)
  | .landing port a => (s.readN (landingKey port a) p.n, none, answers, s.strong)
  | t =>
    match t.key? with
    | none => (0, none, answers, s)
    | some k =>
      let (v, s1) := loadMem s p.addr.toNat k p.n p.leaf
      if s.badCopy p.addr.toNat k p.leaf then
        (v, some p.addr, answers, s1.clusterError s1.ck true 0 (s1.cur % 8) s1.core.space (wordOfNat k) 0)
      else if s.marked k p.n then (v, some p.addr, answers, foundError s1 k s1.core.space)
      else (v, none, answers, s1)

/-- The values of parts in order. -/
def loadAll : State → List Part → List Nat → List (Nat × Option Word) × State
  | s, [], _ => ([], s)
  | s, p :: ps, an =>
    let (v, m, an1, s1) := loadPart s p an
    let (vs, s2) := loadAll s1 ps an1
    ((v, m) :: vs, s2)

/-- Load parts: the unit waits for the answers to its remote parts, then all values are there. -/
def loadParts (s : State) (ps : List Part) (body : List (Nat × Option Word) → State → State) : State :=
  match askAll s (partReqs s ps) with
  | (none, s1) => s1
  | (some an, s1) =>
    if an.contains fatalAnswer then fatalx s1 ((ps.map (·.addr)).headD 0)
    else if an.contains alignAnswer then trap s1 3 ((ps.map (·.addr)).headD 0)
    else
      let (vs, s2) := loadAll s1 ps an
      body vs s2

/-- What must come before the stores of parts: none means they wait (R173, R233). -/
def beforeParts (s : State) (ps : List Part) : Option State :=
  ps.foldl (fun o p => match p.target with
    | .hbm pa => o.bind (fun s => beforeWrite s pa p.n)
    | .array ck off => o.bind (fun s => beforeWrite s (arrayKey ck off) p.n)
    | _ => o) (some s)

/-- Store the low bytes of a value at a part (R146, R165, R167, R415). -/
def storePart (s : State) (p : Part) (v : Nat) : State :=
  match p.target with
  | .hbm pa => storeMem s pa (leBytes p.n v) p.leaf
  | .array ck off => storeMem s (arrayKey ck off) (leBytes p.n v) p.leaf
  | .device pa => devWrite s.strong pa (wordOfNat v)
  | .host port a => storeHost s port a (leBytes p.n v)
  | .landing _ _ => s
  | .remote m va =>
    let w : Waiter := { s.waiter 0 with reg := noRegister }
    (s.send { remotePacket s 2 m va p.n (v % 2 ^ (8 * p.n)) with reply := w }).addLate
      { dst := w, value := 0, ready := false, order := 1, addr := wordOfNat va, n := p.n }

/-- Store values at parts in order. -/
def storeAll : State → List Part → List Nat → State
  | s, p :: ps, v :: vs => storeAll (storePart s p v) ps vs
  | s, _, _ => s

/-- Store parts, once nothing holds them back, and go on. -/
def storeParts (s : State) (ps : List Part) (vs : List Nat) : State :=
  match (if (ps.zip vs).any (fun x => match x.1.target with
      | .device pa => devWaits s pa (wordOfNat x.2)
      | _ => false) then none else beforeParts s ps) with
  | none => s.wait
  | some s1 => (storeAll s1 ps vs).adv

/-- The core number of member j of the current gang. -/
def memberNo (s : State) (j : Nat) : Nat := (s.members.getD j s.cur) % 8

/-- Whether an access with a use must wait for earlier accesses of its task to other modules, whose times are not known yet:
every access without a use for those without, and for .unp atomics of the same 8 bytes; .unp for the same 8 bytes; .nord
for .nord (R163, R168, R178). -/
def orderWaits (s : State) (use : Nat) (ps : List Part) : Bool :=
  s.pod.late.any fun l =>
    let same := ps.any (fun p => meets (p.addr.toNat / 8) ((p.addr.toNat + p.n + 7) / 8 - p.addr.toNat / 8) (l.addr.toNat / 8) 1)
    l.dst.ck == s.ck && s.core.running == some l.dst.slot && l.dst.core.isNone && !l.ready &&
      (match use with
       | 0 => l.order == 1 || (l.order == 2 && same)
       | 1 => (l.order == 1 || l.order == 2) && same
       | 3 => l.order == 3
       | _ => false)

/-- Run a body on checked parts, or take the trap of the first that fails (R267, R359); behind earlier accesses that it must
wait for. An atomic waits by its use. -/
def withParts (s : State) (k : AccKind) (l : List (Word × Nat)) (body : List Part → State → State) : State :=
  match resolveAll k s 0 l with
  | (.inr (j, c, v), s1) => trapMember s1 (memberNo s j) c v
  | (.inl ps, s1) => if k != .atomic && orderWaits s1 0 ps then s1.wait else body ps s1

/-- Mark a general register (R268). -/
def markX (s : State) (t : Nat) (m : Option Word) : State :=
  match m with
  | none => s
  | some a => { s with core := { s.core with gmarks := mput s.core.gmarks (s.core.b + t) a } }

/-- Mark a vector register, or the queue slot that a destination names (R242, R268). -/
def markSpec (s : State) (k spec off : Nat) (m : Option Word) : State :=
  match m with
  | none => s
  | some a =>
    let c := s.coreAt k
    if spec < 24 then s.putCore k { c with vmarks := mput c.vmarks spec a.toNat }
    else
      let q := c.q (spec - 24)
      s.putCore k (c.setQ (spec - 24) { q with marks := mput q.marks ((q.head + q.n + off) % 16) a.toNat })

/-- Mark the destination on every member whose data had an error. -/
def markMembers (spec off : Nat) : State → List Nat → List (Option Word) → State
  | s, k :: ks, m :: ms => markMembers spec off (markSpec s k spec off m) ks ms
  | s, _, _ => s

/-- LD of a value into a register; a remote load's value lands later (R168, R337, R358). -/
def loadGeneral (s : State) (t : BitVec 5) (ps : List Part) : State :=
  match ps with
  | [p] =>
    match p.target with
    | .remote m va =>
      let s1 := s.send { remotePacket s 1 m va p.n 0 with reply := s.waiter t }
      (s1.addLate { dst := s.waiter t, value := 0, ready := false, order := 1, addr := wordOfNat va, n := p.n }).adv
    | _ => loadParts s ps fun vs s =>
        match vs with
        | (v, m) :: _ => markX (s.ret t (wordOfNat v)) t.toNat m
        | [] => s
  | _ => s

/-- LD (R357, R358). -/
def execLd (t b : BitVec 5) (sz : BitVec 2) (o : BitVec 14) (s : State) : Out :=
  .next (
    let n := 2 ^ sz.toNat
    withParts s .load [(s.addrFM b o n, n)] fun ps s => loadGeneral s t ps)

/-- ST (R414, R415). -/
def execSt (t b : BitVec 5) (sz : BitVec 2) (o : BitVec 14) (s : State) : Out :=
  .next (
    let n := 2 ^ sz.toNat
    withParts s .store [(s.addrFM b o n, n)] fun ps s1 => storeParts s1 ps [(s.x t).toNat])

/-- The accesses of a gang's LDV or STV: member j at addr + 64 j (R359, R416). -/
def memberAccesses (s : State) (a : Word) : List (Word × Nat) :=
  (List.range s.members.length).map (fun j => (a + wordOfNat (64 * j), 64))

/-- LDV (R357 to R359). -/
def execLdv (t b : BitVec 5) (o : BitVec 14) (s : State) : Out :=
  .next (
    match s.destUnder t with
    | some (m, v) => trapMember s m 15 v
    | none =>
      withParts s .load (memberAccesses s (s.addrFM b o 64)) fun ps s1 =>
        match reserveMembers s1 t.toNat s1.members with
        | none => s1.wait
        | some s2 => loadParts s2 ps fun vs s3 =>
            let s4 := s3.retV t (vs.map (fun v => BitVec.ofNat 512 v.1))
            markMembers t.toNat s3.qoff s4 s3.members (vs.map (·.2)))

/-- STV (R414 to R416). -/
def execStv (t b : BitVec 5) (o : BitVec 14) (s : State) : Out :=
  .next (
    match s.readV t with
    | .inr (m, v) => trapMember s m 15 v
    | .inl vs =>
      withParts s .store (memberAccesses s (s.addrFM b o 64)) fun ps s1 => storeParts s1 ps (vs.map (·.toNat)))

/-- LDM (R357, R358). -/
def execLdm (t b : BitVec 5) (o : BitVec 14) (s : State) : Out :=
  .next (s.legal (.ldm t b o) fun s =>
    withParts s .load [(s.addrFM b o 128, 128)] fun ps s1 => loadParts s1 ps fun vs s2 =>
      match vs with
      | (v, m) :: _ =>
        let c := s2.core.setM t.toNat (BitVec.ofNat 1024 v)
        let c1 := match m with
          | some a => { c with mmarks := mput c.mmarks t.toNat a }
          | none => c
        State.adv { s2 with core := c1 }
      | [] => s2)

/-- STM (R414, R415). -/
def execStm (t b : BitVec 5) (o : BitVec 14) (s : State) : Out :=
  .next (s.legal (.stm t b o) fun s =>
    withParts s .store [(s.addrFM b o 128, 128)] fun ps s1 => storeParts s1 ps [(s.core.m t.toNat).toNat])

end Sys2Proof.Machine
end

