-- ==== Sys2Proof/Machine/Atomics.lean ====
section
/-! DEFINITION. Atomics and fences (AMO, CAS, FENCE): R177 to R182, R317 to R319, R330, R343. -/

namespace Sys2Proof.Machine

/-- The time of an atomic at its home, and the issuer's pts and .nord time afterwards (R178): uses 0, 1 and 3. -/
def atomicTime (s : State) (key use : Nat) : Nat × State :=
  let (_, r) := s.lineTimes key
  let c := s.core
  let t := match use with
    | 0 => max (c.pts + 1) (r + 1)
    | 1 => r + 1
    | _ => max (r + 1) (c.nordTime + 1)
  let c1 := match use with
    | 0 => { c with pts := t }
    | 1 => { c with usedTime := max c.usedTime t }
    | _ => { c with usedTime := max c.usedTime t, nordTime := t }
  (t, { s.setTimes key t t with core := c1 })

/-- The line of an atomic in its slice, and the quanta that come before its time (R154, R178, R180). -/
def atomicHome (s : State) (key leaf use : Nat) : State :=
  let s1 := if key < 2 ^ 40 then
      l2Fill s (key / 128 * 128) s.ctx.ddom (leafDedup leaf) (leafStream leaf) false else s
  settleWrite s1 key (match use with
    | 0 => s1.core.pts
    | 3 => s1.core.nordTime
    | _ => 0)

/-- An atomic with use none, .unp or .nord at a home on this module: the old value, and the state after the write of
`new` of it; none writes nothing but takes its time (R178, R318, R330). -/
def atomicAt (s : State) (key n leaf use : Nat) (new : Nat → Option Nat) : Nat × State :=
  let s1 := atomicHome s key leaf use
  let old := s1.readN key n
  let (_, s2) := atomicTime s1 key use
  match new old with
  | none => (old, s2)
  | some v =>
    let s3 := s2.noteCode key n
    (old, commitBytes s3 s3.ck s3.core.space key (leBytes n v) leaf)

/-- The value that a .spec atomic receives: the cluster's L1 copy, whatever its lease, else the home's (R181). -/
def specValue (s : State) (va key n leaf : Nat) : Nat :=
  match (if key < 2 ^ 40 && leafL1 leaf then s.cluster.l1? s.core.space va else none) with
  | some x => leNat ((x.data.drop (va % 128)).take n)
  | none => s.readN key n

/-- What a .spec atomic returns: the value, its error mark where the data it came from has one, which is recorded (R181,
R272). -/
def specRead (s : State) (d : BitVec 5) (p : Part) (key : Nat) : State :=
  let copy := if key < 2 ^ 40 && leafL1 p.leaf then s.cluster.l1? s.core.space p.addr.toNat else none
  let bad := match copy with
    | some x => x.ue
    | none => s.marked key p.n
  let s1 := if !bad then s
    else if copy.isSome then s.clusterError s.ck true 0 (s.cur % 8) s.core.space (wordOfNat key) 0
    else foundError s key s.core.space
  markX (s1.ret d (wordOfNat (specValue s p.addr.toNat key p.n p.leaf))) d.toNat (if bad then some p.addr else none)

/-- The pending update of a .com or .qnt atomic of the current task (R179, R180). -/
def pendingOf (s : State) (key n op leaf scope : Nat) (opnd : Word) : Pending :=
  { key := key, n := n, op := op, operand := opnd, scope := scope, ck := s.ck, slot := s.core.running.getD 4096,
    space := s.core.space, leaf := leaf, ddom := s.ctx.ddom }

/-- A .com atomic goes to its combiners (R179). -/
def comIssue (s : State) (p : Pending) : State := { s with pod := { s.pod with com := s.pod.com ++ [p] } }

/-- Whether the table of pending quanta of a location's home is full for it (R180): 4,096 locations in a slice, 64 in
an array. -/
def qntFull (s : State) (key : Nat) : Bool :=
  let home := fun (k : Nat) => if k < 2 ^ 40 then k / 2 ^ 36 else 16 + k / 262144
  let locs := ((s.pod.qnt.filter (fun p => home p.key == home key)).map (·.key)).eraseDups
  !locs.contains key && decide ((if key < 2 ^ 40 then 4096 else 64) ≤ locs.length)

/-- A .qnt atomic at its home (R180): its quantum, the value its destination receives, and the update among the
pending. A quantum whose boundary a lease of the line has passed counts as applied (log entry 18). -/
def qntIssue (s : State) (pts : Nat) (p : Pending) : Nat × State :=
  let (_, r) := s.lineTimes p.key
  let done := s.pod.qntDone.find? (fun x => x.1 == p.key)
  let first := match done with
    | some d => d.2.1 + 1
    | none => 0
  let q := max (pts / 64) (max first (r / 64))
  let v := match done with
    | some d => d.2.2.toNat % 2 ^ (8 * p.n)
    | none => s.readN p.key p.n
  (v, { s with pod := { s.pod with qnt := s.pod.qnt ++ [{ p with quantum := q, held := false }] } })

/-- Send an AMO or a CAS to another module's home, with the time of the task's previous .nord: the answer lands later in
register d, and of a .com or .qnt a second message tells when it was performed (R178, R182, R244, R313, R319). -/
def remoteAtomic (s : State) (d : BitVec 5) (handler m va n data use : Nat) : State :=
  let p := remotePacket s handler m va n data
  let s1 := s.send { p with reply := s.waiter d, msg := { p.msg with w3 := wordOfNat s.core.nordTime } }
  let s2 : State := if use = 2 ∨ use = 4 then
      { s1 with pod := { s1.pod with farUsed := s1.pod.farUsed ++ [(s.waiter d, s.task.launch)] } } else s1
  let order := match use with
    | 0 => 1
    | 1 => 2
    | 3 => 3
    | _ => 0
  (s2.addLate { dst := s.waiter d, value := 0, ready := false, order := order, addr := wordOfNat va, use := use, n := n }).adv

/-- AMO at a checked home (R318). -/
def amoAt (d : BitVec 5) (use scope op : Nat) (p : Part) (k : Nat) (opnd : Nat) (s : State) : State :=
  let bits := 8 * p.n
  let bad := s.marked k p.n
  let mark := if bad then some p.addr else none
  match use with
  | 2 => (comIssue s (pendingOf s k p.n op p.leaf scope (wordOfNat opnd))).ret d 0
  | 4 =>
    if qntFull s k then s.wait
    else
      let (v, s1) := qntIssue s s.core.pts (pendingOf s k p.n op p.leaf scope (wordOfNat opnd))
      let bare := bad && !s.pod.qntDone.any (·.1 == k)
      markX ((if bare then foundError s1 k s1.core.space else s1).ret d (wordOfNat v)) d.toNat (if bare then mark else none)
  | 5 => specRead s d p k
  | _ =>
    match beforeWrite s k p.n with
    | none => s.wait
    | some s1 =>
      let (old, s2) := atomicAt s1 k p.n p.leaf use (fun old => some (amoOp op bits old opnd))
      let s3 := if bad then foundError s2 k s2.core.space else s2
      markX (s3.ret d (wordOfNat old)) d.toNat mark

/-- AMO (R317 to R319). -/
def execAmo (d a : BitVec 5) (sc : BitVec 2) (u : BitVec 3) (z : BitVec 1) (o : BitVec 4) (s : State) : Out :=
  .next (s.legal (.amo d a sc u z o) fun s =>
    let n := if z = 0 then 8 else 4
    let opnd := (s.x d).toNat % 2 ^ (8 * n)
    withParts s .atomic [(s.x a, n)] fun ps s1 =>
      if orderWaits s1 u.toNat ps then s1.wait else
      match ps with
      | p :: _ =>
        match p.target with
        | .remote m va =>
          remoteAtomic s1 d 3 m va n (opnd + 2 ^ 64 * (o.toNat + 16 * u.toNat + 128 * sc.toNat)) u.toNat
        | t =>
          match t.key? with
          | some k => amoAt d u.toNat sc.toNat o.toNat p k opnd s1
          | none => s1.adv
      | [] => s1.adv)

/-- CAS at a checked home (R330). -/
def casAt (d : BitVec 5) (use : Nat) (p : Part) (k : Nat) (exp new : Nat) (s : State) : State :=
  let bad := s.marked k p.n
  let mark := if bad then some p.addr else none
  if use = 5 then specRead s d p k
  else
    match beforeWrite s k p.n with
    | none => s.wait
    | some s1 =>
      let (old, s2) := atomicAt s1 k p.n p.leaf use (fun old => if old = exp then some new else none)
      let s3 := if bad then foundError s2 k s2.core.space else s2
      markX (s3.ret d (wordOfNat old)) d.toNat mark

/-- CAS (R330). -/
def execCas (d a : BitVec 5) (u : BitVec 3) (z : BitVec 1) (s : State) : Out :=
  .next (s.legal (.cas d a u z) fun s =>
    let n := if z = 0 then 8 else 4
    let exp := (s.x d).toNat % 2 ^ (8 * n)
    let new := (s.core.x (d.toNat + 1)).toNat % 2 ^ (8 * n)
    withParts s .atomic [(s.x a, n)] fun ps s1 =>
      if orderWaits s1 u.toNat ps then s1.wait else
      match ps with
      | p :: _ =>
        match p.target with
        | .remote m va => remoteAtomic s1 d 4 m va n (exp + 2 ^ 64 * new + 2 ^ 128 * u.toNat) u.toNat
        | t =>
          match t.key? with
          | some k => casAt d u.toNat p k exp new s1
          | none => s1.adv
      | [] => s1.adv)

/-- Whether .unp, .nord or .spec atomics of the current task on other modules are unanswered (R182). -/
def answersPending (s : State) : Bool :=
  match s.core.running with
  | none => false
  | some slot => s.pod.late.any (fun l => l.dst.ck == s.ck && l.dst.slot == slot && l.dst.core.isNone && !l.ready &&
      (l.use == 1 || l.use == 3 || l.use == 5))

/-- FENCE and FENCE.e (R182, R343): waits for use-annotated atomics, with .e also for engine jobs and loom commands;
then pts reaches their times. -/
def execFence (e : BitVec 1) (s : State) : Out :=
  .next (
    if usedPending s || answersPending s || (e == 1 && jobsPending s) then s.wait
    else State.adv { s with core := { s.core with pts := max s.core.pts s.core.usedTime } })

/-- A combiner lets the k-th pending update go on to its home, where it arrives behind those released before (R179). -/
def releaseUpdate (com : List Pending) (k : Nat) : List Pending :=
  match com[k]? with
  | some p => if p.held then com.eraseIdx k ++ [{ p with held := false }] else com
  | none => com

/-- COMBINER_FLUSH (R179). -/
def execCombinerFlush (k : Nat) (s : State) : Out :=
  .next { s with pod := { s.pod with com := releaseUpdate s.pod.com k } }

/-- The updates of one batch: those at a location, released by their combiners, that share the first one's operation
and size (R179). -/
def batchOf (s : State) (key : Nat) : List Pending :=
  let here := s.pod.com.filter (fun p => !p.held && p.key == key)
  match here with
  | [] => []
  | p :: _ => here.filter (fun q => q.op == p.op && q.n == p.n)

/-- COM_BATCH_APPLY: one write at max(wts + 1, rts + 1) (R179). A home that a job still reads holds the batch (R173). -/
def execComBatchApply (key : Nat) (s : State) : Out :=
  .next (
    match batchOf s key with
    | [] => s
    | p :: ps =>
      match beforeWriteBy s {} key p.n with
      | none => s
      | some s0 =>
        let s1 := settleWrite (fillFor s0 p) key 0
        let (w, r) := s1.lineTimes key
        let s2 := applyUpdates s1 (p :: ps) (max (w + 1) (r + 1))
        { s2 with pod := { s2.pod with com := s2.pod.com.filter (fun q =>
            !(!q.held && q.key == key && q.op == p.op && q.n == p.n)) } })

/-- The quanta that a quantum at a location comes behind, itself the last: earlier ones of its line, of whatever location, in
their order (R164, R180). -/
def quantaUpTo (s : State) (loc quantum : Nat) : List (Nat × Nat) :=
  let mine := s.pod.qnt.filter (fun p => p.key / 128 == loc / 128 && (decide (p.quantum < quantum) || p.key == loc && p.quantum == quantum))
  sortBy (·.2) ((mine.map (fun p => (p.key, p.quantum))).eraseDups)

/-- QNT_QUANTUM_WRITE: the pending updates of a quantum at a location become one write at its boundary; earlier quanta
of its line come first (R180). -/
def execQntQuantumWrite (loc quantum : Nat) (s : State) : Out :=
  .next (
    match beforeWriteBy s {} (loc / 128 * 128) 128 with
    | none => s
    | some s0 => (quantaUpTo s0 loc quantum).foldl (fun s q => applyQuantum s q.1 q.2) s0)

end Sys2Proof.Machine
end

