-- ==== Sys2Proof/Machine/Check.lean ====
section
/-! DEFINITION. Checksums: CKACC and CKTST (R279, R331, R332). -/

namespace Sys2Proof.Machine

/-- Combine two vector operands lane by lane over the members. -/
def zipLanes (w : Nat) (f : Nat → Nat → Nat) (xs ys : List Vec) : List Vec :=
  (xs.zip ys).map (fun p => ofLanes w (((lanes p.1 w).zip (lanes p.2 w)).map (fun q => f q.1 q.2)))

/-- CKACC: nearest-even additions, whatever FPMODE says (R331). -/
def execCkacc (d a : BitVec 5) (s : State) : Out :=
  .next (s.legal (.ckacc d a) fun s =>
    match s.readMembers d.toNat 0 s.members, s.readMembers a.toNat 0 s.members with
    | .inl ds, .inl xs => (writeMembers d.toNat 0 s s.members (zipLanes 32 fadd32 ds xs)).adv
    | _, _ => s.adv)

/-- The magnitude of a value. -/
def Val.abs : Val → Val
  | .fin _ m e => .fin false m e
  | .inf _ => .inf false
  | v => v

/-- Whether a lane of CKTST fails (R332). -/
def ckFails (t x y : Nat) : Bool :=
  let vt := f32.dec t
  let vx := f32.dec x
  let vy := f32.dec y
  vx.isNan || vy.isNan || vt.isNan || (!vx.eq vy && vt.lt (vx.sub 0 vy).abs)

/-- The lanes that satisfy a test, ascending. -/
def failing (p : Nat → Bool) (n : Nat) : List Nat := (List.range n).filter p

/-- CKTST: the trap is the member's whose lane fails first (R51, R332). -/
def execCktst (x y b : BitVec 5) (s : State) : Out :=
  .next (s.legal (.cktst x y b) fun s =>
    match s.readMembers x.toNat 0 s.members, s.readMembers y.toNat 0 s.members with
    | .inl xs, .inl ys =>
      let lx := allLanes xs 32
      let ly := allLanes ys 32
      let t := (s.x b).toNat % 4294967296
      match failing (fun l => ckFails t (lx.getD l 0) (ly.getD l 0)) lx.length with
      | [] => s.adv
      | l :: ls => trapMember s (s.members.getD (l / 16) 0 % 8) 14 (wordOfNat (l + 256 * min 127 (ls.length + 1)))
    | _, _ => s.adv)

end Sys2Proof.Machine
end

