-- ==== Sys2Proof/Machine/Create.lean ====
section
/-! DEFINITION. SPAWN and LAUNCH (R31, R33, R88, R89, R355, R413). -/

namespace Sys2Proof.Machine

/-- SPAWN (R31, R413). An uncorrectable error in the descriptor takes UE. -/
def execSpawn (f a : BitVec 5) (d : BitVec 16) (s : State) : Out :=
  .next (s.legal (.spawn f a d) fun s =>
    let e := spawnEntry s d
    withParts s .load [(e - 32, 32)] fun ps s => if unacked s then s.wait else loadParts s ps fun vs s1 =>
      match vs with
      | (_, some m) :: _ => trap s1 16 m
      | (bs, none) :: _ =>
        withEntry s1 fun s2 slot gen =>
          let t := s2.task
          let h := futureHandle s2.pod.module s2.ck slot gen
          let args := [s2.core.x a.toNat, s2.core.x (a.toNat + 1), s2.core.x (a.toNat + 2), s2.core.x (a.toNat + 3)]
          let child := { taskOf s2 s2.ck s2.core.space e (leBytes 32 bs) args h t.launch t.cls (some t.deadline) with
                         visible := true }
          (createTask s2 s2.ck slot gen child (parentLink t) s2.core.pts).ret f h
      | [] => s1)

/-- Whether a launch must go to the spill area: the die's queue is full or the context has spilled launches, on whatever
die they were made (R88, R283). -/
def mustSpill (s : State) : Bool :=
  decide (1024 ≤ (s.dieAt (s.ck / 4096)).launchQ.length) ||
    s.dies.any (fun d => d.2.spilled.any (fun q => q.space == s.core.space))

/-- The code for which a record is refused by itself (R309), 0 for none. -/
def recordFault (words : List Word) : Nat :=
  let w := fun (j : Nat) => (words.getD j 0).toNat
  let bad := fld (w 2) 52 12 != 0 || fld (w 13) 49 15 != 0 || w 15 != 0 || decide (256 < fld (w 2) 32 16) || w 0 % 32 != 0 ||
    (fld (w 13) 0 32 == 0 && (fld (w 13) 32 17 != 0 || w 14 != 0))
  if bad then 0x207 else 0

/-- Whether another launch of a graph has a key (R309). -/
def keyTaken (s : State) (graph : Word) (key : Nat) : Bool :=
  key != 0 && (match s.ladder? graph with
    | some g => g.keys.any (fun x => x.1 == key)
    | none => false)

/-- A launch of a graph was created: the key that it holds, and whether it is marked final (R54, R309). -/
def joinGraph (s : State) (graph : Word) (key : Nat) (final : Bool) : State :=
  match s.ladder? graph with
  | some g => if g.kind == .graph then
      s.putLadder graph { g with keys := if key = 0 then g.keys else mput g.keys key false, final := g.final || final }
    else s
  | none => s

/-- LAUNCH once its record is read (R88, R355). -/
def launchWith (d : BitVec 5) (words : List Word) (rec : Part) (s : State) : State :=
  let die := s.ck / 4096
  if !mustSpill s then launchBody s none
  else
    match lspillHeader (s.heddleAt s.ck s.core.pts) s.ck s.core.space with
    | (none, s1) => (fatalAt s1 die s.core.space 0x311 8 (wordOfNat s.ctx.lspill) s.core.pts).wait
    | (some hp, s1) =>
      if s1.readN (hp.key + 12) 4 == s1.readN hp.key 4 then trap s1 9 (wordOfNat (s1.readN hp.key 4))
      else
        match lspillSlot s1 s.ck s.core.space (s1.readN (hp.key + 8) 4) with
        | (none, s2) => (fatalAt s2 die s.core.space 0x311 8 (lspillVa s s.ck s.core.space (s1.readN (hp.key + 8) 4)) s.core.pts).wait
        | (some slot, s2) => launchBody s2 (some (hp, slot))
where
  /-- Allocation of the completion futures, the launch's and that of a graph that it creates (R54, R64, R69). LAUNCH never
  blocks (R33): where the die's ladder table has no free record it takes LQFULL with the table's size (log entry 20). -/
  launchBody (s : State) (spills : Option (Spot × Spot × Spot)) : State :=
    let die := s.ck / 4096
    match freeLadder s die with
    | none => trap s 9 4096
    | some i =>
      let tag := fld (words.getD 13 0).toNat 0 32
      let phase := ((jobOf s s.core.space).map (·.2.current)).getD 0
      let dead := parentCancelled s phase || (tag != 0 && (graphOf s s.core.space tag).any (parentCancelled s))
      if tag == 0 || (graphOf s s.core.space tag).isSome then
        withEntry s fun s1 slot gen => launchPlaced s1 spills dead i slot gen 0
      else if (freeLadderBut s die (some i)).isNone then trap s 9 4096
      else
        withEntry s fun s1 slot gen =>
          withSecondEntry s1 slot gen fun s2 slot2 gen2 =>
            let fut := futureHandle s2.pod.module s2.ck slot2 gen2
            launchPlaced (s2.newEntry s2.ck s2.core.space slot2 gen2 0 0 0 false) spills dead i slot gen fut
  /-- The ladder records, the entries and the record's place in the queue; `graph` is a new graph's future. The launch is
  cancelled at once where its graph or phase was (R83). -/
  launchPlaced (s1 : State) (spills : Option (Spot × Spot × Spot)) (dead : Bool) (i slot gen : Nat) (graph : Word) : State :=
    let die := s1.ck / 4096
    let t := s1.task
    let fut := futureHandle s1.pod.module s1.ck slot gen
    let jobR := jobOf s1 s1.core.space
    let job := (jobR.map (·.1)).getD 0
    let phase := (jobR.map (·.2.current)).getD 0
    let w := fun (j : Nat) => (words.getD j 0).toNat
    let (g, s2) := if fld (w 13) 0 32 == 0 then (phase, s1)
      else graphFor s1 die i s1.core.space (fld (w 13) 0 32) phase job graph
    let taken := keyTaken s2 g (fld (w 13) 32 16)
    let key := if taken then 0 else fld (w 13) 32 16
    let (h, s4) := makeLadder s2 die i
      { kind := .launch, space := s2.core.space, future := fut, parent := g, job := job,
        tag := fld (w 13) 0 32, key := key, final := bit (w 13) 48,
        preds := ((List.range 4).map (fun j => fld (w 14) (16 * j) 16)).filter (· != 0) } 1
    let s5 := joinGraph (s4.newEntry s4.ck s4.core.space slot gen (if g == 0 then job else g) h 0 false) g key (bit (w 13) 48)
    let s6 := storePart s5 rec h.toNat
    let fault := recordFault words
    let q : QLaunch := { words := words.set 1 h, handle := h, space := s6.core.space, ck := s6.ck, cls := t.cls,
                         deadline := (words.getD 12 0).toNat, time := s6.core.pts
                         refused := if fault != 0 then fault else if taken then 0x208 else 0 }
    let s7 := match spills with
      | some (hp, slot) => appendSpilled s6 hp slot q
      | none =>
        let x := s6.dieAt die
        s6.putDie die { x with launchQ := x.launchQ ++ [q] }
    let s8 := if dead then (cancelLadder (cancelLaunch s7 h s7.core.pts) (if hSub g == 2 then g else h) s7.core.pts).2 else s7
    s8.ret d fut

/-- LAUNCH (R33, R88, R355): the whole record and its handle field are checked first. An uncorrectable error in the
record takes UE (log entry 17). -/
def execLaunch (d a : BitVec 5) (s : State) : Out :=
  .next (
    let p := s.x a
    if p.toNat % 64 != 0 then trap s 3 p
    else
      withParts s .load [(p, 64), (p + 64, 64)] fun ps s1 =>
        withParts s1 .store [(p + 8, 8)] fun hs s2 =>
          match (if unacked s2 then none else beforeParts s2 hs) with
          | none => s2.wait
          | some s3 => loadParts s3 ps fun vs s4 =>
              match vs, hs with
              | [(lo, none), (hi, none)], [h] =>
                let words := (List.range 16).map (fun j => wordOfNat ((lo + hi * 2 ^ 512) >>> (64 * j)))
                launchWith d words h s4
              | _, _ => trap s4 16 p)

end Sys2Proof.Machine
end

