-- ==== Sys2Proof/Machine/Engines.lean ====
section
/-! DEFINITION. Engine jobs and operand queues: CPY, CPY_Q, GATH, SCAT, ADV, PERMIT and the events of jobs in flight
(R125 to R127, R173 to R176, R235 to R242, R316, R336, R347, R399, R409). -/

namespace Sys2Proof.Machine

/-- The jobs of the current core that are outstanding (R237). -/
def outstanding (s : State) : Nat :=
  (s.pod.jobs.filter (fun j => j.ck == s.ck && j.core == s.cur % 8 && !j.dead)).length

/-- Issue a job at pts + 1 (R173) and go on. -/
def issueJob (s : State) (j : Job) : State :=
  let t := s.core.pts + 1
  let slot := s.core.running.getD 4096
  let rs := footprint j.kind j.rsegs
  let key := s.issueKey s.ck (8 + s.cur % 8) t rs (footprint j.kind j.wsegs)
  let job := { j with id := s.pod.jobSeq, seq := s.pod.jobSeq, ck := s.ck, core := s.cur % 8, slot := slot,
                      count := (s.cluster.entry slot).count, space := s.core.space, ddom := s.ctx.ddom, ti := t
                      cls := s.task.cls, launch := s.task.launch, key := key, base := s.core.unit.base }
  State.adv { s with pod := { s.pod with jobs := s.pod.jobs ++ [job], jobSeq := s.pod.jobSeq + 1 }
                     core := { s.core with pts := t } }

/-- The footprints of a copy and its failure, if any: which of two failures is reported is free. A copy that fails keeps as
much of its footprints as both its addresses reach (R176, R236; log entry 19). -/
def copySegs (s : State) (src dst : Word) (len : Nat) (queue : Bool) : Option (Nat × Nat) × List Seg × List Seg × State :=
  let (rs, re, s1) := reach s s.ck s.core.space src len false
  let (ws, we, s2) := if queue then ([], none, s1) else reach s1 s1.ck s1.core.space dst len true
  let n := min (rs.map Seg.len).sum (ws.map Seg.len).sum
  match re, we with
  | none, none => (none, rs, ws, s2)
  | some e, none => (some e, takeSegs n rs, takeSegs n ws, s2)
  | none, some e => (some e, takeSegs n rs, takeSegs n ws, s2)
  | some e, some f =>
    let (v, s3) := s2.choose
    (some (if v % 2 = 0 then e else f), takeSegs n rs, takeSegs n ws, s3)

/-- Issue a copy (R235 to R238, R336): faults of its addresses stand in its status word. -/
def copyOp (st : BitVec 5) (src dst : Word) (queue : Option Nat) (s : State) : State :=
  let len := (s.x st).toNat
  if queue.isSome && len % 64 != 0 then trap s 3 (wordOfNat len)
  else if 96 ≤ outstanding s || unacked s then s.wait
  else
    let ready := match queue with
      | some q => reserveQueue s s.cur q
      | none => some s
    match ready with
    | none => s.wait
    | some s1 =>
      let (e, rs, ws, s2) := copySegs s1 src dst len queue.isSome
      let job : Job := { kind := .copy, dest := s2.core.b + st.toNat, src := src, dst := dst, len := len, queue := queue
                         rsegs := rs, wsegs := ws }
      match e with
      | some (c, r) => issueJob s2 { job with code := c, reason := r }
      | none => issueJob s2 job

/-- CPY between addresses (R235, R336). -/
def execCpy (st r d : BitVec 5) (s : State) : Out :=
  .next (s.legal (.cpy st r d) fun s => copyOp st (s.x r) (s.x d) none s)

/-- CPY into a queue of the issuing core (R235, R336). -/
def execCpyQ (st r : BitVec 5) (q : BitVec 3) (s : State) : Out :=
  .next (s.legal (.cpyQ st r q) fun s => copyOp st (s.x r) 0 (some q.toNat) s)

/-- What stops a gather or scatter: the element's place among the lanes, the cause and the TVAL. -/
abbrev LaneTrap := Nat × Nat × Word

/-- Resolve every element of a gather or scatter: all segments, or ALIGN of the lowest misaligned lane before XFAULT of
the lowest failing one (R242, R267). The state carries the translations. -/
def elementSegs (k : AccKind) (w : Nat) : Nat → State → List Word → List Seg × Option LaneTrap × Option LaneTrap × State
  | _, s, [] => ([], none, none, s)
  | lane, s, a :: rest =>
    let (r, s1) := resolve s s.ck s.core.space a w k
    let (gs, al, xf, s2) := elementSegs k w (lane + 1) s1 rest
    match r with
    | .ok t leaf =>
      match t.seg w leaf false with
      | some g => (g :: gs, al, xf, s2)
      | none => (gs, al, xf, s2)
    | .trap 3 v => (gs, some (lane, 3, v), xf, s2)
    | .trap c v => (gs, al, some (lane, c, v), s2)

/-- The head value of a vector or queue operand over the members: a queue offset is ignored (R241). -/
def headV (s : State) (spec : BitVec 5) : List Vec ⊕ (Nat × Word) := s.readMembers spec.toNat 0 s.members

/-- Run a body with the elements' segments, or take their trap, a follower's lane on its member (R51, R242). -/
def withElements (s : State) (k : AccKind) (base : Word) (idx : List Vec) (t : Nat) (body : List Seg → State → State) :
    State :=
  let e := if laneBits t = 64 then 8 else 16
  match elementSegs k (laneBits t / 8) 0 s (elementAddrs base idx t) with
  | (_, some (l, c, v), _, s1) => trapMember s1 (memberNo s1 (l / e)) c v
  | (_, none, some (l, c, v), s1) => trapMember s1 (memberNo s1 (l / e)) c v
  | (gs, none, none, s1) => body gs s1

/-- GATH (R241, R242, R347). -/
def execGath (d a i t : BitVec 5) (s : State) : Out :=
  .next (s.legal (.gath d a i t) fun s =>
    match headV s i with
    | .inr (m, v) => trapMember s m 15 v
    | .inl idx =>
      withElements s .gather (s.x a) idx t.toNat fun gs s1 =>
        if 96 ≤ outstanding s1 || unacked s1 then s1.wait
        else
          match reserveMembers s1 d.toNat s1.members with
          | none => s1.wait
          | some s2 => issueJob s2
              { kind := .gather, dest := d.toNat, queue := if d.toNat < 24 then none else some (d.toNat - 24),
                rsegs := gs, width := laneBits t.toNat / 8, members := s2.members.length, src := s2.x a,
                len := gs.length })

/-- SCAT: the payload is read at issue (R241, R409). -/
def execScat (v a i t : BitVec 5) (s : State) : Out :=
  .next (s.legal (.scat v a i t) fun s =>
    match headV s v, headV s i with
    | .inr (m, x), _ => trapMember s m 15 x
    | _, .inr (m, x) => trapMember s m 15 x
    | .inl vs, .inl idx =>
      withElements s .scatter (s.x a) idx t.toNat fun gs s1 =>
        if 96 ≤ outstanding s1 || unacked s1 then s1.wait
        else
          let w := laneBits t.toNat
          let e := if w = 64 then 8 else 16
          let data := vs.flatMap (fun v => (lanes v w).take e)
          issueJob s1 { kind := .scatter, wsegs := gs, width := w / 8, data := data, readDone := true, dst := s1.x a,
                        len := gs.length })

/-- The core that runs a job's task, if one does. -/
def jobCore (s : State) (j : Job) : Option Nat := (coreKeys j.ck).find? (fun k => (s.coreAt k).running == some j.slot)

/-- The key of member m of the gang that a core leads. -/
def memberKey (s : State) (k m : Nat) : Nat :=
  if m = 0 then k else k / 8 * 8 + (blockOf (k % 8) (gangSize (s.coreAt k).gang.code)).getD m (k % 8)

/-- A queue of a member of a job's task, on its core or beside its task record (R127, R133). -/
def jobQueue (s : State) (j : Job) (q m : Nat) : OpQueue :=
  match jobCore s j with
  | some k => (s.coreAt (memberKey s k m)).q q
  | none =>
    let p := ((s.clusterAt j.ck).task j.slot).parked
    mget (fun _ => {}) (if m = 0 then p.queues else p.followers.getD (m - 1) []) q

/-- Replace such a queue. -/
def putJobQueue (s : State) (j : Job) (q m : Nat) (x : OpQueue) : State :=
  match jobCore s j with
  | some k => let n := memberKey s k m; s.putCore n ((s.coreAt n).setQ q x)
  | none =>
    let c := s.clusterAt j.ck
    let t := c.task j.slot
    let p := t.parked
    let p1 := if m = 0 then { p with queues := mput p.queues q x }
      else { p with followers := p.followers.set (m - 1) (mput (p.followers.getD (m - 1) []) q x) }
    s.putCluster j.ck { c with tasks := mput c.tasks j.slot { t with parked := p1 } }

/-- Land one slot at a queue's tail and publish it; none where the queue has no room (R126). -/
def landSlot (s : State) (j : Job) (q m : Nat) (bytes : List Byte) (mark : Option Nat) : Option State :=
  let x := jobQueue s j q m
  match x.region with
  | none => some s
  | some r =>
    if 16 ≤ x.n then none
    else
      let i := (x.head + x.n) % 16
      let marks := match mark with
        | some v => mput x.marks i v
        | none => mdel x.marks i
      let segs := [Seg.mem (slotKey j.ck r i) 64 0]
      let (t, s0) := writePass s segs (max j.ti j.tr + 1)
      let s1 := writeSegs { ck := j.ck, space := j.space, time := t } s0 segs bytes
      some (putJobQueue s1 j q m { x with n := x.n + 1, waits := false, marks := marks })

/-- ADV on one member's queue: its new state, or the QUNDER TVAL (R125). -/
def advQueue (x : OpQueue) (q : Nat) (tail : Bool) (c : Nat) : OpQueue ⊕ Word :=
  if tail then
    if 16 < x.n + c then .inr (qunderVal q true c) else .inl { x with n := x.n + c }
  else if x.n < c then .inr (qunderVal q false c)
  else .inl { x with head := (x.head + c) % 16, n := x.n - c }

/-- ADV on every member, or the first member's QUNDER (R125). -/
def advAll (q : Nat) (tail : Bool) (c : Nat) : State → List Nat → State ⊕ (Nat × Word)
  | s, [] => .inl s
  | s, k :: ks =>
    let x := s.coreAt k
    match advQueue (x.q q) q tail c with
    | .inr v => .inr (k % 8, v)
    | .inl y => advAll q tail c (s.putCore k (x.setQ q y)) ks

/-- ADV (R125, R316): a tail move of a queue that is named first here reserves its region (R127). -/
def execAdv (q : BitVec 5) (e : BitVec 1) (c : BitVec 4) (s : State) : Out :=
  .next (s.legal (.adv q e c) fun s =>
    match advAll (q.toNat - 24) (e == 1) (c.toNat + 1) s s.members with
    | .inr (m, v) => trapMember s m 15 v
    | .inl _ =>
      match reserveMembers s q.toNat s.members with
      | none => s.wait
      | some s1 =>
        match advAll (q.toNat - 24) (e == 1) (c.toNat + 1) s1 s1.members with
        | .inl s2 => s2.adv
        | .inr (m, v) => trapMember s1 m 15 v)

/-- Whether a local range is a task's own: a `.region` of its context or a landing region of the task (R240). -/
def ownRange (s : State) (off len : Nat) : Bool :=
  let inside := fun (o l : Nat) => decide (o ≤ off) && decide (off + len ≤ o + l)
  s.ctx.dataRegions.any (fun r => inside r.1 r.2) ||
    s.cluster.regions.any (fun r => s.core.running == some r.slot && inside r.off r.len)

/-- Revoke the permits of the current task that cover an offset: the result word and the state (R240, R399). -/
def revoke (s : State) (off : Nat) : Nat × State :=
  let c := s.cluster
  let hit := fun (p : Nat × Permit) => s.core.running == some p.2.slot && decide (p.2.off ≤ off) &&
    decide (off < p.2.off + p.2.len)
  match minBy (·.1) (c.permits.filter hit) with
  | none => (2, s)
  | some p => (p.1 * 256, s.putCluster s.ck { c with permits := c.permits.filter (fun p => !hit p) })

/-- Grant a permit: the result word and the state (R240, R399); the lowest free index is log entry 69. -/
def grant (s : State) (off len : Nat) : Nat × State :=
  let c := s.cluster
  if !ownRange s off len then (2, s)
  else
    match firstBelow 32 (fun i => !c.permits.any (fun p => p.1 == i)) with
    | none => (1, s)
    | some i =>
      let p : Permit := { off := off, len := len, slot := s.core.running.getD 4096, space := s.core.space }
      (i * 256, s.putCluster s.ck { c with permits := mput c.permits i p })

/-- PERMIT (R240, R399). -/
def execPermit (d a b : BitVec 5) (s : State) : Out :=
  .next (
    let base := s.x a
    let len := (s.x b).toNat
    if base.toNat % 128 != 0 || len % 128 != 0 then trap s 3 base
    else
      match formOf base with
      | .near off =>
        if len = 0 then let (r, s1) := revoke s off; s1.ret d (wordOfNat r)
        else if 229376 < len || s.cluster.spad < off + len then trap s 4 (xval base 7)
        else if s.cluster.inPark off len then trap s 4 (xval base 9)
        else let (r, s1) := grant s off len; s1.ret d (wordOfNat r)
      | _ => trap s 4 (xval base 6))

/-- The job with an identity that is in flight. -/
def State.job? (s : State) (id : Nat) : Option Job := s.pod.jobs.find? (fun j => j.id == id && !j.dead)

/-- Replace a job. -/
def State.putJob (s : State) (j : Job) : State :=
  { s with pod := { s.pod with jobs := s.pod.jobs.map (fun x => if x.id == j.id then j else x) } }

/-- A job is over. -/
def State.dropJob (s : State) (id : Nat) : State :=
  { s with pod := { s.pod with jobs := s.pod.jobs.filter (fun j => j.id != id) } }

/-- Fill the HBM lines that a job reads into their slices (R154, R156). -/
def fillSegs (s : State) (segs : List Seg) (dom : Nat) : State :=
  segs.foldl (fun s g =>
    match g with
    | .mem k n leaf => if n = 0 || 2 ^ 40 ≤ k then s else
        (List.range ((k + n - 1) / 128 + 1 - k / 128)).foldl
          (fun s i => l2Fill s ((k / 128 + i) * 128) dom (leafDedup leaf) (leafStream leaf) false) s
    | _ => s) s

/-- The key of the first of some segments that has an uncorrectable error. -/
def markedKey (s : State) (segs : List Seg) : Option Nat :=
  segs.findSome? (fun g => match g with
    | .mem k n _ => if s.marked k n then some k else none
    | _ => none)

/-- An uncorrectable error where a job writes is recorded (R272). -/
def noteSegs (s : State) (space : Nat) (segs : List Seg) : State :=
  match markedKey s segs with
  | some k => foundError s k space
  | none => s

/-- The read requests of a job for a stretch on another module, packet by packet (R149, R165, R168, R252). -/
def askPieces (j : Job) (m : Nat) : Nat → State → Nat → Nat → State
  | 0, s, _, _ => s
  | fuel + 1, s, va, n =>
    let k := packetLen va n
    let p : Packet := { srcModule := s.pod.module, src := j.ck, dstModule := m, dst := j.ck, target := wordOfNat va
                        msg := { handler := 1, space := j.space, w0 := wordOfNat va, w1 := wordOfNat k
                                 w2 := wordOfNat (j.id + 1), w3 := 1, cls := j.cls, time := j.ti } }
    let s1 := s.send p
    if n ≤ k then s1 else askPieces j m fuel s1 (va + k) (n - k)

/-- A job asks other modules for what it reads there. -/
def askFar (s : State) (j : Job) : State :=
  (j.rsegs.foldl (fun s g => match g with
    | .remote m va n => askPieces j m (n / 2048 + 2) s va n
    | _ => s) s).putJob { j with asked := true, acks := packetCount j.rsegs }

/-- The bytes that came from another module, packet by packet. -/
def farBytes (got : SMap Nat) : Nat → Nat → Nat → List Byte
  | 0, _, _ => []
  | fuel + 1, va, n =>
    let k := packetLen va n
    leBytes k (mget (fun _ => 0) got va) ++ (if n ≤ k then [] else farBytes got fuel (va + k) (n - k))

/-- The bytes that a job reads of segments: its own answers from other modules, what stands at the other homes. -/
def jobBytes (j : Job) (s : State) : List Seg → List Byte × State
  | [] => ([], s)
  | g :: gs =>
    let (bs, s1) := match g with
      | .remote _ va n => (farBytes j.got (n / 2048 + 2) va n, s)
      | g => readSegs s [g]
    let (rest, s2) := jobBytes j s1 gs
    (bs ++ rest, s2)

/-- Whether what came of a stretch on another module has an uncorrectable error. -/
def farBad (j : Job) : Seg → Bool
  | .remote _ va n => j.got.any (fun x => decide (va ≤ x.1) && decide (x.1 < va + n) && bit x.2 markBit)
  | _ => false

/-- Whether something of a stretch on another module did not come, since an engine does not reach it (R236 code 0x06). -/
def farMissing (j : Job) : Seg → Bool
  | .remote _ va n =>
    decide ((j.got.filter (fun x => decide (va ≤ x.1) && decide (x.1 < va + max n 1))).length < packetsOf (n / 2048 + 2) va n)
  | _ => false

/-- The memory that a job reads: where a home has kept a line for it, the line as it stood, without the marks that came later
(R173). -/
def Job.view (j : Job) (s : State) : State :=
  { j.kept.foldl (fun s x => s.writeBytes x.1 (leBytes 128 x.2)) s with
    bad := s.bad.filter (fun g => !j.kept.any (fun x => x.1 == 8 * g / 128 * 128)) }

/-- Read as a job does; the memory stays. -/
def Job.reads {α : Type} (j : Job) (s : State) (f : State → α × State) : α × State :=
  if j.kept.isEmpty then f s
  else
    let (a, t) := f (j.view s)
    (a, { t with mem := s.mem, bad := s.bad })

/-- The bytes of a gather's elements, zero where the data has an error, and the mask of those lanes (R242). -/
def gatherBytes (j : Job) (s : State) : List Seg → Nat → (List Nat × Nat) × State
  | [], _ => (([], 0), s)
  | g :: gs, lane =>
    let bad := g.marked s || farBad j g
    let (bs, s1) := jobBytes j s [g]
    let s2 := match g with
      | .mem k _ _ => if bad then foundError s1 k j.space else s1
      | _ => s1
    let ((rest, m), s3) := gatherBytes j s2 gs (lane + 1)
    (((if bad then 0 else leNat bs) :: rest, (if bad then m + 2 ^ lane else m)), s3)

/-- JOB_READ_PASS_DONE: the job reads its whole read footprint at t_r (R173, R174, R236 code 0x01, R242). -/
def execJobReadPassDone (id : Nat) (s : State) : Out :=
  .next (
    match s.job? id with
    | none => s
    | some j =>
      if j.readDone || readBlocked s j then s
      else if !j.asked && packetCount j.rsegs != 0 then askFar s j
      else if j.acks != 0 then s
      else
        let s0 := fillSegs s j.rsegs j.ddom
        let t := if j.kept.isEmpty then readPass s0 j.rsegs (max j.ti j.tr) else j.tr
        let s1 := if j.kept.isEmpty then readTimes s0 j.rsegs t else s0
        match j.kind with
        | .gather =>
          let ((vs, m), s2) := j.reads s1 (fun s => gatherBytes j s j.rsegs 0)
          s2.putJob { j with readDone := true, tr := t, data := vs, mask := m, kept := [] }
        | _ =>
          let v := if j.kept.isEmpty then s1 else j.view s1
          if j.rsegs.any (fun g => g.marked v || farBad j g) then
            let (bs, s2) := j.reads s1 (fun s => jobBytes j s (takeSegs (soundLen v false j.rsegs) j.rsegs))
            let s3 := match markedKey v j.rsegs with
              | some k => foundError s2 k j.space
              | none => s2
            s3.putJob { j with readDone := true, tr := t, bytes := bs, code := if j.code = 0 then 1 else j.code, kept := [] }
          else
            let (bs, s2) := j.reads s1 (fun s => jobBytes j s (j.rsegs.takeWhile (fun g => !farMissing j g)))
            s2.putJob { j with readDone := true, tr := t, bytes := bs, kept := [] })

/-- The unhandled failures after a value has landed in a register, with its own failure code or 0 (R273). -/
def landedFails (l : List (Option Nat × Nat)) (reg fail : Nat) : List (Option Nat × Nat) :=
  l.map (fun f => if f.1 == some reg then (none, f.2) else f) ++ (if fail = 0 then [] else [(some reg, fail)])

/-- The marks after a value has landed in a register, with its own mark (R242, R268). -/
def landedMarks (l : SMap Word) (reg : Nat) (mark : Option Word) : SMap Word :=
  match mark with
  | some a => mput l reg a
  | none => mdel l reg

/-- Deliver a value to a general register of a task, wherever the task stands (R41, R108, R313): the running core's
register or stack slot, or the parked task's image; with the failure and the mark it brings, in the place of those that the
register had (R242, R268, R273). -/
def deliverWord (s : State) (ck slot reg : Nat) (v : Word) (t fail : Nat) (mark : Option Word) : State :=
  match (coreKeys ck).find? (fun k => (s.coreAt k).running == some slot) with
  | some k =>
    let c := s.coreAt k
    let s1 := if reg < c.f then stackWord s ck c.space slot (3648 + 8 * reg) v else s.putCore k (c.setLogical reg v)
    let c1 := s1.coreAt k
    s1.putCore k { c1 with pts := max c1.pts t, fails := landedFails c1.fails reg fail, gmarks := landedMarks c1.gmarks reg mark }
  | none =>
    let s1 := lateImage s ck slot reg v
    let c := s1.clusterAt ck
    let x := c.task slot
    let p := x.parked
    let p1 := { p with fails := landedFails p.fails reg fail, gmarks := landedMarks p.gmarks reg mark }
    s1.putCluster ck { c with tasks := mput c.tasks slot { x with pts := max x.pts t, parked := p1 } }

/-- A copy writes its status word and is over (R236, R237); FENCE.e learns its time (R182). -/
def finishCopy (s : State) (j : Job) (code reason committed t : Nat) : State :=
  let s1 := (bumpUsed s j.ck j.slot t).dropJob j.id
  if j.discard then s1
  else deliverWord s1 j.ck j.slot j.dest (statusWord code reason committed 12) t code none

/-- The writer of a job's bytes at a time: `job` is one more than its number where acknowledgements are waited for. -/
def Job.writer (j : Job) (t job : Nat) : Writer :=
  { ck := j.ck, space := j.space, job := job, cls := j.cls, time := t, dom := some j.ddom, all := j.wsegs }

/-- How many of the first bytes of a copy stand on this module: what of it is committed for certain where its packets are lost
(R236, R257). -/
def hereLen : List Seg → Nat
  | .remote _ _ _ :: _ => 0
  | g :: gs => g.len + hereLen gs
  | [] => 0

/-- Write some of the bytes of segments: the first ones below a count, and of those behind it the ones that a choice names
(R176). -/
def someBytes (s : State) (w : Writer) (segs : List Seg) (bytes : List Byte) (count choice : Nat) : State :=
  let cells := (segs.flatMap (fun g => (List.range g.len).map (fun i => g.slice i 1))).zip bytes
  let kept := (cells.zipIdx.filter (fun x => decide (x.2 < count) || bit choice x.2)).map (·.1)
  writeSegs w s (kept.map (·.1)) (kept.map (·.2))

/-- What a failed copy leaves of its bytes (R176, R236): a free count of committed bytes, and of those behind it a free
choice of which hold the copied value (log entry 19). -/
def commitPart (s : State) (j : Job) (t : Nat) : Nat × State :=
  let n := min j.bytes.length (soundLen s true j.wsegs)
  let (v, s1) := s.choose
  let (w, s2) := s1.choose
  let c := v % (n + 1)
  (c, someBytes s2 (j.writer t 0) j.wsegs (j.bytes.take n) c w)

/-- A failed copy is over (R176, R236). -/
def failCopy (s : State) (j : Job) (code reason : Nat) : State :=
  let t := max j.ti j.tr + 1
  if j.queue.isSome || j.bytes.isEmpty then finishCopy s j code reason 0 t
  else if j.sent then
    if code != 5 && j.acks != 0 then s else
    let (v, s1) := s.choose
    finishCopy s1 j code reason (v % (hereLen j.wsegs + 1)) t
  else if writeBlocked s j || !permitted s j.ck j.space j.wsegs then s
  else
    match beforeSegs s (.ofJob j.ck j.seq j.key) j.wsegs with
    | none => s
    | some s0 =>
      let (t1, s1) := writePass s0 j.wsegs t
      let (c, s2) := commitPart s1 j t1
      finishCopy s2 j code reason c t1

/-- COPY_COMPLETE: the copy's bytes are written at t_c and its status word after them (R173 to R176, R236, R239). -/
def execCopyComplete (id : Nat) (s : State) : Out :=
  .next (
    match s.job? id with
    | none => s
    | some j =>
      if j.kind != .copy || !j.readDone then s
      else if j.code != 0 then failCopy s j j.code j.reason
      else if j.queue.isSome then
        if j.landed * 64 < j.len && !j.discard then s else finishCopy s j 0 0 j.len (max j.ti j.tr + 1)
      else if j.sent then
        if j.acks != 0 then s else finishCopy s j 0 0 j.len (max j.ti j.tr + 1)
      else if writeBlocked s j || !permitted s j.ck j.space j.wsegs then s
      else if j.wsegs.any (·.marked s) then failCopy (noteSegs s j.space j.wsegs) j 2 0
      else
        match beforeSegs s (.ofJob j.ck j.seq j.key) j.wsegs with
        | none => s
        | some s0 =>
          let (t, s1) := writePass s0 j.wsegs (max j.ti j.tr + 1)
          let far := packetCount j.wsegs
          let s2 := writeSegs (j.writer t (j.id + 1)) s1 j.wsegs j.bytes
          if far = 0 then finishCopy s2 j 0 0 j.len t else s2.putJob { j with sent := true, acks := far, tr := t - 1 })

/-- QUEUE_SLOT_LANDING: the next 64-byte slot of a copy into a queue lands at its tail, or the producer waits (R126). -/
def execQueueSlotLanding (id : Nat) (s : State) : Out :=
  .next (
    match s.job? id with
    | none => s
    | some j =>
      match j.queue with
      | none => s
      | some q =>
        if j.kind != .copy || !j.readDone || j.code != 0 || j.discard || j.len ≤ j.landed * 64 then s
        else
          match landSlot s j q 0 ((j.bytes.drop (64 * j.landed)).take 64) none with
          | some s1 => s1.putJob { j with landed := j.landed + 1 }
          | none => putJobQueue s j q 0 { jobQueue s j q 0 with waits := true })

/-- The register image of a gather for one member: its lanes, then zeros (R241). -/
def gatherVec (j : Job) (m : Nat) : Vec :=
  let e := if j.width = 8 then 8 else 16
  ofLanes (8 * j.width) (((j.data.drop (e * m)).take e) ++ List.replicate (64 / j.width - e) 0)

/-- The UE TVAL of a member's lanes (R242), none where no lane is marked. -/
def gatherMark (j : Job) (m : Nat) : Option Nat :=
  let e := if j.width = 8 then 8 else 16
  let x := fld j.mask (e * m) e
  if x = 0 then none else some (2 ^ 62 + x)

/-- The error mark of a vector register of a parked task's member m, which a whole write sets or clears (R108, R242). -/
def parkedMark (s : State) (ck slot m v : Nat) (mark : Option Nat) : State :=
  let c := s.clusterAt ck
  let t := c.task slot
  let p := t.parked
  let put := fun (l : SMap Nat) => match mark with
    | some x => mput l v x
    | none => mdel l v
  let p1 := match m with
    | 0 => { p with vmarks := put p.vmarks }
    | i + 1 => { p with followMarks := p.followMarks.set i (put (p.followMarks.getD i [])) }
  s.putCluster ck { c with tasks := mput c.tasks slot { t with parked := p1 } }

/-- A gather lands in the vector registers of its task's cores; a parked task's lanes wait in its stack region, its
followers' in the gang save region, their marks beside them (R108, R119, R134, R241, R242). -/
def landGather (s : State) (j : Job) (m : Nat) : State :=
  let v := gatherVec j m
  match jobCore s j with
  | some k =>
    let n := memberKey s k m
    let c := (s.coreAt n).setV j.dest v
    s.putCore n (match gatherMark j m with
      | some x => { c with vmarks := mput c.vmarks j.dest x }
      | none => c)
  | none =>
    let ws := (List.range 8).map (fun i => wordOfNat (v.toNat >>> (64 * i)))
    let t := (s.clusterAt j.ck).task j.slot
    let s1 := match m with
      | 0 =>
        match stackWrite j.ck j.space j.slot s (64 + 64 * j.dest) ws with
        | .ok s1 => s1
        | .error a => fatalAt s (j.ck / 4096) j.space 0x311 8 a t.pts
      | i + 1 => agentWrite s none j.ck j.space
          { key := arrayKey j.ck (t.parked.gangSave.getD 0 + 1536 * i + 64 * j.dest), leaf := 0 } (leBytes 64 v.toNat)
    parkedMark s1 j.ck j.slot m j.dest (gatherMark j m)

/-- Land a gather in every member's queue, or none where one has no room (R126, R241). -/
def landGatherQueues (s : State) (j : Job) (q : Nat) : Option State :=
  (List.range j.members).foldl
    (fun o m => o.bind (fun s => landSlot s j q m (leBytes 64 (gatherVec j m).toNat) (gatherMark j m))) (some s)

/-- A failure that no register reports is pending for a task, on its core or with its parked state (R273, R409). -/
def pendingFail (s : State) (ck slot code : Nat) : State :=
  match (coreKeys ck).find? (fun k => (s.coreAt k).running == some slot) with
  | some k => let c := s.coreAt k; s.putCore k { c with fails := c.fails ++ [(none, code)] }
  | none =>
    let c := s.clusterAt ck
    let t := c.task slot
    s.putCluster ck { c with tasks := mput c.tasks slot { t with parked := { t.parked with fails := t.parked.fails ++ [(none, code)] } } }

/-- The bytes of a scatter's lanes. -/
def scatterBytes (j : Job) : List Byte := j.data.flatMap (leBytes j.width)

/-- ENGINE_JOB_COMPLETE: a gather lands, or a scatter writes its elements in ascending lanes (R173, R174, R241,
R409); one that writes on other modules is over when they have acknowledged (R149). A scatter that meets an uncorrectable error is a pending failure (R273, R409). -/
def execEngineJobComplete (id : Nat) (s : State) : Out :=
  .next (
    match s.job? id with
    | none => s
    | some j =>
      if !j.readDone then s
      else
        match j.kind with
        | .copy => s
        | .gather =>
          let t := max j.ti j.tr + 1
          let done := fun (s : State) =>
            let s1 := (bumpUsed s j.ck j.slot t).dropJob j.id
            match jobCore s1 j with
            | some k => let c := s1.coreAt k; s1.putCore k { c with pts := max c.pts t }
            | none =>
              let c := s1.clusterAt j.ck
              let x := c.task j.slot
              s1.putCluster j.ck { c with tasks := mput c.tasks j.slot { x with pts := max x.pts t } }
          if j.discard then s.dropJob j.id
          else
            match j.queue with
            | some q =>
              match landGatherQueues s j q with
              | some s1 => done s1
              | none => putJobQueue s j q 0 { jobQueue s j q 0 with waits := true }
            | none => done ((List.range j.members).foldl (fun s m => landGather s j m) s)
        | .scatter =>
          if j.sent then
            if j.acks != 0 then s else (bumpUsed s j.ck j.slot (max j.ti j.tr + 1)).dropJob j.id
          else if writeBlocked s j then s
          else
            match beforeSegs s (.ofJob j.ck j.seq j.key) j.wsegs with
            | none => s
            | some s0 =>
              let (t, s1) := writePass s0 j.wsegs (max j.ti j.tr + 1)
              let bad := j.wsegs.any (·.marked s1)
              let far := packetCount j.wsegs
              let s2 := writeSegs { j.writer t (j.id + 1) with lanes := true } (noteSegs s1 j.space j.wsegs) j.wsegs (scatterBytes j)
              let s3 := if bad && !j.discard then pendingFail s2 j.ck j.slot 2 else s2
              if far = 0 then (bumpUsed s3 j.ck j.slot t).dropJob j.id
              else s3.putJob { j with sent := true, acks := far, tr := t - 1, landed := b2n bad })

end Sys2Proof.Machine
end

