-- ==== Sys2Proof/Machine/Messages.lean ====
section
/-! DEFINITION. Active messages and group stores: AMSG, RSTV, their acceptance and their delivery (R32, R168 to R172,
R243 to R251, R320, R407, R408). -/

namespace Sys2Proof.Machine

/-- The task of a cluster that holds a group name (R53), or a future's home (R16). -/
def Cluster.groupTask (c : Cluster) (name : Word) : Option Nat :=
  (c.tasks.find? (fun t => t.2.st != .free && t.2.st != .ending && t.2.name == name && name != 0)).map (·.1)

/-- The task of a cluster whose own future a handle names. -/
def Cluster.futureTask (c : Cluster) (h : Word) : Option Nat :=
  (c.tasks.find? (fun t => t.2.st != .free && t.2.visible && t.2.home == h)).map (·.1)

/-- The SPACE that a target in a cluster belongs to: a place word's and an unknown target's is the sender's (R245). -/
def targetSpace (s : State) (ck : Nat) (target : Word) (place : Bool) (sender : Nat) : Nat :=
  let c := s.clusterAt ck
  if place then sender
  else if hKind target == 3 then
    match c.groupTask target with
    | some i => (c.task i).space
    | none => sender
  else
    match c.futureTask target with
    | some i => (c.task i).space
    | none =>
      if hCk target != ck || c.inRange sender (hSlot target) then sender
      else (c.spaces.find? (fun sp => c.inRange sp (hSlot target))).getD sender

/-- Whether a cross-space register of a die lets messages of a kind through: bit 33 RSTV, bit 34 AMSG (R249). -/
def crossing (d : Die) (sender target kind : Nat) : Bool :=
  (List.range 16).any fun i =>
    let w := (mget (fun _ => (0 : Word)) d.xsp i).toNat
    bit w 32 && bit w kind && fld w 0 16 == sender && fld w 16 16 == target

/-- An entry-address message counts as sent for its launch, in 48 bits (R113). -/
def countSent (s : State) (m : Message) : State :=
  if m.handler < 256 || m.tag == 0 then s
  else
    let h := s.cluster.heddle
    let n := mget (fun _ => (0, 0)) h.counts m.tag
    s.putHeddle s.ck { h with counts := mput h.counts m.tag ((n.1 + 1) % 2 ^ 48, n.2) }

/-- Whether the station of the core's column has no free output slot: its messages that are still on the mesh hold one each
(R246; log entry 60). -/
def stationFull (s : State) : Bool :=
  decide (Config.outputSlots < (s.pod.net.filter (fun p => p.srcModule == s.pod.module && p.src / 4096 == s.ck / 4096 &&
    p.src % 4096 % 80 == s.ck % 4096 % 80 && (p.msg.handler == 16 || decide (32 ≤ p.msg.handler)))).length)

/-- The SPACE of a message's target as the sender's station has it: what a handle or a group name stands for on another module is
free (R249; log entry 2). -/
def stationSpace (s : State) (p : Packet) (place : Bool) : Nat × State :=
  if place then (s.core.space, s)
  else if p.dstModule == s.pod.module then (targetSpace s p.dst p.target false s.core.space, s)
  else
    let (v, s1) := s.choose
    (if v % 2 = 0 then s.core.space else v / 2 % 65536, s1)

/-- The sender's station accepts a message or refuses it across spaces, and writes the status (R246, R249). -/
def sendStatus (s0 : State) (d : BitVec 5) (p : Packet) (place : Bool) (top kind : Nat) : State :=
  let (space, s) := stationSpace s0 p place
  if space != s.core.space && !crossing (s.dieAt (s.ck / 4096)) s.core.space space kind then
    s.ret d (statusWord 8 0 0 top)
  else ((countSent s p.msg).send p).ret d (statusWord 0 0 0 top)

/-- The check of a place word's module (R245). -/
def checkPlace (s : State) (h : Word) : Option (Nat × Word) :=
  if s.pod.populated.contains (hModule h) then none else some (4, h)

/-- AMSG to a handle or a place word (R245, R320). -/
def amsgOp (d a b : BitVec 5) (place : Bool) (s : State) : State :=
  match if place then checkPlace s (s.x a) else checkHandle s (s.x a) with
  | some (c, v) => trap s c v
  | none =>
    if unacked s || stationFull s then s.wait
    else
      let w := fun (i : Nat) => s.core.x (b.toNat + i)
      let m := { s.message (w 0).toNat with w0 := w 1, w1 := w 2, w2 := w 3, w3 := w 4 }
      sendStatus s d { s.packet 0 (s.x a) with msg := m, form := b2n place } place 14 34

/-- AMSG (R320). -/
def execAmsg (d a b : BitVec 5) (s : State) : Out := .next (s.legal (.amsg d a b) (amsgOp d a b false))

/-- AMSG_P (R320). -/
def execAmsgP (d a b : BitVec 5) (s : State) : Out := .next (s.legal (.amsgP d a b) (amsgOp d a b true))

/-- RSTV: cnt lanes of a vector of the leader for lanes from f of register n of a group (R248, R407). -/
def rstvOp (st g n v : BitVec 5) (range : Bool) (f cnt : Nat) (s : State) : State :=
  match checkHandle s (s.x g) with
  | some (c, x) => trap s c x
  | none =>
    if unacked s || stationFull s then s.wait
    else
      let control := v.toNat + 32 * n.toNat + 1024 * b2n range
      let payload := ofLanes 32 ((lanes (s.core.v v.toNat) 32).take cnt)
      sendStatus s st { s.packet 16 (s.x g) with payload := payload, form := control + 2048 * f + 262144 * cnt } false 15 33

/-- RSTV (R407). -/
def execRstv (st g n v : BitVec 5) (s : State) : Out :=
  .next (s.legal (.rstv st g n v) (rstvOp st g n v false 0 16))

/-- RSTV_LANE_RANGE (R407). -/
def execRstvLaneRange (st g l n v : BitVec 5) (s : State) : Out :=
  .next (s.legal (.rstvLaneRange st g l n v) fun s =>
    let r := (s.x l).toNat
    rstvOp st g n v true (fld r 0 7) (fld r 8 7) s)

/-- A packet leaves the mesh at its target (R254). -/
def State.arrive (s : State) (p : Packet) : State := { s with pod := { s.pod with net := s.pod.net.erase p } }

/-- Whether a packet may have to wait at its target for what others do there (R28, R85, R94, R239, R247). -/
def mayWait (q : Packet) : Bool :=
  let h := q.msg.handler
  h == 8 || h == 24 || decide (32 ≤ h) || (h == 2 && (q.msg.w3 == 1 || q.msg.w3 == 5))

/-- Whether an earlier packet from the same station to the same place is still on its way: it is delivered first (R254). One
that may have to wait holds back those of its kind, and its sender's, to the same target. -/
def behind (s : State) (p : Packet) : Bool :=
  s.pod.net.any fun q => q.srcModule == p.srcModule && q.src == p.src && q.dst == p.dst && decide (q.seq < p.seq) &&
    (!mayWait q || (q.target == p.target && (q.msg.handler == p.msg.handler || q.msg.sender == p.msg.sender)))

/-- A packet is taken at its target, in its turn (R254). -/
def State.inTurn (s : State) (p : Packet) (body : State → State) : State := if behind s p then s else body (s.arrive p)

/-- Whether a handle is that of a task that moved away from where it names, and is not in this cluster (R111). -/
def movedAway (s : State) (p : Packet) : Bool :=
  hKind p.target == 1 && hModule p.target == s.pod.module && ((s.clusterAt p.dst).futureTask p.target).isNone &&
    (let e := (s.clusterAt (hCk p.target)).entry (hSlot p.target)
     e.task && e.gen == hGen p.target)

/-- Where a message for a group or a task's future goes on from a cluster: here, to another cluster, or back with a
reason (R111, R250). -/
inductive Route where
  | here
  | on (ck : Nat)
  | back (reason : Nat)
  deriving DecidableEq, Repr

/-- The route of a packet at a cluster (R111, R245, R250). -/
def routeOf (s : State) (p : Packet) (place : Bool) : Route :=
  let c := s.clusterAt p.dst
  if place then (if (c.ctxAt p.msg.space).live then .here else .back 7)
  else
    match c.forward? p.target with
    | some f => .on f.dst
    | none =>
      if hKind p.target == 3 then
        if (c.groupTask p.target).isSome then .here
        else
          let r := mget (fun _ => ({} : NameRec)) c.names (hCore p.target)
          .back (if r.moved && r.gen == hGen p.target then 2 else 1)
      else if movedAway s p then .back 2
      else .here

/-- Merge lanes of 32 bits into a register: lane l of the register takes lane l + 16 m - f of the source (R248). -/
def mergeLanes (old src : Vec) (m f cnt : Nat) : Vec :=
  let o := lanes old 32
  let v := lanes src 32
  ofLanes 32 ((List.range 16).map fun l =>
    let g := 16 * m + l
    if f ≤ g && g < f + cnt then v.getD (g - f) 0 else o.getD l 0)

/-- A store is counted by a hold: it lowers the hold, or is an arrival (R251). -/
def Hold.count (h : Hold) : Hold :=
  if 0 < h.cnt then { h with cnt := h.cnt - 1 } else { h with arrivals := min 65535 (h.arrivals + 1) }

/-- Count a store in a table of holds. -/
def countHold (hs : SMap Hold) (n : Nat) : SMap Hold := mput hs n (mget (fun _ => ({} : Hold)) hs n).count

/-- Apply a store to the registers of a running group (R172, R250). -/
def storeRunning (s : State) (k n f cnt time : Nat) (src : Vec) : State :=
  let size := if (s.coreAt k).gang.standing then gangSize (s.coreAt k).gang.code else 1
  let s1 := (List.range size).foldl (fun s m =>
    let key := memberKey s k m
    let c := s.coreAt key
    let v := mergeLanes (c.v n) src m f cnt
    if f ≤ 16 * m && 16 * m + 16 ≤ f + cnt then s.putCore key (c.setV n v)
    else s.putCore key { c with vregs := mset (fun _ => 0) c.vregs n v }) s
  let c := s1.coreAt k
  s1.putCore k { c with holds := countHold c.holds n, pts := max c.pts time, waiting := false }

/-- The place of a vector register in the saved image of a task parked by pre-emption: the leader's in the stack
region, a follower's in the gang's save region (R119, R134). -/
def imageSpot (s : State) (ck slot n m : Nat) : Option Spot × State :=
  let t := (s.clusterAt ck).task slot
  if m = 0 then stackSpot s ck t.space slot (64 + 64 * n) 64 true
  else (t.parked.gangSave.map (fun o => { key := arrayKey ck (o + 1536 * (m - 1) + 64 * n), leaf := 0 }), s)

/-- Apply a store to the saved image of a parked group (R133, R134, R250); a miss in the stack region is fatal
(R119). -/
def storeParked (s : State) (ck slot n f cnt time : Nat) (src : Vec) : State :=
  let t := (s.clusterAt ck).task slot
  let s1 := (List.range (gangSize t.gang)).foldl (fun s m =>
    match imageSpot s ck slot n m with
    | (some p, s1) =>
      let s2 := agentRead s1 none ck t.space p
      let v := mergeLanes (BitVec.ofNat 512 (s2.readN p.key 64)) src m f cnt
      let s3 := agentWrite s2 none ck t.space p (leBytes 64 v.toNat)
      if f ≤ 16 * m && 16 * m + 16 ≤ f + cnt then parkedMark s3 ck slot m n none else s3
    | (none, s1) => fatalAt s1 (ck / 4096) t.space 0x311 8 (wordOfNat (stackVa s ck t.space slot (64 + 64 * n))) time) s
  let t1 := (s1.clusterAt ck).task slot
  s1.putTask ck slot { t1 with pts := max t1.pts time, parked := { t1.parked with holds := countHold t1.parked.holds n } }

/-- Apply a store to a ready group, whose registers stand at its dispatch (R250). -/
def storeReady (s : State) (ck slot n f cnt time : Nat) (src : Vec) : State :=
  let t := (s.clusterAt ck).task slot
  let p := t.parked
  let v := mergeLanes (mget (fun _ => 0) p.vregs n) src 0 f cnt
  s.putTask ck slot { t with pts := max t.pts time
                             parked := { p with vregs := mset (fun _ => 0) p.vregs n v, holds := countHold p.holds n } }

/-- The lanes that a group has now (R404). -/
def groupLanes (s : State) (ck slot : Nat) : Nat :=
  let t := (s.clusterAt ck).task slot
  16 * (match (coreKeys ck).find? (fun k => (s.coreAt k).running == some slot) with
    | some k => if (s.coreAt k).gang.standing then gangSize (s.coreAt k).gang.code else 1
    | none => if t.image then gangSize t.gang else 1)

/-- A store for a group that is in this cluster (R250). -/
def storeHere (s : State) (p : Packet) (slot : Nat) : State :=
  let ck := p.dst
  let t := (s.clusterAt ck).task slot
  let n := fld p.form 5 5
  let f := fld p.form 11 7
  let cnt := fld p.form 18 5
  if t.st == .parkedTouch then bounce s p 3
  else if groupLanes s ck slot < f + cnt then bounce s p 4
  else
    match (coreKeys ck).find? (fun k => (s.coreAt k).running == some slot) with
    | some k => storeRunning s k n f cnt p.msg.time p.payload
    | none => if t.image then storeParked s ck slot n f cnt p.msg.time p.payload
      else storeReady s ck slot n f cnt p.msg.time p.payload

/-- RSTV_STORE (R172, R250, R254). -/
def execRstvStore (p : Packet) (s : State) : Out :=
  .next (s.inTurn p fun s =>
    match routeOf s p false with
    | .on ck => forward s p ck
    | .back r => bounce s p r
    | .here =>
      match (s.clusterAt p.dst).groupTask p.target with
      | some slot => storeHere s p slot
      | none => bounce s p 1)

/-- Whether a packet names its cluster by a place word or an aperture (R245, R259). -/
def byPlace (p : Packet) : Bool := p.form % 2 == 1

/-- Whether a packet is a bounce notice (R250). -/
def isNotice (p : Packet) : Bool := p.form == 2 ^ 32

/-- BOUNCE of a context rises by 1, saturating (R250). -/
def raiseBounce (s : State) (ck space : Nat) : State :=
  let c := s.clusterAt ck
  let x := c.ctxAt space
  s.putCluster ck (c.putCtx space { x with bounce := min 0xFFFFFFFF (x.bounce + 1) })

/-- Put a message into the queue of a bound channel with room, or answer why not (R247, R250). -/
def enqueue (s : State) (ck space ch : Nat) (p : Packet) : Nat ⊕ State :=
  let c := s.clusterAt ck
  let x := c.ctxAt space
  let q := mget (fun _ => []) x.chans ch
  if !x.live || chbEntry (mget (fun _ => 0) x.chb ch) == 0 then .inl 6
  else if 128 ≤ q.length then .inl 5
  else .inr (s.putCluster ck (c.putCtx space { x with chans := mput x.chans ch (q ++ [{ p with arrived := s.cycle }]) }))

/-- Whether a packet comes from a PCIe port, whose messages wait for room (R259). -/
def fromHost (p : Packet) : Bool := p.src == 16 * 4096 + 4095 || p.src == 17 * 4096 + 4095

/-- A bounce notice arrives: BOUNCE rises, channel 15 takes the notice if it can (R250). -/
def noticeArrives (s : State) (p : Packet) : State :=
  let s1 := raiseBounce s p.dst p.msg.space
  match enqueue s1 p.dst p.msg.space 15 p with
  | .inr s2 => s2
  | .inl _ => s1

/-- CHANNEL_DELIVERY (R32, R244, R245, R247, R250, R259). -/
def execChannelDelivery (p : Packet) (s : State) : Out :=
  .next (s.inTurn p fun s1 =>
    if isNotice p then noticeArrives s1 p
    else
      match routeOf s1 p (byPlace p) with
      | .on ck => forward s1 p ck
      | .back r => bounce s1 p r
      | .here =>
        match enqueue s1 p.dst (targetSpace s1 p.dst p.target (byPlace p) p.msg.space) (p.msg.handler % 16) p with
        | .inr s2 => s2
        | .inl r => if fromHost p && r == 5 then s else bounce s1 p r)

/-- The messages at the head of a channel's queue that gated activations will take at their dispatch, in whatever cluster they
are by now (R128). An activation that ends before leaves them to the next one (log entry 35). -/
def takenOf (s : State) (ck space ch : Nat) : Nat :=
  s.liveTasks.foldl (fun n t => if t.2.2.space == space && t.2.2.chan == some ch && hCk t.2.2.home == ck then
    n + t.2.2.gateMsgs.length else n) 0

/-- The record of a new task whose descriptor the heddle reads (R25, R38). -/
def heddleTask (s : State) (ck space : Nat) (entry : Word) (args : List Word) (a4 launch : Word) (creator : Nat)
    (deadline : Option Nat) (m : Nat) : Task × State :=
  match heddleDesc s ck space entry m with
  | (some bs, s1) => (taskOf s1 ck space entry bs args a4 launch creator deadline, s1)
  | (none, s1) => ({ taskOf s1 ck space entry [] args a4 launch creator deadline with fail := 0x204 }, s1)

/-- ACTIVATION_CREATE: a queued message, or as many as the gate counts, becomes an activation once an entry can be had
(R28, R32, R128, R247). Its class is the binding's, whoever bound the channel (R27; log entry 57). -/
def execActivationCreate (ck space ch : Nat) (s : State) : Out :=
  .next (
    let c := s.clusterAt ck
    let x := c.ctxAt space
    let b := mget (fun _ => (0 : Word)) x.chb ch
    let q := (mget (fun _ => []) x.chans ch).drop (takenOf s ck space ch)
    let g := if chbGate b then chbCount b else 1
    if q.length < g || chbEntry b == 0 then s
    else
      match q with
      | [] => s
      | p :: _ =>
        let msgs := (q.take g).map (·.msg)
        let time := msgs.foldl (fun n m => max n m.time) 0
        match allocateNow (s.heddleAt ck time) ck space with
        | (.fatal, s1) => s1
        | (.got slot gen, s1) =>
          let launch := standingLaunch s1 space
          let m := p.msg
          let (t, s2) := heddleTask s1 ck space (chbEntry b) [m.w0, m.w1, m.w2, m.w3] m.sender launch 0 none time
          let t1 := { t with cls := chbClass b, chan := some ch, prio := chbPrio b, arrival := p.arrived,
                             gateQueue := if chbGate b then some (chbQueue b) else none,
                             gateMsgs := if chbGate b then msgs else [] }
          let c2 := s2.clusterAt ck
          let x2 := c2.ctxAt space
          let rest := if chbGate b then mget (fun _ => []) x2.chans ch else (mget (fun _ => []) x2.chans ch).erase p
          createTask (s2.putCluster ck (c2.putCtx space { x2 with chans := mput x2.chans ch rest })) ck slot gen t1 launch
            time
        | _ => s)

/-- The launch that a launch tag names (R243). -/
def tagLaunch (s : State) (tag : Nat) : Word :=
  let module := fld tag 16 10
  let die := fld tag 12 4
  let i := tag % 4096
  if tag == 0 then 0
  else if module != s.pod.module then ladderHandle module die i 1 (fld tag 26 6)
  else
    let r := mget (fun _ => ({} : Ladder)) (s.dieAt die).ladder i
    if r.kind == .launch && r.gen % 64 == fld tag 26 6 then ladderHandle module die i 1 r.gen else 0

/-- The core that a heddle prefers for a message's task: the named core, or the group's leader (R245). -/
def preferred (s : State) (p : Packet) : Option Nat :=
  if byPlace p then some (hCore p.target)
  else if hKind p.target == 3 then
    match (s.clusterAt p.dst).groupTask p.target with
    | some slot => ((coreKeys p.dst).find? (fun k => (s.coreAt k).running == some slot)).map (· % 8)
    | none => none
  else none

/-- ENTRY_ADDRESS_MESSAGE: a task of the entry, in the sender's launch, once an entry can be had (R28, R113, R245). -/
def execEntryAddressMessage (p : Packet) (s : State) : Out :=
  .next (s.inTurn p fun s1 =>
    match routeOf s1 p (byPlace p) with
    | .on ck => forward s1 p ck
    | .back r => bounce s1 p r
    | .here =>
      let space := targetSpace s1 p.dst p.target (byPlace p) p.msg.space
      if !((s1.clusterAt p.dst).ctxAt space).live then bounce s1 p 7
      else
        match allocateNow (s1.heddleAt p.dst p.msg.time) p.dst space with
        | (.fatal, s2) => { s2 with pod := { s2.pod with net := s.pod.net } }
        | (.got slot gen, s2) =>
          let m := p.msg
          let launch := tagLaunch s2 m.tag
          let (t, s3) := heddleTask s2 p.dst space (wordOfNat m.handler) [m.w0, m.w1, m.w2, m.w3] m.sender launch m.cls
            none m.time
          createTask (countReceived s3 p.dst m) p.dst slot gen { t with prefer := preferred s3 p } launch m.time
        | _ => s)

end Sys2Proof.Machine
end

