-- ==== Sys2Proof/Machine/System.lean ====
section
/-! DEFINITION. System registers and maintenance: MFS, MTS, XINV, CMO and the switch of a core to another context (R66 to
R68, R131 to R135, R152, R226, R334, R382, R383, R436, R452). -/

namespace Sys2Proof.Machine

/-- The ladder record of the current task's launch (R131). -/
def launchOf (s : State) : Ladder := (s.ladder? s.task.launch).getD {}

/-- The value of a system register (R131). -/
def sysRead (s : State) (n : Nat) : Word :=
  let c := s.core
  let x := s.ctx
  match n with
  | 0x000 => c.trap.cause
  | 0x001 => c.trap.pc
  | 0x002 => c.trap.value
  | 0x003 => c.trap.base
  | 0x010 => wordOfNat (x.ftLimit + x.ftBase * 65536)
  | 0x011 => wordOfNat x.ylim
  | 0x012 => wordOfNat c.wcnt
  | 0x013 => wordOfNat c.space
  | 0x014 => wordOfNat x.ddom
  | 0x015 => wordOfNat x.spilla
  | 0x016 => wordOfNat x.lspill
  | 0x017 => x.parkb
  | 0x018 => wordOfNat x.stkb
  | 0x019 => wordOfNat x.tdef
  | 0x020 => wordOfNat (max s.now c.seen)
  | 0x021 => wordOfNat s.task.cls
  | 0x022 => tctrA (launchOf s)
  | 0x023 => tctrB (launchOf s)
  | 0x024 => wordOfNat c.modes.fpmode
  | 0x025 => wordOfNat c.modes.covmode
  | 0x026 => c.modes.scbase
  | 0x027 => wordOfNat c.modes.scshift
  | 0x028 => wordOfNat (qstatOf c)
  | 0x029 => wordOfNat (gstatOf c.gang)
  | 0x02A => wordOfNat (lmstatOf c.loom s.cluster.loom.frozen)
  | 0x02B => wordOfNat x.bounce
  | _ => mget (fun _ => 0) x.chb (n - 0x30)

/-- What reading a system register changes: LMSTAT's failure code is cleared, a later reading of PTIME is no smaller (R226,
R382). -/
def afterRead (s : State) (n : Nat) : State :=
  match n with
  | 0x02A => { s with core := { s.core with loom := { s.core.loom with firstFail := 0 } } }
  | 0x020 => { s with core := { s.core with seen := max s.now s.core.seen } }
  | _ => s

/-- MFS (R382). -/
def execMfs (d : BitVec 5) (n : BitVec 10) (s : State) : Out :=
  .next (s.legal (.mfs d n) fun s =>
    (afterRead s n.toNat).ret d (sysRead s n.toNat))

/-- Spill the unpinned entries at or above a lowered limit (R68). -/
def spillAbove (s : State) (ck space : Nat) (slots : List Nat) : State :=
  slots.foldl (fun s i =>
    let e := (s.clusterAt ck).entry i
    if e.resident && e.space == space && !e.pinned && !(s.clusterAt ck).busy i then (spillNow s ck i).2 else s) s

/-- A write of FTLIM (R66, R68). -/
def writeFtlim (s : State) (v : Nat) : State :=
  let x := s.ctx
  let limit := v % 8192
  let above := (s.cluster.entries.filter (fun e => decide (x.ftBase + limit ≤ e.1))).map (·.1)
  let s1 := if fld v 16 12 == x.ftBase then spillAbove s s.ck s.core.space above else s
  s1.putCluster s1.ck (s1.cluster.putCtx s1.core.space { s1.ctx with ftBase := fld v 16 12, ftLimit := limit })

/-- The loom save region of the current task is reserved when it is first needed (R134); none where the pool is full. -/
def reserveSave (s : State) : Option State :=
  match s.core.running with
  | none => some s
  | some slot =>
    let t := s.task
    if t.saveRegion.isSome then some s
    else
      match s.cluster.reserve 16512 slot 2 with
      | none => none
      | some (o, c) => some (s.putCluster s.ck { c with tasks := mput c.tasks slot { t with saveRegion := some o } })

/-- Change the context that the core serves. -/
def onCtx (s : State) (f : Ctx → Ctx) : State :=
  s.putCluster s.ck (s.cluster.putCtx s.core.space (f s.ctx))

/-- A write of a system register that passed its checks (R4, R131, R382, R383); none while it waits. -/
def sysWrite (s : State) (n : Nat) (w : Word) : Option State :=
  let v := w.toNat
  let c := s.core
  match n with
  | 0x000 => some { s with core := { c with trap := { c.trap with cause := wordOfNat (v % 512) } } }
  | 0x001 => some { s with core := { c with trap := { c.trap with pc := w } } }
  | 0x002 => some { s with core := { c with trap := { c.trap with value := w } } }
  | 0x003 => some { s with core := { c with trap := { c.trap with base := w, written := true } } }
  | 0x010 => some (writeFtlim s v)
  | 0x011 => some (onCtx s fun x => { x with ylim := v % 65536 })
  | 0x013 =>
    let cl := s.cluster
    let x := cl.ctxAt (v % 65536)
    some { s.putCluster s.ck (cl.putCtx (v % 65536) { x with live := true }) with core := { c with space := v % 65536 } }
  | 0x014 => some (onCtx s fun x => { x with ddom := v % 4096 })
  | 0x015 => some (onCtx s fun x => { x with spilla := v })
  | 0x016 => some (onCtx s fun x => { x with lspill := v })
  | 0x017 => some (onCtx s fun x => { x with parkb := w })
  | 0x018 => some (onCtx s fun x => { x with stkb := v })
  | 0x019 => some (onCtx s fun x => { x with tdef := v })
  | 0x024 => some { s with core := { c with modes := { c.modes with fpmode := v } } }
  | 0x025 => some { s with core := { c with modes := { c.modes with covmode := v } } }
  | 0x026 => (reserveSave s).map fun s => { s with core := { s.core with modes := { s.core.modes with scbase := w } } }
  | 0x027 => (reserveSave s).map fun s => { s with core := { s.core with modes := { s.core.modes with scshift := v } } }
  | 0x02B => some (onCtx s fun x => { x with bounce := v % 4294967296 })
  | _ => setBinding s s.ck s.core.space (n - 0x30) w

/-- MTS (R382, R383). -/
def execMts (a : BitVec 5) (n : BitVec 10) (s : State) : Out :=
  .next (s.legal (.mts a n) fun s =>
    match sysWrite s n.toNat (s.x a) with
    | some s1 => s1.adv
    | none => s.wait)

/-- Whether an access of a task is in flight, translated already: engine jobs, pending updates, staging pushes, output
write-backs, requests to other modules, those of a waiting unit and of tasks that have ended among them (R152). `hit` picks the
SPACEs. -/
def inFlight (s : State) (hit : Nat → Bool) : Bool :=
  s.pod.jobs.any (fun j => !j.dead && hit j.space) ||
  s.pod.com.any (fun p => hit p.space) || s.pod.qnt.any (fun p => hit p.space) ||
  s.clusters.any (fun c => c.2.tasks.any (fun t => hit t.2.space &&
    (t.2.st == .ending || (t.2.st == .staging && t.2.tiles.any (fun x => x.region.isSome && !x.done))))) ||
  s.pod.late.any (fun l => !l.ready && hit ((s.clusterAt l.dst.ck).task l.dst.slot).space) ||
  (s.cur :: s.cores.map (·.1)).any (fun k => let c := s.coreAt k; decide (c.answers.length < c.asked) && hit c.space) ||
  (s.pod.orphans ++ s.pod.farUsed).any (fun o => match s.ladder? o.2 with
    | some r => hit r.space
    | none => true)

/-- Remove translations from the stations and the last-level cache of every die. -/
def dropTranslations (s : State) (gone : Transl → Bool) : State :=
  { s with dies := s.dies.map fun d =>
      (d.1, { d.2 with stations := d.2.stations.map (fun x => (x.1, x.2.filter (fun t => !gone t)))
                       llc := d.2.llc.filter (fun t => !gone t) }) }

/-- Remove L1 lines from every cluster. -/
def dropLines (s : State) (gone : L1Line → Bool) : State :=
  { s with clusters := s.clusters.map fun c => (c.1, { c.2 with l1 := c.2.l1.filter (fun x => !gone x) }) }

/-- The bits of the largest page that covers an address: of the translations held, of the present tables, 4 KiB at
least. -/
def pageBits (s : State) (space va : Nat) : Nat :=
  let held := s.dies.flatMap (fun d => d.2.llc ++ d.2.stations.flatMap (·.2))
  let m := (held.filter (fun t => t.covers space va)).foldl (fun m t => max m t.bits) 12
  match walk s (s.ck / 4096) space va with
  | .ok _ bits => max m bits
  | _ => m

/-- XINV (R152, R436). -/
def execXinv (a b v : BitVec 5) (s : State) : Out :=
  .next (s.legal (.xinv a b v) fun s =>
    let space := (s.x a).toNat
    let va := (s.x b).toNat
    if v == 0 then
      if inFlight s (fun _ => true) then s.wait
      else (dropLines (dropTranslations s (fun _ => true)) (fun _ => true)).adv
    else if inFlight s (· == space) then s.wait
    else if v == 1 then
      (dropLines (dropTranslations s (fun t => t.space == space)) (fun x => x.space == space)).adv
    else
      let bits := pageBits s space va
      (dropLines (dropTranslations s (fun t => t.covers space va))
        (fun x => x.space == space && (x.vline * 128 / 2 ^ bits == va / 2 ^ bits ||
          x.vline * 128 / 2 ^ x.bits == va / 2 ^ x.bits))).adv)

/-- CMO.I waits for the core's earlier stores and jobs and discards what was fetched ahead (R284, R334). -/
def execCmoI (s : State) : Out :=
  .next (
    if unacked s || !s.core.loom.queue.isEmpty ||
        s.pod.jobs.any (fun j => j.ck == s.ck && j.core == s.cur % 8 && !j.discard && !j.dead) then s.wait
    else State.adv { s with core := { s.core with oldCode := [] } })

/-- CMO.DROP removes the cluster's L1 copy of a line (R334). An address that is no multiple of the 128 bytes it acts on
takes ALIGN before any other test (R138; log entry 33). -/
def execCmoDrop (a : BitVec 5) (s : State) : Out :=
  .next (if (s.x a).toNat % 128 != 0 then trap s 3 (s.x a) else
    match formOf (s.x a) with
    | .bad => trap s 4 (xval (s.x a) 6)
    | .near _ => s.adv
    | .virt va =>
      let c := s.cluster
      (s.putCluster s.ck { c with l1 := c.l1.filter (fun x => !(x.space == s.core.space && x.vline == va / 128)) }).adv)

/-- CMO.PF fills a line into the L1 under a fresh lease, where its page allocates there (R334); it takes no fault and
raises no time of the core. -/
def execCmoPf (a : BitVec 5) (s : State) : Out :=
  .next (
    match formOf (s.x a) with
    | .virt va =>
      match resolve s s.ck s.core.space (wordOfNat (va / 128 * 128)) 128 .load with
      | (.ok (.hbm pa) leaf, s1) =>
        if leafL1 leaf then
          let c := s1.cluster
          let rest := c.l1.filter (fun x => !(x.space == s1.core.space && x.vline == va / 128))
          let s2 := s1.putCluster s1.ck { c with l1 := rest }
          let (_, s3) := loadMem s2 (va / 128 * 128) pa 128 leaf
          State.adv { s3 with core := { s3.core with pts := s.core.pts } }
        else s1.adv
      | (_, s1) => s1.adv
    | _ => s.adv)

/-- CONTEXT_SWITCH: a core that runs a task of its context, or its leader where it is a gang's member, is asked for its
yield point; a free one serves the other context (R52, R107, R135, R452). -/
def execContextSwitch (ck core space : Nat) (s : State) : Out :=
  .next (
    let k := ck * 8 + core
    let k' := match (s.coreAt k).gang.follows with
      | some l => ck * 8 + l
      | none => k
    let c := s.coreAt k'
    if c.running.isSome then s.putCore k' { c with preempt := true }
    else
      let cl := s.clusterAt ck
      let s1 := s.putCluster ck (cl.putCtx space { cl.ctxAt space with live := true })
      s1.putCore k { s1.coreAt k with space := space })

end Sys2Proof.Machine
end

