-- ==== Sys2Proof/Machine/Heddle.lean ====
section
/-! DEFINITION. The heddle's own work: late writes, spill acknowledgements, counters of time, the dispatch of ready tasks
and the resumption of parked ones, staging, write-back, waking, and the scans of the almanac (R24, R36 to R38, R41, R42,
R45, R48, R52, R72, R83, R84, R95 to R100, R102, R104, R106, R108, R120, R128, R133, R151, R156, R162). -/

namespace Sys2Proof.Machine

/-- SPILL_WRITE_ACK (R72, R87): the spill that an allocation waits for is done, as one whole, and the completions that
arrived for the future during the write find it spilled. -/
def execSpillWriteAck (ck : Nat) (s : State) : Out :=
  .next (
    let h := (s.clusterAt ck).heddle
    match h.spilling with
    | none => s
    | some slot =>
      let (_, s1) := spillNow (s.putHeddle ck { h with spilling := none, heldFills := [] }) ck slot
      h.heldFills.foldl (fun s f => fillFound s f.1 f.2.1 f.2.2.1 f.2.2.2.1 f.2.2.2.2) s1)

/-- LATE_WRITE_LANDS (R41, R108, R313, R337): the k-th destination write under way lands, once its value is there. -/
def execLateWriteLands (k : Nat) (s : State) : Out :=
  .next (
    match s.pod.late[k]? with
    | none => s
    | some l =>
      if !l.ready then s
      else
        let s1 : State := { s with pod := { s.pod with late := s.pod.late.eraseIdx k } }
        deliverWord s1 l.dst.ck l.dst.slot l.dst.reg l.value l.time l.fail l.mark)

/-- TRANSLATION_DONE (R151): a station of the cluster's column installs a translation. -/
def execTranslationDone (ck space va : Nat) (s : State) : Out :=
  .next (translate s (ck / 4096) (ck % 4096 % 80) space va).2

/-- HBM_FILL_RETURN (R154 to R156): a line that is not in its slice is filled into it. -/
def execHbmFillReturn (pa ddom : Nat) (eligible streaming : Bool) (s : State) : Out :=
  .next (if 2 ^ 40 ≤ pa then s else l2Miss s (pa / 128 * 128) ddom eligible streaming false)

/-- PTS_TICK (R161, R162): an agent's pts rises by 1: a core's, for c = 8 its heddle's; of cluster number 4095 a die's
placer, on an I/O die the port c. -/
def execPtsTick (ck c : Nat) (s : State) : Out :=
  .next (
    if 4095 ≤ ck % 4096 then
      if ck / 4096 < 16 then
        let d := s.dieAt (ck / 4096)
        s.putDie (ck / 4096) { d with placerPts := d.placerPts + 1 }
      else
        { s with io := { s.io with portPts := mput s.io.portPts c (mget (fun _ => 0) s.io.portPts c + 1) } }
    else if c < 8 then
      let x := s.coreAt (ck * 8 + c)
      s.putCore (ck * 8 + c) { x with pts := x.pts + 1 }
    else
      let h := (s.clusterAt ck).heddle
      s.putHeddle ck { h with pts := h.pts + 1 })

/-- WCNT_IDLE_TICK (R102). -/
def execWcntIdleTick (ck c : Nat) (s : State) : Out :=
  .next (
    let x := s.coreAt (ck * 8 + c)
    s.putCore (ck * 8 + c) { x with wcnt := x.wcnt - 1 })

/-- OVERLONG_HOLD_WAIT (R104): a yield point at the waiting instruction; inside the handler of WDOG the task ends
(R106). -/
def execOverlongHoldWait (ck c : Nat) (s : State) : Out :=
  .next (
    let s1 := s.select (ck * 8 + c)
    if s1.core.running.isNone || s1.core.wcnt != 0 then s
    else if s1.core.trap.kill = 1 then endRunning s1 (.poison 10)
    else yieldPoint s1 s1.core.pc s1.ctx.ylim)

/-- Whether a parked task has a frozen command that came before a job: the job may wait for it, and it for the task (R174,
R229). -/
def behindFrozen (s : State) (j : Job) : Bool :=
  let t := (s.clusterAt j.ck).task j.slot
  t.image && t.parked.loom.queue.any (fun c => decide (c.seq < j.seq))

/-- Whether a destination write of a parked task is still to land, which keeps the task from its dispatch (R41, R108).
A copy into a queue waits for the task itself where its ring is full, and so does not count; nor does a job that came behind
one of the task's frozen commands (log entry 67). -/
def heldBack (s : State) (ck slot : Nat) : Bool :=
  s.pod.late.any (fun l => l.dst.ck == ck && l.dst.slot == slot && l.dst.core.isNone) ||
  s.pod.jobs.any (fun j => j.ck == ck && j.slot == slot && !j.discard && !j.dead && j.queue.isNone && j.kind != .scatter &&
    !behindFrozen s j)

/-- Whether a task is an activation of a channel (R32). -/
def Task.activation (t : Task) : Bool := t.chan.isSome && !t.visible

/-- The first element of a list under an order. -/
def pickBy {α : Type} (lt : α → α → Bool) (l : List α) : Option α :=
  l.foldl (fun m x => match m with
    | none => some x
    | some y => if lt x y then some x else some y) none

/-- The order of DEADLINE tasks: deadline, priority between two activations, creation, slot (R95, R98). -/
def deadlineBefore (a b : Nat × Task) : Bool :=
  let x := a.2
  let y := b.2
  if x.deadline != y.deadline then decide (x.deadline < y.deadline)
  else if x.activation && y.activation && x.prio != y.prio then decide (y.prio < x.prio)
  else if x.born != y.born then decide (x.born < y.born)
  else decide (a.1 < b.1)

/-- The order of arrival of activations (R98). -/
def arrivalBefore (a b : Nat × Task) : Bool :=
  if a.2.prio != b.2.prio then decide (b.2.prio < a.2.prio)
  else if a.2.arrival != b.2.arrival then decide (a.2.arrival < b.2.arrival)
  else decide (a.1 < b.1)

/-- The order within a bin: tasks parked by pre-emption or moved here first, then as they became ready (R96, R97, R110);
of tasks that are staged those whose reservations were taken back first, then by creation (R100). -/
def binBefore (a b : Nat × Task) : Bool :=
  let since := fun (t : Task) => if t.st == .staging && !t.front then t.born else t.since
  if a.2.front != b.2.front then a.2.front
  else if since a.2 != since b.2 then decide (since a.2 < since b.2)
  else decide (a.1 < b.1)

/-- The activation to go next: the first in arrival, or one of its channel that goes ahead (R96, R98, R100, R110). -/
def nextActivation (acts : List (Nat × Task)) : Option (Nat × Task) :=
  match pickBy arrivalBefore acts with
  | none => none
  | some x =>
    match pickBy binBefore (acts.filter (fun y => y.2.front && y.2.chan == x.2.chan && y.2.space == x.2.space)) with
    | some y => some y
    | none => some x

/-- The next task of a class from HIGH to BULK, and the class's bookkeeping after it (R97, R98). -/
def pickClass (q : ClassQ) (l : List (Nat × Task)) : Option ((Nat × Task) × ClassQ) :=
  let acts := l.filter (·.2.activation)
  let rest := l.filter (fun x => !x.2.activation)
  match (if q.run < 16 || rest.isEmpty then nextActivation acts else none) with
  | some x => some (x, { q with run := q.run + 1, fromBin := q.fromBin + 1 })
  | none =>
    let full := fun (b : Nat) => rest.any (fun x => x.2.bin == b)
    let stay := full q.bin && decide (q.fromBin < 256)
    let b := if stay then q.bin else (((List.range 16).map (fun i => (q.bin + 1 + i) % 16)).find? full).getD q.bin
    (pickBy binBefore (rest.filter (fun x => x.2.bin == b))).map fun x =>
      (x, { bin := b, fromBin := if stay then q.fromBin + 1 else 1, run := 0 })

/-- The bookkeeping of a class. -/
def Heddle.classQ (h : Heddle) (c : Nat) : ClassQ := mget (fun _ => ({} : ClassQ)) h.classes c

/-- The task to take next, with the heddle's bookkeeping after it, and whether it is overdue (R95). -/
def pickNext (h : Heddle) (now : Nat) (l : List (Nat × Task)) : Option ((Nat × Task) × Heddle × Bool) :=
  let of := fun (c : Nat) => l.filter (fun x => x.2.cls == c)
  let note := fun (h : Heddle) (c : Nat) => { h with last := (c :: h.last).take 13 }
  let byClass := fun (c : Nat) => (pickClass (h.classQ c) (of c)).map fun r =>
    (r.1, note { h with classes := mput h.classes c r.2 } c, false)
  let dl := pickBy deadlineBefore (of 0)
  let overdue := match dl with
    | some x => decide (x.2.deadline < now)
    | none => false
  let starved := if h.last.length < 13 then none
    else [1, 2, 3].find? (fun c => !(of c).isEmpty && !h.last.contains c)
  match dl, overdue, starved with
  | some x, true, _ => some (x, note h 0, true)
  | _, _, some c => byClass c
  | some x, _, none => some (x, note h 0, false)
  | none, _, none => ([1, 2, 3].find? (fun c => !(of c).isEmpty)).bind byClass

/-- The cores that a task would take, the leader first: the preferred core, else the one free longest; a parked gang
needs a free aligned block (R48, R52, R95, R245). -/
def placeFor (s : State) (ck : Nat) (t : Task) : Option (List Nat) :=
  let free := freeCores s ck t.space
  let keeps := free.find? (fun c => !t.started &&
    (s.clusterAt ck).heddle.retained.any (fun r => r.1 == c && r.2 == t.entry))
  if t.image && t.gang != 0 then
    (free.find? (fun c => (blockOf c (gangSize t.gang)).all free.contains)).map (blockOf · (gangSize t.gang))
  else
    match keeps, t.prefer with
    | some c, _ => some [c]
    | none, some p => if free.contains p then some [p] else free.head?.map ([·])
    | none, none => free.head?.map ([·])

/-- Whether the gate of an activation can be filled: its queue's region can be reserved (R127, R128). -/
def gateFits (c : Cluster) (t : Task) : Bool := t.gateQueue.isNone || t.started || (c.findRegion 1152).isSome

/-- The tasks of a cluster that can be dispatched now. -/
def dispatchable (s : State) (ck : Nat) : List (Nat × Task) :=
  let c := s.clusterAt ck
  c.tasks.filter fun x =>
    (x.2.st == .ready || x.2.st == .parkedPre) && !x.2.leaving && !heldBack s ck x.1 && gateFits c x.2 && (placeFor s ck x.2).isSome

/-- Take cores from the free list; banks that were retained for another entry are released, those retained for this one
are the task's (R48). -/
def takeCores (s : State) (ck slot : Nat) (t : Task) (cores : List Nat) : State :=
  cores.foldl (fun s c =>
    let h := (s.clusterAt ck).heddle
    let keeps := h.retained.any (fun r => r.1 == c && r.2 == t.entry)
    let had := h.retained.any (fun r => r.1 == c)
    let s1 := s.putHeddle ck { h with freeOrder := h.freeOrder.filter (· != c), retained := mdel h.retained c }
    if keeps then
      let x := (s1.clusterAt ck).task slot
      s1.putTask ck slot { x with retain := true }
    else if had then powerDown s1 ck c
    else s1) s

/-- The messages of its gate leave the queue of an activation's channel, in the cluster that the channel stands in (R128). -/
def takeGate (s : State) (t : Task) : State :=
  let c := s.clusterAt (hCk t.home)
  let x := c.ctxAt t.space
  let ch := t.chan.getD 0
  let left := t.gateMsgs.foldl (fun (l : List Packet) m =>
    match l.find? (fun p => p.msg == m) with
    | some p => l.erase p
    | none => l) (mget (fun _ => []) x.chans ch)
  s.putCluster (hCk t.home) (c.putCtx t.space { x with chans := mput x.chans ch left })

/-- The gate's messages land in the queue of the activation and leave the channel's queue (R128). -/
def landGate (s : State) (ck k slot : Nat) (t : Task) : State :=
  match t.gateQueue with
  | none => s
  | some q =>
    match (s.clusterAt ck).reserve 1152 slot 1 with
    | none => s
    | some (o, c) =>
      let s1 := takeGate (s.putCluster ck c) t
      let s2 := agentPut s1 none ck t.space (slotKey ck o 0) (t.gateMsgs.flatMap msgBytes)
      s2.putCore k ((s2.coreAt k).setQ q { n := t.gateMsgs.length, region := some o })

/-- The task record after a dispatch (R30, R35). -/
def runningRecord (s : State) (ck slot : Nat) : State :=
  let t := (s.clusterAt ck).task slot
  s.putTask ck slot { t with st := .running, started := true, gang := 0, gateMsgs := [], image := false, front := false,
                             parked := { poisonAt := t.parked.poisonAt } }

/-- A task that has not run before has no spilled frames: what an earlier task of its slot left in D is gone (R24,
R119). A stack region that is not mapped holds no D to clear. -/
def clearDepth (s : State) (ck slot : Nat) (t : Task) : State :=
  match stackDepth s ck t.space slot with
  | .error _ => s
  | .ok (0, false, s0) => s0
  | .ok _ => match stackWrite ck t.space slot s 0 [0] with
    | .ok s1 => s1
    | .error _ => s

/-- First dispatch (R24, R128). -/
def firstDispatch (s : State) (ck slot c : Nat) (t : Task) : State :=
  let k := ck * 8 + c
  let s1 := clearDepth s ck slot t
  landGate (s1.putCore k (firstCore s1 ck (s1.coreAt k) slot t)) ck k slot t

/-- D of the stack region takes in the registers that the park saved (R120), or the address of a miss. -/
def raiseDepth (s : State) (ck slot : Nat) (t : Task) : Except Word State :=
  match stackDepth s ck t.space slot with
  | .error a => .error a
  | .ok (d, _, s1) => stackWrite ck t.space slot s1 0 [wordOfNat (d + 64 * t.depth)]

/-- The accumulators of a parked loom that are read back from its save region (R231). -/
def savedAccs (s : State) (ck o : Nat) : List Nat :=
  let stat := s.readN (arrayKey ck (o + 16384)) 8
  (List.range 4).filter (fun k => bit stat k && !bit stat (8 + k))

/-- What a resumption reads of the array, by the heddle: the park record, and of a park by pre-emption the gang save region and
the loom save region (R42, R120, R133, R134, R153, R161, R231). -/
def readSaved (s : State) (ck slot : Nat) (t : Task) (size : Nat) : State :=
  let get := fun (s : State) (key n : Nat) => agentGet s none ck t.space key n
  let s1 := get s (parkKey s ck t.space slot + 64) 256
  if !t.image then s1
  else
    let s2 := match t.parked.gangSave with
      | some o => get s1 (arrayKey ck o) (1536 * (size - 1))
      | none => s1
    match t.parked.saveRegion with
    | none => s2
    | some o => (savedAccs s2 ck o).foldl (fun s k => get s (arrayKey ck (o + 4096 * k)) 4096) (get s2 (arrayKey ck (o + 16384)) 128)

/-- The followers of a gang that forms again: lanes from the gang save region, queues in place (R52, R133, R134). -/
def reformGang (s : State) (ck : Nat) (t : Task) (cores : List Nat) : State :=
  ((cores.drop 1).zipIdx).foldl (fun s x =>
    let k := ck * 8 + x.1
    let base := arrayKey ck (t.parked.gangSave.getD 0 + 1536 * x.2)
    let vs := (List.range 24).foldl (fun (m : SMap Vec) i =>
      mset (fun _ => 0) m i (BitVec.ofNat 512 (s.readN (base + 64 * i) 64))) []
    s.putCore k { s.coreAt k with gang := { follows := cores.head? }, vregs := vs
                                  queues := t.parked.followers.getD x.2 [], vmarks := t.parked.followMarks.getD x.2 [] }) s

/-- Resumption after a parking TOUCH (R42), with what group stores wrote since it became ready (R250). -/
def resumeTouch (s : State) (ck slot c : Nat) (t : Task) : State :=
  let k := ck * 8 + c
  let x := resumedCore s ck (s.coreAt k) slot t
  s.putCore k { x with vregs := t.parked.vregs, holds := t.parked.holds }

/-- Resumption after a park by pre-emption (R52, R120, R133, R231), or the address of a miss in the stack region. -/
def resumePreempt (s : State) (ck slot : Nat) (cores : List Nat) (t : Task) : Except Word State :=
  let c := cores.headD 0
  let k := ck * 8 + c
  match stackRead ck t.space slot s 64 448 with
  | .error a => .error a
  | .ok (ws, _, s) =>
    let p := t.parked
    let x := wideFrom (resumedCore s ck (s.coreAt k) slot t) ws
    let gang : Gang := if t.gang = 0 then {} else { code := t.gang, standing := true, leader := c, save := p.gangSave }
    let y : Core := { x with modes := { x.modes with scbase := p.scbase, scshift := p.scshift }, queues := p.queues
                             holds := p.holds, vmarks := p.vmarks, gmarks := p.gmarks, mmarks := p.mmarks, fails := p.fails
                             loom := restoreLoom s ck p, gang := gang }
    .ok (reformGang (s.putCore k y) ck t cores)

/-- The key of an uncorrectable error in the saved state of a task: its task record, its park record, what is read of its
stack region (R272). -/
def badImage (s : State) (ck slot : Nat) (t : Task) : Option Nat :=
  let rec0 := parkKey s ck t.space slot
  let stack := fun (off n : Nat) => (List.range n).findSome? fun i =>
    match (stackSpot s ck t.space slot (off + 8 * i) 8 false).1 with
    | some p => if s.marked p.key 8 then some p.key else none
    | none => none
  if s.marked rec0 (if t.started then 320 else 64) then some rec0
  else if s.bad.isEmpty || !t.started then none
  else
    match stack 0 1 with
    | some k => some k
    | none => if t.image then stack 64 448 else none

/-- Where the context register image of a task, what is read of its loom and gang save regions, has an uncorrectable
error: the offset of the region's part (R133, R272, R274; log entry 41). -/
def badSave (s : State) (ck : Nat) (t : Task) (cores : List Nat) : Option Nat :=
  let p := t.parked
  let loom := match p.saveRegion with
    | none => none
    | some o => if s.marked (arrayKey ck (o + 16384)) 128 then some (o + 16384) else
        ((savedAccs s ck o).find? (fun k => s.marked (arrayKey ck (o + 4096 * k)) 4096)).map (fun k => o + 4096 * k)
  let gang := match p.gangSave with
    | none => none
    | some o => if s.marked (arrayKey ck o) (1536 * (cores.length - 1)) then some o else none
  if t.image then loom.orElse (fun _ => gang) else none

/-- Dispatch a task to cores (R24, R42, R48, R52, R95); a miss in its stack region is a fatal context error (R119). -/
def dispatchTo (s : State) (ck slot : Nat) (cores : List Nat) : State :=
  let t := (s.clusterAt ck).task slot
  if t.started && t.cancel then endTask (leaveList s ck slot) ck slot .cancel t.pts
  else
  match badImage s ck slot t with
  | some k => endTask (leaveList (foundError s k t.space) ck slot) ck slot (.poison 0x10) t.pts
  | none =>
    match badSave s ck t cores with
    | some o => fatalAt s (ck / 4096) t.space 0x311 8 (localAddr o) t.pts
    | none =>
      let s1 := takeCores s ck slot t cores
      if !t.started then runningRecord (firstDispatch s1 ck slot (cores.headD 0) t) ck slot
      else
        let r : Except Word State := match raiseDepth (readSaved s1 ck slot t cores.length) ck slot t with
          | .error a => .error a
          | .ok s2 => if t.image then resumePreempt s2 ck slot cores t
            else .ok (resumeTouch s2 ck slot (cores.headD 0) t)
        match r with
        | .ok s3 => runningRecord s3 ck slot
        | .error a => fatalAt s (ck / 4096) t.space 0x311 8 a t.pts

/-- TASK_DISPATCH (R95). An overdue task counts in the die's deadline-miss counter. -/
def execTaskDispatch (ck : Nat) (s : State) : Out :=
  .next (
    match pickNext (s.clusterAt ck).heddle s.now (dispatchable s ck) with
    | none => s
    | some (x, h, overdue) =>
      match placeFor s ck x.2 with
      | none => s
      | some cores =>
        let s1 := s.putHeddle ck h
        let d := s1.dieAt (ck / 4096)
        let s2 := if overdue then s1.putDie (ck / 4096) { d with misses := d.misses + 1 } else s1
        dispatchTo s2 ck x.1 cores)

/-- Whether the staging of a task has started: it holds landing regions. -/
def Task.staged (t : Task) : Bool := t.st == .staging && t.tiles.any (·.region.isSome)

/-- Reserve the landing regions of a task's tiles; none where the pool has no room (R36, R37). -/
def reserveTiles (c : Cluster) (slot : Nat) : List Tile → Option (List Tile × Cluster)
  | [] => some ([], c)
  | t :: ts =>
    match c.reserve t.len slot 0 with
    | none => none
    | some (o, c1) =>
      match reserveTiles c1 slot ts with
      | none => none
      | some (us, c2) => some ({ t with region := some o } :: us, c2)

/-- The staging task whose reservations a DEADLINE task takes: the latest started of the lowest class below DEADLINE
(R100). -/
def stagingVictim (c : Cluster) : Option Nat :=
  let l := c.tasks.filter (fun x => x.2.staged && x.2.cls != 0)
  let worst := l.foldl (fun m x => max m x.2.cls) 0
  (pickBy (fun a b => decide (b.2.since < a.2.since)) (l.filter (fun x => x.2.cls == worst))).map (·.1)

/-- Take back the reservations of a staging task, which goes to the front of its staging order (R100). -/
def takeBack (s : State) (ck slot : Nat) : State :=
  let c := s.clusterAt ck
  let t := c.task slot
  (s.putCluster ck { c with regions := c.regions.filter (fun r => !(r.slot == slot && r.kind == 0)) }).putTask ck slot
    { t with tiles := t.tiles.map (fun x => { x with region := none, done := false, data := [] }), front := true }

/-- Reserve regions for a task, for a DEADLINE task by taking back those of others; what is taken back stays so (R99,
R100). -/
def makeRegions (ck slot : Nat) : Nat → State → Option (List Tile) × State
  | 0, s => (none, s)
  | fuel + 1, s =>
    let c := s.clusterAt ck
    let t := c.task slot
    match reserveTiles c slot t.tiles with
    | some (ts, c1) => (some ts, s.putCluster ck c1)
    | none =>
      if t.cls != 0 then (none, s)
      else
        match stagingVictim c with
        | none => (none, s)
        | some v => makeRegions ck slot fuel (takeBack s ck v)

/-- The issue of one tile's push at the heddle's next time: its bytes are read (R36, R162, R173); none where it fails
(R38). An output region is filled with zeros (R37). -/
def issuePush (ck space : Nat) (s : State) (t : Tile) : Option Tile × State :=
  let key := arrayKey ck (t.region.getD 0)
  if t.kind = 2 then (some { t with done := true }, agentPut s none ck space key (List.replicate t.len 0))
  else
    let ti := s.agentPts ck none + 1
    match segments (s.putPts ck none ti) ck space t.addr t.len false with
    | (.bad _ _, s1) => (none, s1)
    | (.ok gs, s1) =>
      if gs.any (·.marked s1) then (none, noteSegs s1 space gs)
      else
        let s2 := fillSegs s1 gs ((s1.clusterAt ck).ctxAt space).ddom
        let tr := readPass s2 gs ti
        let (bs, s3) := readSegs (readTimes s2 gs tr) gs
        (some { t with data := bs, time := tr, seq := s.pod.jobSeq }, { s3 with pod := { s3.pod with jobSeq := s.pod.jobSeq + 1 } })

/-- Issue the pushes of a task's tiles in argument order (R36, R99); none where one fails (R38). -/
def issuePushes (ck space : Nat) : State → List Tile → Option (List Tile) × State
  | s, [] => (some [], s)
  | s, t :: ts =>
    match issuePush ck space s t with
    | (none, s1) => (none, s1)
    | (some t1, s1) =>
      match issuePushes ck space s1 ts with
      | (some us, s2) => (some (t1 :: us), s2)
      | (none, s2) => (none, s2)

/-- A task becomes ready when its last tile has landed (R36, R37). -/
def staging? (s : State) (ck slot : Nat) : State :=
  let t := (s.clusterAt ck).task slot
  if t.tiles.all (·.done) then becomeReady s ck slot else s

/-- Whether an earlier job of the cluster still writes bytes that a tile reads (R174). -/
def tilesBlocked (s : State) (ck space : Nat) (ts : List Tile) : Bool :=
  let w := (earlier s ck s.pod.jobSeq).2
  ts.any fun t => t.kind != 2 && (match (segments s ck space t.addr t.len false).1 with
    | .ok gs => segsMeet gs w
    | .bad _ _ => false)

/-- The staging task to start next, in the order of dispatch; of its class one whose reservations were taken back goes first,
whatever its bin and whether an activation or not (R99, R100). -/
def nextStaging (s : State) (ck : Nat) : Option Nat :=
  let c := s.clusterAt ck
  if 16 ≤ (c.tasks.filter (·.2.staged)).length then none
  else
    let l := (c.tasks.filter (fun x => x.2.st == .staging && !x.2.staged)).map (fun x => (x.1, { x.2 with bin := binOf x.2 }))
    (pickNext c.heddle s.now l).map fun r =>
      ((pickBy binBefore (l.filter (fun x => x.2.front && x.2.cls == r.1.2.cls))).map (·.1)).getD r.1.1

/-- STAGING_START (R36 to R38, R99, R100). -/
def execStagingStart (ck : Nat) (s : State) : Out :=
  .next (
    match nextStaging s ck with
    | none => s
    | some slot =>
      let t := (s.clusterAt ck).task slot
      if tilesBlocked s ck t.space t.tiles then s
      else
        match makeRegions ck slot 20 s with
        | (none, s1) => s1
        | (some ts, s1) =>
          let s2 := s1.putPts ck none (max (s1.agentPts ck none) t.pts)
          match issuePushes ck t.space s2 ts with
          | (none, s3) => endTask s3 ck slot (.poison 0x204) t.pts
          | (some us, s3) => staging? (s3.putTask ck slot { t with tiles := us, since := s.cycle, front := false }) ck slot)

/-- TILE_PUSH_LANDED (R36, R173, R174): a tile lands in its region, behind earlier work of the cluster on those bytes; the
last one makes the task ready. -/
def execTilePushLanded (ck slot arg : Nat) (s : State) : Out :=
  .next (
    let t := (s.clusterAt ck).task slot
    match t.tiles.find? (fun x => x.arg == arg && !x.done && x.region.isSome) with
    | none => s
    | some x =>
      let segs := [Seg.mem (arrayKey ck (x.region.getD 0)) x.len 0]
      if !t.staged || writesBehind s ck x.seq segs then s
      else
        let (tc, s0) := writePass s segs (x.time + 1)
        let s1 := writeSegs { ck := ck, space := t.space, time := tc } s0 segs x.data
        let ts := t.tiles.map (fun y => if y.arg == arg then { y with done := true, data := [] } else y)
        staging? (s1.putTask ck slot { t with tiles := ts }) ck slot)

/-- What the packets of a task's write-back carry in place of a copy's number (R37, R168). -/
def backJob (ck slot : Nat) : Nat := 2 ^ 63 + ck * 4096 + slot

/-- OUTPUT_WRITE_BACK_DONE (R37, R38, R171, R239): the output regions are copied to their addresses once permits cover
them, then, when every copy is complete, the future is filled; a copy that fails poisons it. -/
def execOutputWriteBackDone (ck slot : Nat) (s : State) : Out :=
  .next (
    let t := (s.clusterAt ck).task slot
    if t.st != .ending then s
    else if t.fail != 0 then endTask s ck slot (.poison 0x205) t.pts
    else if t.wsent then (if t.wacks != 0 then s else endTask s ck slot (.full t.result) t.pts)
    else
      let from' := outRegions ck t
      if writeWaits s ck t.wseq t.wkey t.wsegs || readWaits s ck t.wseq t.wkey from' || !permitted s ck t.space t.wsegs then s
      else if from'.any (·.marked s) || t.wsegs.any (·.marked s) then
        endTask (noteSegs s t.space (from' ++ t.wsegs)) ck slot (.poison 0x205) t.pts
      else
        match beforeSegs s (.ofJob ck t.wseq t.wkey) t.wsegs with
        | none => s
        | some s1 =>
          let ti := max (s1.agentPts ck none) t.pts + 1
          let tr := readPass s1 from' ti
          let (bs, s2) := readSegs (readTimes (s1.putPts ck none ti) from' tr) from'
          let (time, s2) := writePass s2 t.wsegs (tr + 1)
          let s3 := writeSegs { ck := ck, space := t.space, job := backJob ck slot, cls := t.cls, time := time
                                dom := some t.wdom, all := t.wsegs } s2 t.wsegs bs
          let far := packetCount t.wsegs
          if far = 0 then endTask s3 ck slot (.full t.result) time
          else s3.putTask ck slot { t with wsent := true, wacks := far, wsegs := [], pts := time })

/-- A parked task is woken: it re-enters its class's ready queue, or ends where its cancel bit is set (R35, R45, R57). -/
def wakeLocal (s : State) (ck w : Nat) : State :=
  let t := (s.clusterAt ck).task w
  if t.st != .parkedTouch then s
  else if t.cancel then endTask (leaveList s ck w) ck w .cancel t.pts
  else becomeReady s ck w

/-- Send the wake message of a remote waiter (R45, R85): `reply` carries the waiter. -/
def wakeRemote (s : State) (ck node time : Nat) : State :=
  match (s.clusterAt ck).heddle.nodes.find? (fun x => x.1 == node) with
  | none => s
  | some (_, target, m, w) =>
    s.send { srcModule := s.pod.module, src := ck, dstModule := m, dst := w.ck, target := target,
             msg := { handler := 15, w0 := target, time := time }, reply := w }

/-- WAKE_WAITERS (R45, R77): the next waiter of a filled future; where there is none, the slot's refill queue is tried. -/
def execWakeWaiters (ck slot : Nat) (s : State) : Out :=
  .next (
    let e := (s.clusterAt ck).entry slot
    match e.toWake with
    | [] => drainRefill s ck slot
    | w :: ws =>
      let s1 := s.putEntry ck slot { e with toWake := ws }
      if w < 4096 then wakeLocal s1 ck w else wakeRemote s1 ck (w - 4096) e.fillTime)

/-- One entry of the cancellation scan of a cancelled entry: each resident child, wherever the context's range ends by now
(R68, R83; log entry 50). -/
def scanEntry (s : State) (ck head i : Nat) : State :=
  let c := s.clusterAt ck
  let h := c.entry head
  let e := c.entry i
  let mine := e.resident && e.parent != 0 && (e.parent == entryHandle s ck head || (h.owner != 0 && e.parent == h.owner))
  let p : Packet := { srcModule := s.pod.module, src := ck, dstModule := s.pod.module, dst := ck, target := entryHandle s ck i
                      msg := { handler := 11, w0 := entryHandle s ck i, w3 := 1, space := e.space, time := h.fillTime }
                      form := 1 }
  if !mine || e.st != .empty then s else (cancelResident s ck i p true h.fillTime).2

/-- The end of a cancellation scan (R83). -/
def endScan (s : State) (ck head : Nat) : State :=
  let h := (s.clusterAt ck).heddle
  let s1 := s.putHeddle ck { h with scans := h.scans.drop 1, scanPos := 0 }
  let e := (s1.clusterAt ck).entry head
  let s2 := s1.putEntry ck head { e with scan0 := false, scan1 := false }
  if e.scan1 && e.waiters.isEmpty then
    if e.task then s2.putEntry ck head { e with scan0 := false, scan1 := false, consumed := true } else freeEntry s2 ck head
  else drainRefill s2 ck head

/-- CANCEL_SCAN_STEP (R83). -/
def execCancelScanStep (ck : Nat) (s : State) : Out :=
  .next (
    let h := (s.clusterAt ck).heddle
    match h.scans with
    | [] => s
    | head :: _ =>
      if 4096 ≤ h.scanPos then endScan s ck head
      else if (s.clusterAt ck).busy h.scanPos then s
      else scanEntry (s.putHeddle ck { h with scanPos := h.scanPos + 1 }) ck head h.scanPos)

/-- A spilled kept future of a launch's context is freed: its record is cleared, and the slot's refill queue is tried (R77,
R84); a miss is a fatal context error (R75). -/
def freeKeptRecord (s : State) (ck space : Nat) (h : Word) : State :=
  let c := s.clusterAt ck
  let s0 := s.putHeddle ck { c.heddle with keptSpilled := c.heddle.keptSpilled.filter (fun x => x.1 != h) }
  match spillWindow s0 ck space (hSlot h) (hGen h) with
  | (some ks, s1) =>
    match ks.find? (recOf s1 h) with
    | some k => drainRefill (clearRec s1 ck space k) ck (hSlot h)
    | none => s1
  | (none, s1) => fatalSpill s1 ck space (hSlot h) (hGen h) 0

/-- KEPT_ENTRY_SCAN (R84): one slot; a pinned entry is freed once it is unpinned. -/
def execKeptEntryScan (ck : Nat) (s : State) : Out :=
  .next (
    let c := s.clusterAt ck
    let h := c.heddle
    match h.kept with
    | [] => s
    | l :: ls =>
      if 4096 ≤ h.keptPos then s.putHeddle ck { h with kept := ls, keptPos := 0 }
      else
        let i := h.keptPos
        let s1 := s.putHeddle ck { h with keptPos := i + 1 }
        let space := ((s.ladder? l).map (·.space)).getD (c.entry i).space
        let s2 := (h.keptSpilled.filter (fun x => x.2 == l && hSlot x.1 == i)).foldl
          (fun s x => freeKeptRecord s ck space x.1) s1
        let e := (s2.clusterAt ck).entry i
        if c.busy i then s else
        if e.resident && e.keep && e.launch == l && (e.st == .full || e.st == .poisoned) then
          if e.pinned then s2.putEntry ck i { e with ended := true } else freeEntry s2 ck i
        else s2)

end Sys2Proof.Machine
end

