-- ==== Sys2Proof/Machine/Loom.lean ====
section
/-! DEFINITION. The loom: issue of its commands, arbitration, the pieces of each command with their exact sums, the
completion of a command, freezing (R112, R175, R188 to R192, R195, R199, R200, R209 to R234, R361 to R372). -/

namespace Sys2Proof.Machine

/-- The check of an array address: local, aligned, inside the scratchpad, over no park area (R223 reason 3). -/
def lmLocal (s : State) (c : LCmd) (align len : Nat) : Bool :=
  match formOf c.region with
  | .near off => off % align == 0 && decide (off + len ≤ s.cluster.spad) && !s.cluster.inPark off len
  | _ => false

/-- Whether an accumulator range breaks its limits (R223 reason 1, R362). -/
def LCmd.badAcc (c : LCmd) : Bool := c.m == 0 || decide (4 < c.a + c.m)

/-- Whether a slot range breaks its limits (R223 reason 2, R362). -/
def LCmd.badSlots (c : LCmd) : Bool := c.nk == 0 || decide (64 < c.nk) || decide (64 < c.f + c.nk)

/-- The failing check of R223 at issue, 0 for none. -/
def lmReason (s : State) (c : LCmd) : Nat :=
  match c.fn with
  | 0 => if c.badSlots then 2 else if c.flags < 2 && !lmLocal s c 64 c.readLen then 3 else 0
  | 1 => if c.badAcc then 1 else if c.badSlots then 2 else if lmLocal s c 64 c.readLen then 0 else 3
  | 2 => if c.a % 2 = 1 then 1 else if c.badSlots then 2 else if lmLocal s c 64 c.readLen then 0 else 3
  | 3 => if c.badAcc then 1 else 0
  | 4 =>
    if c.toVec then (if c.c = 0 || 24 < c.d + c.c || 64 < c.p + c.c then 4 else 0)
    else if c.badAcc then 1 else if lmLocal s c 128 c.writeLen then 0 else 3
  | 6 => if lmLocal s c 128 c.writeLen then 0 else 3
  | 7 => if lmLocal s c 128 c.readLen then 0 else 3
  | _ => 0

/-- LMWT acts at its issue on its own core's weight, or on a named core's, which counts from the next round on (R112, R371). -/
def setWeight (s : State) (st : BitVec 5) (second : Nat) : State :=
  let k := if bit second 27 then s.ck * 8 + fld second 24 3 else s.cur
  let x := s.coreAt k
  (s.putCore k { x with loom := { x.loom with weight := second % 16 } }).ret st (loomStatus 8 0 0 0)

/-- LMFRZ acts at its issue: a freeze writes its status when all queues have stopped (R228, R367). -/
def setFreeze (s : State) (st : BitVec 5) (on : Bool) : State :=
  let c := s.cluster
  if c.loom.frozen == on then s.ret st (loomStatus 9 0 0 0)
  else if on then
    (s.putCluster s.ck { c with loom := { c.loom with frozen := true,
                                                      freezing := c.loom.freezing ++ [s.waiter st] } }).adv
  else (s.putCluster s.ck { c with loom := { c.loom with frozen := false } }).ret st (loomStatus 9 0 0 0)

/-- The owner of the accumulators that a command names: its own core, or the core a privileged drain names (R366). -/
def LCmd.owner (c : LCmd) (k : Nat) : Nat := if c.fn == 4 && bit c.second 27 then k / 8 * 8 + fld c.second 24 3 else k

/-- Whether a command is a privileged drain that runs ahead of every queue: the loom or the owner's commands are frozen
(R220). -/
def runsAhead (s : State) (c : LCmd) : Bool :=
  c.fn == 4 && bit c.second 27 && (s.cluster.loom.frozen || (s.coreAt (c.owner s.cur)).loom.frozen)

/-- The byte offset of the block of row i at K block kb in the A tile (R212). -/
def LCmd.blockOff (c : LCmd) (i kb : Nat) : Nat := aBytes c.type (i * (32 * c.nk) + 32 * kb)

/-- The scale byte's address of a block (R190). -/
def scaleAddr (base : Word) (shift o : Nat) : Nat := (base.toNat + o >>> shift) % 2 ^ 64

/-- The cache lines that an LMRUN needs beyond those that are cached; where they are more than 64, some of them (R217). -/
def linesNeeded (l : CoreLoom) (c : LCmd) (base : Word) (shift : Nat) : List Nat :=
  (List.range (32 * c.m)).foldl (fun ns i =>
    if 64 < ns.length then ns
    else (List.range c.nk).foldl (fun ns kb =>
      let a := scaleAddr base shift (c.blockOff i kb) / 64 * 64
      if ns.contains a || l.lines.any (fun x => x.1 == a) then ns else ns ++ [a]) ns) []

/-- The homes of scale lines, as far as they can be had. -/
def scaleHomes (ck space : Nat) : State → List Nat → List Seg × State
  | s, [] => ([], s)
  | s, a :: as =>
    let (r, s1) := segments s ck space (wordOfNat a) 64 false
    let (gs, s2) := scaleHomes ck space s1 as
    (match r with
      | .ok l => l ++ gs
      | .bad _ _ => gs, s2)

/-- An LMRUN registers the scales it is to read when it is accepted (R173, R233). -/
def registerScales (s : State) (c : LCmd) : List Seg × State :=
  match c.fn, s.core.loom.bindingNext with
  | 1, some (base, shift) =>
    let need := linesNeeded { s.core.loom with lines := [] } c base shift
    if 64 < need.length then ([], s) else scaleHomes s.ck s.core.space s need
  | _, _ => ([], s)

/-- Append a command to the current core's queue (R173, R224, R362). -/
def enqueueLoom (s0 : State) (c : LCmd) : State :=
  let (gs, s) := registerScales s0 c
  let t := s.core.pts + 1
  let c1 := { c with scale := gs, seq := s.pod.jobSeq, time := t, space := s.core.space, priv := s.core.priv, ahead := runsAhead s c,
                     scbase := s.core.modes.scbase, scshift := s.core.modes.scshift, clamp := s.clamps, ddom := s.ctx.ddom }
  let cmd := { c1 with key := s.issueKey s.ck (8 + s.cur % 8) t (c1.readSegs s.ck) (c1.writeSegs s.ck) }
  State.adv { s with pod := { s.pod with jobSeq := s.pod.jobSeq + 1 }
                     core := { s.core with pts := t, loom := { s.core.loom with queue := s.core.loom.queue ++ [cmd] } } }

/-- The common issue sequence of loom commands after ILLEGAL and PRIV (R362): status register, function, control field,
region register's value, second register's value. -/
def loomIssue (st : BitVec 5) (fn control : Nat) (region second : Word) (s : State) : State :=
  let two := second.toNat % 2 ^ 32
  let c : LCmd := { fn := fn, control := control, region := region, second := two, dest := s.core.b + st.toNat }
  let r := lmReason s c
  if r != 0 then trap s 18 (wordOfNat (fn + 256 * r))
  else
    match reserveSave s with
    | none => s.wait
    | some s1 =>
      if fn = 8 then setWeight s1 st two
      else if fn = 9 then setFreeze s1 st (bit control 9)
      else if (8 ≤ s1.core.loom.places && !runsAhead s1 c) || unacked s1 || c.vectorDests.any (pendingVec s1) then s1.wait
      else enqueueLoom s1 c

/-- The control field (R361). -/
def lmControl (fn type flags : Nat) : Nat := fn + 16 * type + 512 * flags

/-- LMBIND (R211, R363). -/
def execLmbind (st r g : BitVec 5) (f : BitVec 1) (t : BitVec 5) (s : State) : Out :=
  .next (s.legal (.lmbind st r g f t) fun s => loomIssue st 0 (lmControl 0 t.toNat f.toNat) (s.x r) (s.x g) s)

/-- LMBIND, the unbinding forms (R211, R363). -/
def execLmbindUnbind (st r g : BitVec 5) (f : BitVec 1) (t : BitVec 5) (s : State) : Out :=
  .next (s.legal (.lmbindUnbind st r g f t) fun s =>
    loomIssue st 0 (lmControl 0 t.toNat (2 + f.toNat)) (s.x r) (s.x g) s)

/-- LMRUN (R214, R369). -/
def execLmrun (st r g t : BitVec 5) (s : State) : Out :=
  .next (s.legal (.lmrun st r g t) fun s => loomIssue st 1 (lmControl 1 t.toNat 0) (s.x r) (s.x g) s)

/-- LMMOM (R215, R368). -/
def execLmmom (st r g : BitVec 5) (s : State) : Out :=
  .next (s.legal (.lmmom st r g) fun s => loomIssue st 2 (lmControl 2 17 0) (s.x r) (s.x g) s)

/-- LMZERO (R219, R372). -/
def execLmzero (st r g t : BitVec 5) (s : State) : Out :=
  .next (s.legal (.lmzero st r g t) fun s => loomIssue st 3 (lmControl 3 t.toNat 0) (s.x r) (s.x g) s)

/-- LMDRN to the array (R220, R366). -/
def execLmdrn (st r g : BitVec 5) (e : BitVec 1) (t : BitVec 5) (s : State) : Out :=
  .next (s.legal (.lmdrn st r g e t) fun s => loomIssue st 4 (lmControl 4 t.toNat (2 * e.toNat)) (s.x r) (s.x g) s)

/-- LMDRN to vector registers (R220, R366). -/
def execLmdrnV (st r g : BitVec 5) (e : BitVec 1) (s : State) : Out :=
  .next (s.legal (.lmdrnV st r g e) fun s => loomIssue st 4 (lmControl 4 8 (1 + 2 * e.toNat)) (s.x r) (s.x g) s)

/-- LMSCL, bind (R217, R370). -/
def execLmsclOn (st r g t : BitVec 5) (s : State) : Out :=
  .next (s.legal (.lmsclOn st r g t) fun s => loomIssue st 5 (lmControl 5 t.toNat 1) (s.x r) (s.x g) s)

/-- LMSCL, unbind (R217, R370). -/
def execLmsclOff (st r g t : BitVec 5) (s : State) : Out :=
  .next (s.legal (.lmsclOff st r g t) fun s => loomIssue st 5 (lmControl 5 t.toNat 0) (s.x r) (s.x g) s)

/-- LMCHK (R221, R365). -/
def execLmchk (st r g t : BitVec 5) (s : State) : Out :=
  .next (s.legal (.lmchk st r g t) fun s => loomIssue st 6 (lmControl 6 t.toNat 0) (s.x r) (s.x g) s)

/-- LMCB (R216, R364). -/
def execLmcb (st r g t : BitVec 5) (s : State) : Out :=
  .next (s.legal (.lmcb st r g t) fun s => loomIssue st 7 (lmControl 7 t.toNat 0) (s.x r) (s.x g) s)

/-- LMWT (R112, R371). -/
def execLmwt (st r g t : BitVec 5) (s : State) : Out :=
  .next (s.legal (.lmwt st r g t) fun s => loomIssue st 8 (lmControl 8 t.toNat 0) (s.x r) (s.x g) s)

/-- LMFRZ, freeze (R228, R367). -/
def execLmfrzOn (st r g t : BitVec 5) (s : State) : Out :=
  .next (s.legal (.lmfrzOn st r g t) fun s => loomIssue st 9 (lmControl 9 t.toNat 1) (s.x r) (s.x g) s)

/-- LMFRZ, thaw (R228, R367). -/
def execLmfrzOff (st r g t : BitVec 5) (s : State) : Out :=
  .next (s.legal (.lmfrzOff st r g t) fun s => loomIssue st 9 (lmControl 9 t.toNat 0) (s.x r) (s.x g) s)

/-- The exact group sum of R200: an accumulator element's bits and the products of one group. -/
def groupSum (acc : Nat) (ps : List Val) : Nat :=
  let nan := 0x7FC00000
  let a := f32.dec acc
  let inf := fun (n : Bool) => ps.any (fun p => match p with
    | .inf m => m == n
    | _ => false)
  if ps.any Val.isNan || (inf true && inf false) then nan
  else if inf true || inf false then
    match a with
    | .nan _ _ => nan
    | .inf m => if m == inf true then f32.infBits m else nan
    | _ => f32.infBits (inf true)
  else
    let tops := ps.filterMap (fun p => match p with
      | .fin _ m e => if m = 0 then none else some ((Nat.log2 m : Int) + e)
      | _ => none)
    match tops, a with
    | [], _ => acc
    | t :: ts, .fin _ _ _ =>
      let lsb := ts.foldl max t - 63
      let part := fun (p : Val) => match p with
        | .fin n m e =>
          let al : Nat := if lsb ≤ e then m * 2 ^ (e - lsb).toNat else m / 2 ^ (lsb - e).toNat
          ((if n then -(al : Int) else (al : Int)), decide (e < lsb) && m % 2 ^ (lsb - e).toNat != 0)
        | _ => (0, false)
      let g := ps.foldl (fun g p => g + (part p).1) (0 : Int)
      let st := ps.any (fun p => (part p).2)
      let z := 4 * g + (if st then (if g < 0 then -1 else 1) else 0)
      if z = 0 then acc else f32.arith 0 0 (a.add 0 (.fin (decide (z < 0)) z.natAbs (lsb - 2)))
    | _, _ => acc

/-- The exact sum of F32 values, rounded once to nearest even, NaN and infinities as in R200 (R221). The sign of a sum that is
zero is the model's reading (log entry 34). -/
def exactSum (xs : List Nat) : Nat :=
  let vs := xs.map f32.dec
  let inf := fun (n : Bool) => vs.any (fun p => match p with
    | .inf m => m == n
    | _ => false)
  if vs.any Val.isNan || (inf true && inf false) then 0x7FC00000
  else if inf true || inf false then f32.infBits (inf true)
  else f32.arith 0 0 (match vs with
    | [] => .fin false 0 0
    | v :: r => r.foldl (Val.add 0) v)

/-- An accumulator's contents; +0 throughout where it is not in use (R220, R365, R366). -/
def CoreLoom.values (l : CoreLoom) (k : Nat) : List Nat :=
  if bit l.inUse k then
    let mine := l.acc.filter (fun x => x.1 / 1024 == k)
    (List.range 1024).map (fun i => (mget (fun _ => (0 : BitVec 32)) mine (1024 * k + i)).toNat)
  else List.replicate 1024 0

/-- Replace an accumulator's contents. -/
def CoreLoom.putValues (l : CoreLoom) (k : Nat) (vs : List Nat) : CoreLoom :=
  let new := vs.zipIdx.filterMap (fun x => if x.1 = 0 then none else some (1024 * k + x.2, BitVec.ofNat 32 x.1))
  { l with acc := l.acc.filter (fun x => decide (x.1 / 1024 < k)) ++ new ++ l.acc.filter (fun x => decide (k < x.1 / 1024)) }

/-- The flags of an accumulator (R218). -/
def CoreLoom.flag (l : CoreLoom) (k : Nat) (use dirty zero : Bool) : CoreLoom :=
  { l with inUse := putFld l.inUse k 1 (b2n use), dirty := putFld l.dirty k 1 (b2n dirty),
           zero := putFld l.zero k 1 (b2n zero) }

/-- Where a byte of a command's footprint is read: at its place, or in the copy made while it was frozen (R233). -/
def LCmd.place (c : LCmd) (off : Nat) : Nat :=
  match c.copies.find? (fun x => x.1 == off / 128 * 128) with
  | some x => x.2 + off % 128
  | none => off

/-- Bytes of a command's read footprint, and whether one of them has an uncorrectable error (R233, R272). -/
def loomBytes (s : State) (ck : Nat) (c : LCmd) (off n : Nat) : List Byte × Bool :=
  if c.copies.isEmpty then (bytesFrom s.mem (arrayKey ck off) n, s.marked (arrayKey ck off) n)
  else
    let ks := (List.range n).map (fun i => arrayKey ck (c.place (off + i)))
    (ks.map s.byteAt, ks.any (fun k => s.marked k 1))

/-- Whether a slot is held for a task of a context (R210, R213). -/
def WSlot.heldFor (w : WSlot) (slot space : Nat) : Bool :=
  (w.held == 1 && w.slot == slot) || (w.held == 2 && w.space == space)

/-- The flags of a slot (R130): in use while it is held. DEDUCED: no rule drains or saves a slot, so what a bind put there
has always changed since (log entry 63). -/
def WSlot.inUse (w : WSlot) : Bool := w.held != 0
def WSlot.dirty (w : WSlot) : Bool := w.inUse

/-- A slot of the loom. -/
def Loom.slot (l : Loom) (i : Nat) : WSlot := mget (fun _ => {}) l.slots i

/-- Whether an A type pairs with a slot type (R213, R369). -/
def pairs (a b : Nat) : Bool :=
  match a with
  | 9 => b == 9
  | 11 => b == 11 || b == 12 || b == 14
  | 12 => b == 11 || b == 12
  | 13 => b == 13
  | _ => b == 9

/-- Element e of a TW2 index by a lattice table (R191, R192). -/
def twElem (table idx e : Nat) : Val :=
  let code := fld table (32 * (idx / 128) + 3 * e) 3
  let par := (List.range 7).foldl (fun n i => n + fld idx i 1) 0
  let neg := if e < 7 then bit idx e else par % 2 == 1
  match e2m1.dec code with
  | .fin _ m x => .fin neg m x
  | v => v

/-- B element (k, n) of a slot (R209). -/
def Loom.elem (l : Loom) (w : WSlot) (k n : Nat) : Val :=
  if w.type = 14 then twElem l.lattice (fld w.image (64 * n + 16 * (k / 8)) 16) (k % 8)
  else let b := laneBits w.type; decType w.type (fld w.image (b * (32 * n + k)) b)

/-- The column factor of a slot (R211). -/
def WSlot.factor (w : WSlot) (n : Nat) : Val := e8s (fld w.scales (8 * n) 8)

/-- The A factor of a block: 1 where no cache is bound (R190, R214). -/
def factorA (l : CoreLoom) (o : Nat) : Val :=
  match l.cache with
  | none => .fin false 1 0
  | some (base, shift) =>
    let a := scaleAddr base shift o
    e8s (fld (mget (fun _ => 0) l.lines (a / 64 * 64)) (8 * (a % 64)) 8)

/-- Where the lines stand that an LMRUN is to read into its scale cache, up to the first that cannot be had, with the
failure code and reason of that one (R217, R225). -/
def locateScales (ck space : Nat) : State → List Nat → List (Nat × List Seg) × Option (Nat × Nat) × State
  | s, [] => ([], none, s)
  | s, a :: as =>
    match segments s ck space (wordOfNat a) 64 false with
    | (.bad 1 _, s1) => ([], some (1, 0), s1)
    | (.bad 6 _, s1) => ([], some (7, 11), s1)
    | (.bad _ r, s1) => ([], some (7, r), s1)
    | (.ok gs, s1) =>
      let (l, e, s2) := locateScales ck space s1 as
      ((a, gs) :: l, e, s2)

/-- The line that a command kept while it was frozen (R233). -/
def LCmd.keptLine? (c : LCmd) (gs : List Seg) : Option Nat :=
  match gs with
  | [.mem k _ _] => (c.kept.find? (·.1 == k)).map (·.2)
  | _ => none

/-- Where the copy stands that was made of a line of scales in its cluster's array while the command was frozen (R233). -/
def LCmd.copyKey? (ck : Nat) (c : LCmd) (gs : List Seg) : Option Nat :=
  match gs with
  | [.mem k _ _] => if inArray ck k then
      (c.copies.find? (fun x => x.1 == (k - arrayKey ck 0) / 128 * 128)).map (fun x => arrayKey ck x.2 + (k - arrayKey ck 0) % 128)
    else none
  | _ => none

/-- Read the lines an LMRUN needs into its core's scale cache at its read time (R175, R217): the failure code. -/
def loadScales (ck : Nat) (c : LCmd) (t : Nat) : State → CoreLoom → List (Nat × List Seg) → Nat × CoreLoom × State
  | s, l, [] => (0, l, s)
  | s, l, (a, gs) :: rest =>
    match c.keptLine? gs, c.copyKey? ck gs with
    | some v, _ => loadScales ck c t s { l with lines := mput l.lines a v } rest
    | none, some k =>
      if s.marked k 64 then (1, l, noteSegs s c.space gs)
      else loadScales ck c t s { l with lines := mput l.lines a (s.readN k 64) } rest
    | none, none =>
      if gs.any (·.marked s) then (1, l, noteSegs s c.space gs)
      else
        let (bs, s1) := readSegs (readTimes s gs t) gs
        loadScales ck c t s1 { l with lines := mput l.lines a (leNat bs) } rest

/-- The failure of a step that reads a slot (R213, R216, R225): code, 0 for none. -/
def slotFail (l : Loom) (c : LCmd) (slot i : Nat) : Nat :=
  let w := l.slot i
  if bit c.gone i || !w.heldFor slot c.space || !pairs c.type w.type then 4
  else if w.type = 14 && l.latticeTag != some c.space then 4
  else if w.ue || (w.type = 14 && l.latticeUe) then 2
  else 0

/-- A command fails at a piece (R225); code 0x02 is logged in the cluster's bank (R226). -/
def failPiece (s : State) (ck k : Nat) (c : LCmd) (code reason index : Nat) : State × LCmd :=
  let s1 := if code = 2 then s.clusterError ck true 1 (k % 8) c.space (wordOfNat index) 0 else s
  (s1, { c with code := code, reason := reason, finished := true })

/-- The products of one element's group (R199, R214). -/
def products (xs : List Val) (ys : List Val) (f : Val) : List Val := (xs.zip ys).map (fun p => (p.1.mul p.2).mul f)

/-- Add the group sums of a block of rows and a slot's columns into an accumulator (R200, R214). -/
def addBlock (l : CoreLoom) (k : Nat) (rows : List (List Val × Val)) (cols : List (List Val × Val)) : CoreLoom :=
  let new := (rows.flatMap (fun r => cols.map (fun q => (r, q)))).zip (l.values k) |>.map fun x =>
    groupSum x.2 (products x.1.1.1 x.1.2.1 (x.1.1.2.mul x.1.2.2))
  (l.putValues k new).flag k true true false

/-- The rows of an A block: the elements by a decoder of the raw lanes. -/
def rowsOf (w : Nat) (dec : Nat → Val) (raws : List Nat) : List (List Val) :=
  raws.map (fun n => (List.range 32).map (fun j => dec (fld n (w * j) w)))

/-- The raw bytes of the 32 blocks of a row tile, and whether one has an uncorrectable error. -/
def blockRaws (s : State) (ck : Nat) (c : LCmd) (r kb : Nat) : List Nat × Bool :=
  let rs := (List.range 32).map (fun i => loomBytes s ck c (c.off + c.blockOff (32 * r + i) kb) (aBytes c.type 32))
  (rs.map (fun x => leNat x.1), rs.any (·.2))

/-- One step of LMRUN (R213, R214). -/
def runStep (s : State) (ck k slot : Nat) (c : LCmd) : State × LCmd :=
  let l := (s.clusterAt ck).loom
  let x := s.coreAt k
  let kb := c.piece / c.m
  let r := c.piece % c.m
  let i := c.f + kb
  let code := slotFail l c slot i
  let (raws, bad) := blockRaws s ck c r kb
  if code != 0 then failPiece s ck k c code 0 i
  else if bad then failPiece (foundError s (arrayKey ck c.off) c.space) ck k c 1 0 0
  else if bit x.loom.inUse (c.a + r) && bit x.loom.ue (c.a + r) then failPiece s ck k c 2 0 (c.a + r)
  else
    let w := l.slot i
    let rows := (rowsOf (laneBits c.type) (decType c.type) raws).zip
      ((List.range 32).map (fun j => factorA x.loom (c.blockOff (32 * r + j) kb)))
    let cols := (List.range 32).map (fun n => ((List.range 32).map (fun j => l.elem w j n), w.factor n))
    (s.putCore k { x with loom := addBlock x.loom (c.a + r) rows cols }, { c with steps := c.steps + 1 })

/-- One step of LMMOM: the mean step or the variance step of a K block (R215). -/
def momStep (s : State) (ck k slot : Nat) (c : LCmd) : State × LCmd :=
  let l := (s.clusterAt ck).loom
  let x := s.coreAt k
  let kb := c.piece / 2
  let var := c.piece % 2 == 1
  let i := c.f + kb
  let acc := c.a + b2n var
  let code := slotFail l c slot i
  let (raws, bad) := blockRaws s ck c 0 kb
  let one : Val := .fin false 1 0
  let vals := (rowsOf 32 (fun n => bf16.dec (fld n (16 * b2n var) 16)) raws)
  if code != 0 then failPiece s ck k c code 0 i
  else if bad then failPiece (foundError s (arrayKey ck c.off) c.space) ck k c 1 0 0
  else if bit x.loom.inUse acc && bit x.loom.ue acc then failPiece s ck k c 2 0 acc
  else if var && !c.clamp && vals.any (fun r => r.any Val.negative) then failPiece s ck k c 6 0 0
  else
    let w := l.slot i
    let fix := fun (v : Val) => if var && v.negative then Val.fin false 0 0 else v
    let rows := vals.map (fun r => (r.map fix, one))
    let cols := (List.range 32).map (fun n =>
      let ws := (List.range 32).map (fun j => l.elem w j n)
      if var then (ws.map (fun v => v.mul v), (w.factor n).mul (w.factor n)) else (ws, w.factor n))
    (s.putCore k { x with loom := addBlock x.loom acc rows cols }, { c with steps := c.steps + 1 })

/-- The slots that a bind or an unbind names. -/
def LCmd.slots (c : LCmd) : List Nat := (List.range c.nk).map (c.f + ·)

/-- One piece of LMBIND: the availability of all slots first, then a block image each, then the scales (R211, R224,
R363); an unbind is one piece. -/
def bindPiece (s : State) (ck k slot : Nat) (c : LCmd) : State × LCmd :=
  let l := (s.clusterAt ck).loom
  if 2 ≤ c.flags then
    let other := c.flags == 2 && c.slots.any (fun i => !(l.slot i).heldFor slot c.space)
    (s, { c with code := if other then 3 else 0 })
  else if c.piece = 0 && c.slots.any (fun i => (l.slot i).held != 0 && !(l.slot i).heldFor slot c.space) then
    failPiece s ck k c 3 0 0
  else
    let n := imageBytes c.type
    let (off, len) := if c.piece < c.nk then (n * c.piece, n) else (n * c.nk, 32 * c.nk)
    let (bs, bad) := loomBytes s ck c (c.off + off) len
    if bad then failPiece (foundError s (arrayKey ck (c.off + off)) c.space) ck k c 1 0 0
    else (s, { c with out := c.out ++ bs })

/-- LMZERO (R218, R219). -/
def zeroPiece (s : State) (k : Nat) (c : LCmd) : State :=
  let x := s.coreAt k
  s.putCore k { x with loom := (List.range c.m).foldl (fun (l : CoreLoom) r =>
    ({ l.putValues (c.a + r) [] with ue := putFld l.ue (c.a + r) 1 0 } : CoreLoom).flag (c.a + r) true false true) x.loom }

/-- The image of an accumulator in a drain's type: nearest even and saturating (R195, R196, R220). -/
def drainImage (l : CoreLoom) (k type : Nat) : List Byte :=
  (l.values k).flatMap (fun v => leBytes (drainBytes type)
    (if type = 8 then v else (convType type 0 0 false (f32.dec v)).1))

/-- One piece of LMDRN (R220, R224). -/
def drainPiece (s : State) (ck k : Nat) (c : LCmd) : State × LCmd :=
  let l := (s.coreAt (c.owner k)).loom
  let acc := if c.toVec then c.a else c.a + c.piece
  if bit l.inUse acc && bit l.ue acc then failPiece s ck k c 2 0 acc
  else if c.toVec then
    (s, { c with out := ((l.values acc).flatMap (leBytes 4)).drop (64 * c.p) |>.take (64 * c.c) })
  else (s, { c with out := c.out ++ drainImage l acc c.type })

/-- LMCHK: the image, the row sums and the column sums (R221). -/
def checkPiece (s : State) (ck k : Nat) (c : LCmd) : State × LCmd :=
  let l := (s.coreAt k).loom
  let vs := l.values c.a
  if bit l.inUse c.a && bit l.ue c.a then failPiece s ck k c 2 0 c.a
  else
    let rows := (List.range 32).map (fun i => exactSum ((vs.drop (32 * i)).take 32))
    let cols := (List.range 32).map (fun j => exactSum ((List.range 32).map (fun i => vs.getD (32 * i + j) 0)))
    (s, { c with out := (vs ++ rows ++ cols).flatMap (leBytes 4) })

/-- The pieces of a command (R224). -/
def LCmd.pieces (c : LCmd) : Nat :=
  match c.fn with
  | 0 => if 2 ≤ c.flags then 1 else c.nk + c.flags
  | 1 => c.m * c.nk
  | 2 => 2 * c.nk
  | 4 => if c.toVec then 1 else c.m
  | _ => 1

/-- The read time of a command that reads given segments: not before its issue, nor before what they hold was written
(R173); it stands already where a write was let in while the command was frozen (R233). -/
def LCmd.readAt (s : State) (c : LCmd) (segs : List Seg) : Nat :=
  readPass s segs (max (c.tr.getD 0) c.time)

/-- The start of a command: its read time, and the scales an LMRUN needs (R173, R175, R217). -/
def beginCommand (s : State) (ck k : Nat) (c : LCmd) : State × LCmd :=
  if c.begun then (s, c)
  else
    let rs := c.readPlaces ck
    let plain := fun (s : State) =>
      let t := c.readAt s rs
      (readTimes s rs t, { c with tr := some t, begun := true })
    let x := s.coreAt k
    match c.fn, x.loom.cache with
    | 1, some (base, shift) =>
      let need := linesNeeded x.loom c base shift
      let (s1, c1) := plain s
      if 64 < x.loom.lines.length + need.length then failPiece s1 ck k c1 5 0 0
      else
        let (homes, e, s2) := locateScales ck c.space s need
        match e with
        | some (code, reason) => let (s3, c3) := plain s2; failPiece s3 ck k c3 code reason 0
        | none =>
          let far := (homes.filter (fun h => (c.keptLine? h.2).isNone && (c.copyKey? ck h.2).isNone)).flatMap (·.2)
          let s3 := fillSegs s2 far c.ddom
          let t := c.readAt s3 (rs ++ far)
          let (code, l, s4) := loadScales ck c t (readTimes s3 rs t) x.loom homes
          let s5 := s4.putCore k { s4.coreAt k with loom := l }
          let c1 := { c with tr := some t, begun := true }
          if code = 0 then (s5, c1) else failPiece s5 ck k c1 code 0 0
    | _, _ => plain s

/-- One piece of a command (R224). -/
def onePiece (s : State) (ck k slot : Nat) (c : LCmd) : State × LCmd :=
  match c.fn with
  | 0 => bindPiece s ck k slot c
  | 1 => runStep s ck k slot c
  | 2 => momStep s ck k slot c
  | 3 => (zeroPiece s k c, c)
  | 4 => drainPiece s ck k c
  | 5 =>
    let x := s.coreAt k
    (s.putCore k { x with loom := { x.loom with lines := [], cache := if bit c.control 9 then some (c.scbase, c.scshift) else none } }, c)
  | 6 => checkPiece s ck k c
  | _ =>
    let (bs, bad) := loomBytes s ck c c.off 2048
    if bad then failPiece (foundError s (arrayKey ck c.off) c.space) ck k c 1 0 0 else (s, { c with out := bs })

/-- Start a command where it is at its first piece, and do its next piece. -/
def doPiece (s : State) (ck k slot : Nat) (c : LCmd) : State × LCmd :=
  let (s1, c1) := beginCommand s ck k c
  if c1.finished then (s1, c1)
  else
    let (s2, c2) := onePiece s1 ck k slot c1
    if c2.finished then (s2, c2)
    else (s2, { c2 with piece := c2.piece + 1, finished := decide (c2.pieces ≤ c2.piece + 1) })

/-- Whether two commands name a common slot. -/
def shareSlot (c d : LCmd) : Bool := c.slots.any (fun i => d.slots.contains i && !bit d.gone i)

/-- Whether a command reads slots, and whether it reads the lattice table (R213, R216). -/
def LCmd.readsSlots (c : LCmd) : Bool := !c.finished && (c.fn == 1 || c.fn == 2)
def LCmd.readsTable (c : LCmd) : Bool := !c.finished && c.fn == 1 && c.type == 11

/-- Whether a command must come after an earlier one by slots or the lattice table (R211, R216, R224). -/
def slotAfter (c d : LCmd) : Bool :=
  decide (d.seq < c.seq) &&
    ((c.readsSlots && d.fn == 0 && shareSlot c d) || (c.fn == 0 && (d.readsSlots || d.fn == 0) && shareSlot c d) ||
     (c.readsTable && d.fn == 7) || (c.fn == 7 && (d.readsTable || d.fn == 7)))

/-- Whether the next piece of a command may start: earlier writes are done (R173, R174), earlier commands on its slots and on
the table too; an unbind does not wait for what a park has frozen (R211). -/
def pieceReady (s : State) (ck : Nat) (c : LCmd) : Bool :=
  !c.finished &&
  (c.begun || c.readLen == 0 || !readWaits s ck c.seq c.key (c.readSegs ck)) &&
  !(s.queuedCommands ck).any (slotAfter c) &&
  ((c.fn == 0 && decide (2 ≤ c.flags)) || !(frozenCommands s ck).any (slotAfter c))

/-- The command of a core that may do a piece: its head, or in a frozen loom a privileged drain (R220, R228). -/
def candidate? (s : State) (ck k : Nat) (frozen : Bool) : Option LCmd :=
  let q := (s.coreAt k).loom.queue
  match q.find? (fun c => c.ahead && !c.finished) with
  | some c => some c
  | none =>
    if frozen then none
    else match q.head? with
      | some c => if pieceReady s ck c then some c else none
      | none => none

/-- The cores in ascending cyclic order from a number. -/
def coresFrom (c : Nat) : List Nat := (List.range 8).map (fun i => (c + i) % 8)

/-- The class and deadline of the task that a core runs. -/
def runningTask (s : State) (ck c : Nat) : Task :=
  match (s.coreAt (ck * 8 + c)).running with
  | some i => (s.clusterAt ck).task i
  | none => {}

/-- Start a new round: every core has its credit again, by the weight it has now (R112, R371). -/
def newRound (s : State) (ck c : Nat) : State :=
  let s1 := (coreKeys ck).foldl (fun s k => let x := s.coreAt k; s.putCore k { x with credit := 0, share := x.loom.weight }) s
  let cl := s1.clusterAt ck
  s1.putCluster ck { cl with loom := { cl.loom with lastCore := c, cursor := c } }

/-- Choose the core whose command does the next piece (R112): an urgent drain (R220), a DEADLINE core by deadline, else
weighted round robin, in which a core whose head cannot start is passed over. -/
def chooseCore (s : State) (ck : Nat) : Option (Nat × State) :=
  let l := (s.clusterAt ck).loom
  let can := fun (c : Nat) => (candidate? s ck (ck * 8 + c) l.frozen).isSome
  let urgent := fun (c : Nat) => (s.coreAt (ck * 8 + c)).loom.queue.any (fun q => q.ahead && !q.finished)
  match (List.range 8).find? urgent with
  | some c => some (c, s)
  | none =>
    let ready := (List.range 8).filter can
    match minBy (fun c => (runningTask s ck c).deadline) (ready.filter (fun c => (runningTask s ck c).cls == 0)) with
    | some c => some (c, s)
    | none =>
      let credit := fun (c : Nat) =>
        let x := s.coreAt (ck * 8 + c)
        ready.contains c && decide (x.credit ≤ x.share)
      let (pick, s1) := match (coresFrom l.cursor).find? credit with
        | some c => (some c, let cl := s.clusterAt ck; s.putCluster ck { cl with loom := { cl.loom with cursor := c } })
        | none => match (coresFrom (l.lastCore + 1)).find? ready.contains with
          | some c => (some c, newRound s ck c)
          | none => (none, s)
      pick.map fun c =>
        let x := s1.coreAt (ck * 8 + c)
        (c, s1.putCore (ck * 8 + c) { x with credit := x.credit + 1 })

/-- Replace a command of a core's queue. -/
def putCommand (s : State) (k : Nat) (c : LCmd) : State :=
  let x := s.coreAt k
  s.putCore k { x with loom := { x.loom with queue := x.loom.queue.map (fun q => if q.seq == c.seq then c else q) } }

/-- LOOM_PIECE_START (R112, R224): the chosen command does its next piece. -/
def execLoomPieceStart (ck : Nat) (s : State) : Out :=
  .next (
    match chooseCore s ck with
    | none => s
    | some (c, s1) =>
      let k := ck * 8 + c
      match candidate? s1 ck k (s1.clusterAt ck).loom.frozen, (s1.coreAt k).running with
      | some q, some slot =>
        let (s2, q2) := doPiece s1 ck k slot q
        putCommand s2 k q2
      | _, _ => s1)

/-- A frozen command that was to read a slot loses it (R211, R231). -/
def loseSlots (s : State) (ck : Nat) (is : List Nat) (seq : Nat) : State :=
  let c := s.clusterAt ck
  let mark := fun (q : LCmd) => if q.readsSlots && decide (q.seq < seq) then
    { q with gone := is.foldl (fun g i => if q.slots.contains i then putFld g i 1 1 else g) q.gone } else q
  s.putCluster ck { c with tasks := c.tasks.map (fun t =>
    if t.2.image then
      (t.1, { t.2 with parked := { t.2.parked with loom := { t.2.parked.loom with queue := t.2.parked.loom.queue.map mark } } })
    else t) }

/-- The slots that a bind or an unbind leaves (R210, R211, R363). -/
def finishBind (s : State) (ck slot : Nat) (c : LCmd) : State :=
  let cl := s.clusterAt ck
  let l := cl.loom
  if 2 ≤ c.flags then
    let go := c.slots.filter (fun i => (l.slot i).held != 0 && (c.flags == 3 || (l.slot i).heldFor slot c.space))
    let s1 := s.putCluster ck { cl with loom := { l with slots := l.slots.filter (fun x => !go.contains x.1) } }
    loseSlots s1 ck go c.seq
  else if c.code != 0 then s
  else
    let n := imageBytes c.type
    let at' := fun (off len : Nat) => leNat ((c.out.drop off).take len)
    let slots := (List.range c.nk).foldl (fun m j => mput m (c.f + j)
      { held := if bit c.second 16 then 2 else 1, slot := slot, space := c.space, type := c.type, image := at' (n * j) n,
        scales := if c.flags = 1 then at' (n * c.nk + 32 * j) 32 else leNat (List.replicate 32 127) }) l.slots
    s.putCluster ck { cl with loom := { l with slots := slots } }

/-- The accumulators whose flags a drain with release clears (R218, R366). -/
def releaseAcc (s : State) (k : Nat) (c : LCmd) : State :=
  if c.fn == 4 && bit c.control 10 && c.code == 0 then
    let o := c.owner k
    let x := s.coreAt o
    let n := if c.toVec then 1 else c.m
    s.putCore o { x with loom := (List.range n).foldl (fun l r => l.flag (c.a + r) false false false) x.loom }
  else s

/-- What a finished command writes beside its status word (R220, R221, R211, R216, R366). -/
def commandEffect (s : State) (ck k slot t : Nat) (c : LCmd) : State :=
  match c.fn with
  | 0 => finishBind s ck slot c
  | 4 =>
    let s1 :=
      if c.code != 0 then s
      else if c.toVec then
        (List.range c.c).foldl (fun s i =>
          s.putCore k ((s.coreAt k).setV (c.d + i) (BitVec.ofNat 512 (leNat ((c.out.drop (64 * i)).take 64))))) s
      else writeSegs { ck := ck, space := c.space, time := t, dom := some c.ddom } s (c.writeSegs ck) c.out
    releaseAcc s1 k c
  | 6 => if c.code != 0 then s
    else writeSegs { ck := ck, space := c.space, time := t, dom := some c.ddom } s (c.writeSegs ck) c.out
  | 7 =>
    if c.code != 0 then s
    else
      let cl := s.clusterAt ck
      s.putCluster ck { cl with loom := { cl.loom with lattice := leNat c.out, latticeTag := some c.space, latticeUe := false } }
  | _ => s

/-- Take a completed command out of its queue; a failure stands in LMSTAT, copied lines go that no other command reads, and the
scale cache is bound again behind the last command that was accepted before a park (R217, R226, R233). -/
def retireCommand (s : State) (ck k : Nat) (c : LCmd) : State :=
  let x := s.coreAt k
  let l := x.loom
  let l1 := { l with queue := l.queue.filter (fun q => q.seq != c.seq)
                     firstFail := if l.firstFail = 0 then c.code else l.firstFail
                     failed := if c.code = 0 then l.failed else min 255 (l.failed + 1) }
  let l2 := match l1.rebinds.find? (fun r => r.1 == c.seq) with
    | some r => { l1 with lines := [], cache := some r.2, rebinds := l1.rebinds.filter (fun r => r.1 != c.seq) }
    | none => l1
  let s1 := s.putCore k { x with loom := l2 }
  let others := (s1.commandsOf ck).flatMap (·.copies)
  let cl := s1.clusterAt ck
  s1.putCluster ck ((c.copies.filter (fun p => !others.any (fun q => q.2 == p.2))).foldl (fun (cl : Cluster) p => cl.release p.2) cl)

/-- Whether a command's array write must wait for other work (R173, R174). -/
def commandBlocked (s : State) (ck : Nat) (c : LCmd) : Bool :=
  c.writeLen != 0 && c.code == 0 && writeWaits s ck c.seq c.key (c.writeSegs ck)

/-- The status word of a command (R225). -/
def LCmd.status (c : LCmd) : Word := loomStatus c.fn c.code c.reason c.steps

/-- LOOM_COMMAND_COMPLETE (R173, R174, R225): results and status word are written at t_c. -/
def execLoomCommandComplete (ck c : Nat) (s : State) : Out :=
  .next (
    let k := ck * 8 + c
    let q := (s.coreAt k).loom.queue
    let done := match q.find? (fun c => c.ahead && c.finished) with
      | some c => some c
      | none => (q.head?).filter (·.finished)
    match done, (s.coreAt k).running with
    | some c, some slot =>
      if commandBlocked s ck c then s
      else
        let ws := if c.code = 0 then c.writeSegs ck else []
        match beforeSegs s (.ofJob ck c.seq c.key) ws with
        | none => s
        | some s0 =>
          let (t, s1) := writePass s0 ws (max c.time (c.tr.getD 0) + 1)
          let s2 := retireCommand (commandEffect s1 ck k slot t c) ck k c
          deliverWord (bumpUsed s2 ck slot t) ck slot c.dest c.status t 0 none
    | _, _ => s)

/-- LOOM_FREEZE_DONE (R228, R367): every queue has stopped, which in the model is so between any two steps; the
freeze's status word is written. -/
def execLoomFreezeDone (ck : Nat) (s : State) : Out :=
  .next (
    let cl := s.clusterAt ck
    let s1 := s.putCluster ck { cl with loom := { cl.loom with freezing := [] } }
    cl.loom.freezing.foldl (fun s w =>
      if ((s.clusterAt w.ck).task w.slot).st == .free || ((s.clusterAt w.ck).entry w.slot).count != w.count then s
      else deliverWord s w.ck w.slot w.reg (loomStatus 9 0 0 0) 0 0 none) s1)

end Sys2Proof.Machine
end

