-- ==== Sys2Proof/Machine/Real.lean ====
section
/-! DEFINITION. Real functions in fixed point, n standing for n ÷ 2^P, for the functions that the spec bounds and does
not fix (R201, R205), and the choice of a value within a bound. The errors of these series lie far below the last place
that a bound counts (log entries 7 and 8). -/

namespace Sys2Proof.Machine

/-- m × 2^k, truncated. -/
def natScale (m : Nat) (k : Int) : Nat := if 0 ≤ k then m * 2 ^ k.toNat else m / 2 ^ (-k).toNat

/-- m × 2^k of a signed number, truncated toward zero. -/
def intScale (z : Int) (k : Int) : Int := if z < 0 then -(natScale z.natAbs k : Int) else natScale z.natAbs k

/-- Sum of t ÷ (k × (k + 2) …) terms of the arc tangent of 1 ÷ n with alternating signs when `alt`. -/
def atanTerms (n2 : Nat) (alt : Bool) : Nat → Nat → Nat → Int
  | 0, _, _ => 0
  | fuel + 1, t, k =>
    let rest := atanTerms n2 alt fuel (t / n2) (k + 2)
    ((t / k : Nat) : Int) + (if alt then -rest else rest)

/-- π. -/
def piFix (p : Nat) : Nat :=
  (4 * (4 * atanTerms 25 true p (2 ^ p / 5) 1 - atanTerms 57121 true p (2 ^ p / 239) 1)).toNat

/-- The natural logarithm of 2. -/
def ln2Fix (p : Nat) : Nat := (2 * atanTerms 9 false p (2 ^ p / 3) 1).toNat

/-- The terms of the exponential series from the n-th on. -/
def expTerms (p r : Nat) : Nat → Nat → Nat → Nat
  | 0, _, _ => 0
  | fuel + 1, t, n => t + expTerms p r fuel (t * r / 2 ^ p / n) (n + 1)

/-- e^t of a fixed-point t. -/
def expFix (p : Nat) (t : Int) : Nat :=
  let l := ln2Fix p
  let k := t / (l : Int)
  natScale (expTerms p (t % (l : Int)).toNat p (2 ^ p) 1) k

/-- 2^t of a fixed-point t. -/
def exp2Fix (p : Nat) (t : Int) : Nat :=
  let one : Int := ((2 ^ p : Nat) : Int)
  natScale (expTerms p ((t % one).toNat * ln2Fix p / 2 ^ p) p (2 ^ p) 1) (t / one)

/-- The natural logarithm of a fixed-point x in [1, 2). -/
def lnFix (p x : Nat) : Nat :=
  let z := (x - 2 ^ p) * 2 ^ p / (x + 2 ^ p)
  let z2 := z * z / 2 ^ p
  let rec terms : Nat → Nat → Nat → Nat
    | 0, _, _ => 0
    | fuel + 1, t, k => t / k + terms fuel (t * z2 / 2 ^ p) (k + 2)
  2 * terms p z 1

/-- The terms of the sine series. -/
def sinTerms (p t2 : Nat) : Nat → Nat → Nat → Int
  | 0, _, _ => 0
  | fuel + 1, t, k => (t : Int) - sinTerms p t2 fuel (t * t2 / 2 ^ p / ((k + 1) * (k + 2))) (k + 2)

/-- sin 2πf of a fixed-point f in [0, 1), with its sign. -/
def sinTurn (p f : Nat) : Bool × Nat :=
  let half := 2 ^ p / 2
  let g := f % half
  let h := min g (half - g)
  let t := 2 * piFix p * h / 2 ^ p
  (decide (half ≤ f), (sinTerms p (t * t / 2 ^ p) 200 t 1).toNat)

/-- The square root of a fixed-point x. -/
def sqrtFix (p x : Nat) : Nat := isqrt (x * 2 ^ p)

/-- The terms a^(2n+1) ÷ (1 × 3 × … × (2n+1)) of the normal distribution function. -/
def normTerms (p a2 : Nat) : Nat → Nat → Nat → Nat
  | 0, _, _ => 0
  | fuel + 1, t, k => t + normTerms p a2 fuel (t * a2 / 2 ^ p / (k + 2)) (k + 2)

/-- The standard normal density φ(a). -/
def densFix (p a : Nat) : Nat :=
  expFix p (-((a * a / 2 ^ (p + 1) : Nat) : Int)) * 2 ^ p / sqrtFix p (2 * piFix p)

/-- The standard normal distribution Φ(±a), with φ(a) given. -/
def normFix (p a dens : Nat) (neg : Bool) : Nat :=
  let h := dens * normTerms p (a * a / 2 ^ p) 2500 a 1 / 2 ^ p
  if neg then 2 ^ p / 2 - h else 2 ^ p / 2 + h

/-- n units in the last place of an F32 at a fixed-point magnitude. -/
def ulps (p n y : Nat) : Nat := n * 2 ^ (max ((Nat.log2 y : Int) - 23) ((p : Int) - 149)).toNat

/-- An F32 that is chosen freely within a tolerance of a fixed-point value: the offered one if it keeps the tolerance
and, where asked, is not negative; else the nearest. -/
def pick (p : Nat) (neg : Bool) (y tol : Nat) (unsigned : Bool) (offer : Nat) : Nat :=
  let near := f32.arith 0 0 (.fin neg y (-(p : Int)))
  match f32.dec (offer % 4294967296) with
  | .fin n m e =>
    let c := natScale m (e + p)
    let far := if n == neg then max c y - min c y else c + y
    if far ≤ tol && !(unsigned && n) then offer % 4294967296 else near
  | _ => near

end Sys2Proof.Machine
end

