-- ==== Sys2Proof/Machine/Vector.lean ====
section
/-! DEFINITION. The vector instructions of MAJ 0x22 and VCMP (R421 to R434): lanes, rounding (R193, R194), conversion
(R196, R197). -/

namespace Sys2Proof.Machine

/-- The stochastic bits of lane i of a register of a member (R194). -/
def stochBits (s : State) (k i : Nat) : Nat := fld ((s.coreAt k).v 23).toNat (16 * (i % 32)) 16

/-- Lane i of w bits of a register. -/
def laneOf (v : Vec) (w i : Nat) : Nat := fld v.toNat (w * i) w

/-- A register from its lanes by number. -/
def fromLanes (w : Nat) (f : Nat → Nat) : Vec := ofLanes w ((List.range (512 / w)).map f)

/-- Run a body on a vector operand, or take QUNDER (R124). -/
def withV (s : State) (a : BitVec 5) (body : List Vec → State) : State :=
  match s.readV a with
  | .inr (m, v) => trapMember s m 15 v
  | .inl xs => body xs

/-- An operation of one operand: f takes the stochastic bits and the lane (R422). -/
def vec1 (d a : BitVec 5) (w : Nat) (f : Nat → Nat → Nat) (s : State) : State :=
  withV s a fun xs =>
    s.retV d ((s.members.zip xs).map (fun p => fromLanes w (fun i => f (stochBits s p.1 i) (laneOf p.2 w i))))

/-- An operation of two operands (R422). -/
def vec2 (d a b : BitVec 5) (w : Nat) (f : Nat → Nat → Nat → Nat) (s : State) : State :=
  withV s a fun xs => withV s b fun ys =>
    s.retV d ((s.members.zip (xs.zip ys)).map
      (fun p => fromLanes w (fun i => f (stochBits s p.1 i) (laneOf p.2.1 w i) (laneOf p.2.2 w i))))

/-- An operation of two operands and the old destination (R421, R422). -/
def vec3 (d a b : BitVec 5) (w : Nat) (f : Nat → Nat → Nat → Nat → Nat) (s : State) : State :=
  withV s a fun xs => withV s b fun ys => withV s d fun ds =>
    s.retV d ((s.members.zip (xs.zip (ys.zip ds))).map
      (fun p => fromLanes w (fun i => f (stochBits s p.1 i) (laneOf p.2.1 w i) (laneOf p.2.2.1 w i) (laneOf p.2.2.2 w i))))

/-- Addition of two lanes of a type (R185, R196, R198). -/
def laneAdd (t rm st x y : Nat) : Nat :=
  match fmtOf t with
  | some f => f.arith rm st ((f.dec x).add rm (f.dec y))
  | none => (x + y) % 2 ^ laneBits t

/-- Subtraction of two lanes of a type. -/
def laneSub (t rm st x y : Nat) : Nat :=
  match fmtOf t with
  | some f => f.arith rm st ((f.dec x).sub rm (f.dec y))
  | none => (x + 2 ^ laneBits t - y) % 2 ^ laneBits t

/-- Product of two lanes of a type. -/
def laneMul (t rm st x y : Nat) : Nat :=
  match fmtOf t with
  | some f => f.arith rm st ((f.dec x).mul (f.dec y))
  | none => x * y % 2 ^ laneBits t

/-- x × y + z on lanes of a type, with one rounding. -/
def laneFma (t rm st x y z : Nat) : Nat :=
  match fmtOf t with
  | some f => f.arith rm st ((f.dec x).fma rm (f.dec y) (f.dec z))
  | none => (x * y + z) % 2 ^ laneBits t

/-- The order of MIN and MAX on numbers: −0 below +0 (R423). -/
def Val.below (a b : Val) : Bool :=
  a.lt b || (a.isZero && b.isZero && (match a, b with
    | .fin n _ _, .fin m _ _ => n && !m
    | _, _ => false))

/-- The smaller lane, or the larger (R423). -/
def laneMin (t : Nat) (larger : Bool) (x y : Nat) : Nat :=
  match fmtOf t with
  | some f =>
    let a := f.dec x
    let b := f.dec y
    if a.isNan then f.arith 0 0 a
    else if b.isNan then f.arith 0 0 b
    else if a.below b then (if larger then y else x)
    else if b.below a then (if larger then x else y)
    else x
  | none =>
    let w := laneBits t
    let less := if t % 2 = 0 then decide (sext x w < sext y w) else decide (x < y)
    if less != larger then x else y

/-- The absolute value of a lane (R423). -/
def laneAbs (t x : Nat) : Nat :=
  match fmtOf t with
  | some f =>
    match f.dec x with
    | .nan _ frac => f.nanBits false frac
    | _ => x % 2 ^ (f.eb + f.p)
  | none =>
    let w := laneBits t
    if t % 2 = 0 && bit x (w - 1) then (2 ^ w - x) % 2 ^ w else x

/-- VADD (R425). -/
def execVadd (d a b t : BitVec 5) (s : State) : Out :=
  .next (s.legal (.vadd d a b t) fun s => vec2 d a b (laneBits t.toNat) (laneAdd t.toNat s.rm) s)

/-- VSUB (R433). -/
def execVsub (d a b t : BitVec 5) (s : State) : Out :=
  .next (s.legal (.vsub d a b t) fun s => vec2 d a b (laneBits t.toNat) (laneSub t.toNat s.rm) s)

/-- VMUL (R430). -/
def execVmul (d a b t : BitVec 5) (s : State) : Out :=
  .next (s.legal (.vmul d a b t) fun s => vec2 d a b (laneBits t.toNat) (laneMul t.toNat s.rm) s)

/-- VFMA (R430). -/
def execVfma (d a b t : BitVec 5) (s : State) : Out :=
  .next (s.legal (.vfma d a b t) fun s => vec3 d a b (laneBits t.toNat) (laneFma t.toNat s.rm) s)

/-- VMIN (R430). -/
def execVmin (d a b t : BitVec 5) (s : State) : Out :=
  .next (s.legal (.vmin d a b t) fun s => vec2 d a b (laneBits t.toNat) (fun _ => laneMin t.toNat false) s)

/-- VMAX (R430). -/
def execVmax (d a b t : BitVec 5) (s : State) : Out :=
  .next (s.legal (.vmax d a b t) fun s => vec2 d a b (laneBits t.toNat) (fun _ => laneMin t.toNat true) s)

/-- VABS (R424). -/
def execVabs (d a t : BitVec 5) (s : State) : Out :=
  .next (s.legal (.vabs d a t) fun s => vec1 d a (laneBits t.toNat) (fun _ => laneAbs t.toNat) s)

/-- VSEL (R433). -/
def execVsel (d a b t : BitVec 5) (s : State) : Out :=
  .next (s.legal (.vsel d a b t) fun s =>
    let w := laneBits t.toNat
    vec3 d a b w (fun _ x y z => if bit z (w - 1) then x else y) s)

/-- VMOV (R430). -/
def execVmov (d a t : BitVec 5) (s : State) : Out :=
  .next (s.legal (.vmov d a t) fun s => withV s a fun xs => s.retV d xs)

/-- VBIT (R426). -/
def execVbit (d a b t : BitVec 5) (s : State) : Out :=
  .next (s.legal (.vbit d a b t) fun s =>
    withV s a fun xs => withV s b fun ys => withV s d fun ds =>
      s.retV d ((xs.zip (ys.zip ds)).map (fun p => (p.1 &&& p.2.2) ||| (p.2.1 &&& ~~~p.2.2))))

/-- VPERM (R431): the indices reach every lane of every member. -/
def execVperm (d a b t : BitVec 5) (s : State) : Out :=
  .next (s.legal (.vperm d a b t) fun s =>
    withV s a fun xs => withV s b fun ys =>
      let w := laneBits t.toNat
      let all := allLanes xs w
      s.retV d (ys.map (fun y => fromLanes w (fun i => all.getD (laneOf y w i % all.length) 0))))

/-- Row i of the transposed blocks of eight registers (R434). -/
def transposeRow (w : Nat) (rows : List Vec) (i : Nat) : Vec :=
  fromLanes w (fun l => laneOf (rows.getD (l % 8) 0) w (l / 8 * 8 + i))

/-- VTRN: each member transposes its own registers, all read before any is written (R434). -/
def execVtrn (d a t : BitVec 5) (s : State) : Out :=
  .next (s.legal (.vtrn d a t) fun s =>
    (s.members.foldl (fun s' k =>
      let c := s.coreAt k
      let rows := (List.range 8).map (fun i => c.v (a.toNat + i))
      s'.putCore k ((List.range 8).foldl (fun c i => c.setV (d.toNat + i) (transposeRow (laneBits t.toNat) rows i)) c))
      s).adv)

/-- VBCAST (R426). -/
def execVbcast (d a t : BitVec 5) (s : State) : Out :=
  .next (s.legal (.vbcast d a t) fun s =>
    withV s a fun xs =>
      let w := laneBits t.toNat
      s.retV d (xs.map (fun _ => fromLanes w (fun _ => laneOf (xs.headD 0) w 0))))

/-- VIDX (R431). -/
def execVidx (d a t : BitVec 5) (s : State) : Out :=
  .next (s.legal (.vidx d a t) fun s =>
    withV s a fun xs =>
      let w := laneBits t.toNat
      let n := 512 / w
      let base := laneOf (xs.headD 0) w 0
      s.retV d ((List.range xs.length).map (fun j => fromLanes w (fun i => (base + n * j + i) % 2 ^ w))))

/-- The exact sum of values: the first NaN among them, else the sum (R198, R431). -/
def sumVals (rm : Nat) (vs : List Val) : Val :=
  match vs.find? Val.isNan, vs with
  | some v, _ => v
  | none, [] => .fin false 0 0
  | none, v :: rest => rest.foldl (Val.add rm) v

/-- The sum of all lanes (R431). -/
def laneSum (t rm st : Nat) (ls : List Nat) : Nat :=
  match fmtOf t with
  | some f => f.arith rm st (sumVals rm (ls.map f.dec))
  | none => ls.foldl (· + ·) 0 % 2 ^ laneBits t

/-- VRED (R431). -/
def execVred (d a t : BitVec 5) (s : State) : Out :=
  .next (s.legal (.vred d a t) fun s =>
    withV s a fun xs =>
      let r := laneSum t.toNat s.rm (stochBits s s.cur 0) (allLanes xs (laneBits t.toNat))
      s.retV d ((List.range xs.length).map (fun j => if j = 0 then BitVec.ofNat 512 r else 0)))

/-- A dot product of the w-bit elements of two 32-bit lanes, added to a 32-bit lane (R429). NaNs come in the order of
the lanes of a, of b, then of d. -/
def laneDot (t rm st x y z : Nat) : Nat :=
  let w := laneBits t
  let xs := (List.range (32 / w)).map (fun j => fld x (w * j) w)
  let ys := (List.range (32 / w)).map (fun j => fld y (w * j) w)
  match fmtOf t with
  | some f =>
    let vx := xs.map f.dec
    let vy := ys.map f.dec
    match (vx ++ vy ++ [f32.dec z]).find? Val.isNan with
    | some v => f32.arith 0 0 v
    | none => f32.arith rm st (sumVals rm (f32.dec z :: (vx.zip vy).map (fun p => p.1.mul p.2)))
  | none =>
    let val := fun (u : Nat) => if t = 0 then sext u 8 else ((u : Nat) : Int)
    lowBits ((z : Int) + ((xs.zip ys).map (fun p => val p.1 * val p.2)).foldl (· + ·) 0) 32

/-- VDOT (R429). -/
def execVdot (d a b t : BitVec 5) (s : State) : Out :=
  .next (s.legal (.vdot d a b t) fun s => vec3 d a b 32 (laneDot t.toNat s.rm) s)

/-- The lanes of VCVT on one member: the register and its lowest lane that overflows (R428). -/
def cvtMember (s : State) (k src dst : Nat) (v : Vec) : Vec × Option Nat :=
  let ws := laneBits src
  let wd := laneBits dst
  let n := min (512 / ws) (512 / wd)
  let rs := (List.range n).map (fun i => convType dst s.rm (stochBits s k i) s.ovf (decType src (laneOf v ws i)))
  (ofLanes wd (rs.map (·.1)), (List.range n).find? (fun i => (rs.getD i (0, false)).2))

/-- The first member whose conversion overflows, with its place and lane. -/
def firstOver (l : List (Vec × Option Nat)) : Option (Nat × Nat) :=
  (List.range l.length).findSome? (fun j => ((l.getD j (0, none)).2).map (fun i => (j, i)))

/-- Write converted registers, or take CVTOVF for the lowest lane (R197). -/
def retConverted (s : State) (d : BitVec 5) (dst : Nat) (rs : List (Vec × Option Nat)) : State :=
  match s.destUnder d with
  | some (m, v) => trapMember s m 15 v
  | none =>
    match firstOver rs with
    | some (j, i) =>
      trapMember s ((s.members.getD j s.cur) % 8) 12 (wordOfNat (512 / laneBits dst * j + i + dst * 1024))
    | none => s.retV d (rs.map (·.1))

/-- VCVT: from type S in the c field to type D in the b field (R428). -/
def execVcvt (d a e t : BitVec 5) (s : State) : Out :=
  .next (s.legal (.vcvt d a e t) fun s =>
    withV s a fun xs =>
      retConverted s d e.toNat ((s.members.zip xs).map (fun p => cvtMember s p.1 t.toNat e.toNat p.2)))

/-- A condition on two lanes of a type (R298, R427). -/
def laneCond (t c x y : Nat) : Bool :=
  match fmtOf t with
  | none => condInt c (laneBits t) x y
  | some f =>
    let a := f.dec x
    let b := f.dec y
    match c with
    | 0 => a.eq b
    | 1 => !a.eq b
    | 2 => a.lt b
    | 3 => a.lt b || a.eq b
    | 4 => b.lt a
    | _ => b.lt a || a.eq b

/-- VCMP: the lanes of a group become bits of a general register, its other bits stay (R427). -/
def execVcmp (d a b : BitVec 5) (x : BitVec 1) (c : BitVec 4) (y z : BitVec 1) (t : BitVec 4) (s : State) : Out :=
  .next (s.legal (.vcmp d a b x c y z t) fun s =>
    withV s a fun xs => withV s b fun ys =>
      let w := laneBits t.toNat
      let g := 64 * (y.toNat + 2 * z.toNat + 4 * x.toNat)
      let rs := (((allLanes xs w).zip (allLanes ys w)).drop g).take 64
      let bits := rs.map (fun p => laneCond t.toNat c.toNat p.1 p.2)
      s.ret d ((List.range bits.length).foldl (fun r i => setBit r i (bits.getD i false)) (s.x d)))

end Sys2Proof.Machine
end

