-- ==== Sys2Proof/Machine/Special.lean ====
section
/-! DEFINITION. The special functions VRCP, VRSQ, VEXP2, VLOG2, VSIN and VTANH (R201, R432). What R201 bounds and does
not fix is a free value within the bound (log entry 7). -/

namespace Sys2Proof.Machine

/-- The encoding of an F32 NaN, infinity or exact value. -/
def f32Bits (v : Val) : Nat := f32.arith 0 0 v

/-- Whether a finite value is a power of two times 2^e: its exponent. -/
def powerOf (m : Nat) (e : Int) : Option Int :=
  let k := Nat.log2 m
  if m = 2 ^ k then some ((k : Int) + e) else none

/-- The value of an integer, if a finite value is one. -/
def integerOf (n : Bool) (m : Nat) (e : Int) : Option Int :=
  let z : Nat := natScale m e
  if 0 ≤ e || natScale z (-e) == m then some (if n then -(z : Int) else z) else none

/-- The free value offered for an operand (log entry 7). -/
def offered (fn x : Nat) : Nat := (Config.special fn (BitVec.ofNat 32 x)).toNat

/-- 1 ÷ x (R201). -/
def rcp32 (x : Nat) : Nat :=
  match f32.dec x with
  | .nan n f => f32Bits (.nan n f)
  | .inf n => f32Bits (.fin n 0 0)
  | .fin n m e =>
    if m = 0 then f32Bits (.inf n)
    else
      match powerOf m e with
      | some k => f32Bits (.fin n 1 (-k))
      | none =>
        let y := natScale 1 (320 - e) / m
        if f32Bits (.fin n y (-320)) == f32.infBits n then f32.infBits n
        else pick 320 n y (ulps 320 1 y) false (offered 0 x)

/-- 1 ÷ √x (R201). -/
def rsq32 (x : Nat) : Nat :=
  match f32.dec x with
  | .nan n f => f32Bits (.nan n f)
  | .inf n => if n then f32Bits Val.fresh else 0
  | .fin n m e =>
    if m = 0 then f32Bits (.inf n)
    else if n then f32Bits Val.fresh
    else
      let y := isqrt (natScale 1 (640 - e) / m)
      match powerOf m e with
      | some k => if k % 2 = 0 then f32Bits (.fin false 1 (-(k / 2))) else pick 320 n y (ulps 320 1 y) false (offered 1 x)
      | none => pick 320 n y (ulps 320 1 y) false (offered 1 x)

/-- 2^x (R201). -/
def exp232 (x : Nat) : Nat :=
  match f32.dec x with
  | .nan n f => f32Bits (.nan n f)
  | .inf n => if n then 0 else f32Bits (.inf false)
  | .fin n m e =>
    match integerOf n m e with
    | some k => if 127 < k then f32Bits (.inf false) else if k < -149 then 0 else f32Bits (.fin false 1 k)
    | none =>
      let t := intScale (if n then -(m : Int) else m) (e + 320)
      if ((128 * 2 ^ 320 : Nat) : Int) ≤ t then f32Bits (.inf false)
      else
        let y := if t < -((200 * 2 ^ 320 : Nat) : Int) then 0 else exp2Fix 320 t
        pick 320 false y (ulps 320 2 y) false (offered 2 x)

/-- log2 x (R201). -/
def log232 (x : Nat) : Nat :=
  match f32.dec x with
  | .nan n f => f32Bits (.nan n f)
  | .inf n => f32Bits (if n then Val.fresh else .inf false)
  | .fin n m e =>
    if m = 0 then f32Bits (.inf true)
    else if n then f32Bits Val.fresh
    else
      match powerOf m e with
      | some k => f32Bits (Val.ofInt k)
      | none =>
        let k := Nat.log2 m
        let f : Nat := lnFix 320 (natScale m (320 - (k : Int))) * 2 ^ 320 / ln2Fix 320
        let z := ((k : Int) + e) * ((2 ^ 320 : Nat) : Int) + (f : Int)
        let near1 := decide (-1 ≤ (k : Int) + e) && decide ((k : Int) + e ≤ 0)
        let y := z.natAbs
        let tol := if near1 then max (ulps 320 2 y) (2 ^ 298) else ulps 320 2 y
        pick 320 (decide (z < 0)) y tol false (offered 3 x)

/-- sin 2πx (R201). -/
def sin32 (x : Nat) : Nat :=
  match f32.dec x with
  | .nan n f => f32Bits (.nan n f)
  | .inf _ => f32Bits Val.fresh
  | .fin n m e =>
    let f := natScale m (e + 320) % 2 ^ 320
    if f % 2 ^ 319 = 0 then f32.signBit n
    else if f = 2 ^ 318 then f32Bits (.fin n 1 0)
    else if f = 3 * 2 ^ 318 then f32Bits (.fin (!n) 1 0)
    else
      let (g, y) := sinTurn 320 f
      pick 320 (g != n) y (2 ^ 298) false (offered 4 x)

/-- tanh x (R201). -/
def tanh32 (x : Nat) : Nat :=
  match f32.dec x with
  | .nan n f => f32Bits (.nan n f)
  | .inf n => f32Bits (.fin n 1 0)
  | .fin n m e =>
    if m = 0 then f32.signBit n
    else
      let a := natScale m (e + 320)
      if 10 * 2 ^ 320 ≤ a then f32Bits (.fin n 1 0)
      else
        let ex := expFix 320 ((2 * a : Nat) : Int)
        let y := (ex - 2 ^ 320) * 2 ^ 320 / (ex + 2 ^ 320)
        let tol := if a < 2 ^ 310 then max (ulps 320 2 y) (2 ^ 297) else ulps 320 2 y
        pick 320 n y tol false (offered 5 x)

/-- A special function on a lane of a type: F32 at once, the others through F32 and one rounding (R201). -/
def specialLane (fn : Nat → Nat) (t rm st x : Nat) : Nat :=
  match fmtOf t with
  | some f => if t = 8 then fn x else f.arith rm st (f32.dec (fn (f32.arith 0 0 (f.dec x))))
  | none => x

/-- A special function on all lanes (R432). -/
def specialOp (fn : Nat → Nat) (d a t : BitVec 5) (s : State) : State :=
  vec1 d a (laneBits t.toNat) (specialLane fn t.toNat s.rm) s

/-- VRCP (R201, R432). -/
def execVrcp (d a t : BitVec 5) (s : State) : Out := .next (s.legal (.vrcp d a t) (specialOp rcp32 d a t))
/-- VRSQ (R201, R432). -/
def execVrsq (d a t : BitVec 5) (s : State) : Out := .next (s.legal (.vrsq d a t) (specialOp rsq32 d a t))
/-- VEXP2 (R201, R432). -/
def execVexp2 (d a t : BitVec 5) (s : State) : Out := .next (s.legal (.vexp2 d a t) (specialOp exp232 d a t))
/-- VLOG2 (R201, R432). -/
def execVlog2 (d a t : BitVec 5) (s : State) : Out := .next (s.legal (.vlog2 d a t) (specialOp log232 d a t))
/-- VSIN (R201, R432). -/
def execVsin (d a t : BitVec 5) (s : State) : Out := .next (s.legal (.vsin d a t) (specialOp sin32 d a t))
/-- VTANH (R201, R432). -/
def execVtanh (d a t : BitVec 5) (s : State) : Out := .next (s.legal (.vtanh d a t) (specialOp tanh32 d a t))

end Sys2Proof.Machine
end

