-- ==== Sys2Proof/Machine/Moment.lean ====
section
/-! DEFINITION. The moment instructions of MAJ 0x26 (R129, R202 to R207, R374 to R394). -/

namespace Sys2Proof.Machine

/-- The lanes of a moment type: 16 of MF32 (0) or 32 of MB16 (1) (R129). -/
def momLanes (t : BitVec 1) : Nat := if t = 0 then 16 else 32

/-- The component format of a moment type. -/
def momFmt (t : BitVec 1) : Fmt := if t = 0 then f32 else bf16

/-- The type code of a component: F32 or BF16. -/
def momCode (t : BitVec 1) : Nat := if t = 0 then 8 else 9

/-- Mean and variance of a lane, widened exactly (R129, R202). -/
def momLane (t : BitVec 1) (m : Mom) (l : Nat) : Val × Val :=
  let f := momFmt t
  let w := f.width
  (f.dec (fld m.toNat (2 * w * l) w), f.dec (fld m.toNat (2 * w * l + w) w))

/-- A moment register from the encodings of its lanes. -/
def ofMomLanes (t : BitVec 1) (ls : List (Nat × Nat)) : Mom :=
  let w := (momFmt t).width
  BitVec.ofNat 1024 (ls.foldr (fun p n => p.1 % 2 ^ w + p.2 % 2 ^ w * 2 ^ w + n * 2 ^ (2 * w)) 0)

/-- The rounding of every step but the last (R194). -/
def innerMode (rm : Nat) : Nat := if rm = 4 then 0 else rm

/-- r(x) of a step that is not the last (R202). -/
def rnd (rm : Nat) (v : Val) : Val := f32.dec (f32.arith (innerMode rm) 0 v)

/-- The last rounding of a component: in F32, or to BF16 after the F32 step (R194, R202). -/
def lastRound (t : BitVec 1) (rm st : Nat) (v : Val) : Nat :=
  if t = 0 then f32.arith rm st v else bf16.arith rm st (rnd rm v)

/-- The sign of a value. -/
def Val.sign : Val → Bool
  | .fin n _ _ => n
  | .inf n => n
  | .nan n _ => n

/-- A product of a variance or covariance: zero where one factor is zero (R202). -/
def Val.mulz (a b : Val) : Val :=
  if a.isNan then a else if b.isNan then b
  else if a.isZero || b.isZero then .fin (a.sign != b.sign) 0 0
  else a.mul b

/-- r(a × b) in a variance. -/
def prodz (rm : Nat) (a b : Val) : Val := rnd rm (a.mulz b)

/-- r(a + b). -/
def sumr (rm : Nat) (a b : Val) : Val := rnd rm (a.add rm b)

/-- The covariance of two operands (R203). -/
def covOf (rm cv : Nat) (va vb : Val) : Val :=
  match cv with
  | 0 => .fin false 0 0
  | 1 => prodz rm va.sqrt vb.sqrt
  | _ => (prodz rm va.sqrt vb.sqrt).flip

/-- MADD and MSUB before the last rounding (R204). -/
def momAdd (minus : Bool) (rm cv : Nat) (a b : Val × Val) : Val × Val :=
  let c2 := (covOf rm cv a.2 b.2).scale 1
  let v := sumr rm a.2 b.2
  if minus then (a.1.sub rm b.1, v.sub rm c2) else (a.1.add rm b.1, v.add rm c2)

/-- MMUL before the last rounding (R204). Which of several NaN operands a component keeps follows the steps (log entry 34). -/
def momMul (rm cv : Nat) (a b : Val × Val) : Val × Val :=
  let c := covOf rm cv a.2 b.2
  let mean := (rnd rm (a.1.mul b.1)).add rm c
  let t1 := prodz rm (prodz rm a.1 a.1) b.2
  let t2 := prodz rm (prodz rm b.1 b.1) a.2
  let t3 := prodz rm ((prodz rm a.1 b.1).scale 1) c
  let t4 := sumr rm (prodz rm a.2 b.2) (prodz rm c c)
  (mean, (sumr rm t1 t2).add rm (sumr rm t3 t4))

/-- MFMA before the last rounding (R204, R381). -/
def momFma (rm cv : Nat) (a b d : Val × Val) : Val × Val :=
  let p := momMul rm cv a b
  ((rnd rm p.1).add rm d.1, (rnd rm p.2).add rm d.2)

/-- MSCL before the last rounding (R204, R390). -/
def momScale (rm : Nat) (k : Val) (a : Val × Val) : Val × Val := (a.1.mul k, a.2.mulz (prodz rm k k))

/-- MSQ before the last rounding (R204, R393). -/
def momSquare (rm : Nat) (a : Val × Val) : Val × Val :=
  ((rnd rm (a.1.mul a.1)).add rm a.2,
   (prodz rm ((prodz rm a.1 a.1).scale 2) a.2).add rm (rnd rm ((prodz rm a.2 a.2).scale 1)))

/-- The precision of the fixed-point values of R205. -/
def prec : Nat := 1024

/-- The free value offered for a component of a moment function (log entry 8). -/
def offeredMoment (fn part : Nat) (mu v : Val) : Nat := Config.moment fn part (f32Bits mu) (f32Bits v)

/-- A component of a moment function: within 4 ulp and never negative (R205). -/
def component (fn part : Nat) (mu v : Val) (y : Nat) : Nat :=
  pick prec false y (ulps prec 4 y) true (offeredMoment fn part mu v)

/-- Both components NaN, if an operand is one (R198, R389). -/
def momNan (mu v : Val) : Option (Nat × Nat) :=
  if mu.isNan then some (f32Bits mu, f32Bits mu) else if v.isNan then some (f32Bits v, f32Bits v) else none

/-- +∞ as an F32. -/
def inf32 : Nat := 0x7F800000

/-- MRELU of finite operands with v above zero: the fixed-point mean and variance (R205). -/
def reluFix (n : Bool) (m : Nat) (e : Int) (vm : Nat) (ve : Int) : Nat × Nat :=
  let a := isqrt (natScale (m * m) (2 * e + 2 * prec - ve) / vm)
  let sigma := isqrt (natScale vm (ve + 2 * prec))
  if 24 * 2 ^ prec ≤ a then
    if n then (0, 0) else (natScale m (e + prec), natScale vm (ve + prec))
  else
    let dens := densFix prec a
    let phi := normFix prec a dens n
    let ap := a * phi / 2 ^ prec
    let b := if n then dens - ap else dens + ap
    let q := a * a / 2 ^ prec * phi / 2 ^ prec + phi
    let ad := a * dens / 2 ^ prec
    let w := (if n then q - ad else q + ad) - b * b / 2 ^ prec
    (sigma * b / 2 ^ prec, natScale (vm * w) ve)

/-- MRELU of one lane as F32 encodings (R205, R389). -/
def momRelu (mu v : Val) : Nat × Nat :=
  match momNan mu v with
  | some r => r
  | none =>
    match mu, v with
    | .inf n, _ => if n then (0, 0) else if v.isZero then (inf32, 0) else (inf32, f32Bits v)
    | .fin _ _ _, .inf _ => (inf32, inf32)
    | .fin n m e, .fin _ vm ve =>
      if vm = 0 then (if n then 0 else f32Bits mu, 0)
      else
        let (y, z) := reluFix n m e vm ve
        (component 6 0 mu v y, component 6 1 mu v z)
    | _, _ => (0, 0)

/-- e^t of a sum of scaled values as a fixed-point value, with what lies far outside F32 cut off. -/
def expSum (t : Int) : Nat :=
  if t < -((400 * 2 ^ prec : Nat) : Int) then 0
  else if ((700 * 2 ^ prec : Nat) : Int) < t then 2 ^ (prec + 1000)
  else expFix prec t

/-- A signed finite value in fixed point. -/
def Val.fix : Val → Int
  | .fin n m e => intScale (if n then -(m : Int) else m) (e + prec)
  | _ => 0

/-- MEXP of one lane as F32 encodings (R205, R380). -/
def momExp (mu v : Val) : Nat × Nat :=
  match momNan mu v with
  | some r => r
  | none =>
    match mu, v with
    | .inf n, _ => if n then (0, 0) else if v.isZero then (inf32, 0) else (inf32, inf32)
    | .fin _ _ _, .inf _ => (inf32, inf32)
    | _, _ =>
      let x := mu.fix
      let z := v.fix
      let mean := expSum (x + (v.scale (-1)).fix)
      let l := 2 * x + 2 * z
      let var := if ((700 * 2 ^ prec : Nat) : Int) < l then 2 ^ (prec + 1000) else expSum l - expSum (l - z)
      (component 7 0 mu v mean, if v.isZero then 0 else component 7 1 mu v var)

/-- MSIGM of finite operands: the fixed-point mean and variance (R205, R392). -/
def sigmFix (mu v : Val) : Nat × Nat :=
  let one := 2 ^ prec
  let a := one + (piFix prec / 8) * v.fix.natAbs / one
  let kappa := isqrt (one * one * one / a)
  let t := mu.fix * (kappa : Int) / (one : Int)
  let ex := if 700 * one < t.natAbs then 0 else expFix prec (-(t.natAbs : Int))
  let hi := one * one / (one + ex)
  let lo := ex * one / (one + ex)
  (if t < 0 then lo else hi, hi * lo / one * (one - kappa) / one)

/-- MSIGM of one lane as F32 encodings: the mean lies in [0, 1] (R205, R392). -/
def momSigm (mu v : Val) : Nat × Nat :=
  match momNan mu v with
  | some r => r
  | none =>
    match mu, v with
    | .inf n, _ => (if n then 0 else 0x3F800000, 0)
    | .fin _ _ _, .inf _ => (0x3F000000, 0x3E800000)
    | _, _ =>
      let (y, z) := sigmFix mu v
      let mean := component 8 0 mu v y
      (if 0x3F800000 < mean then 0x3F800000 else mean, if v.isZero then 0 else component 8 1 mu v z)

/-- The first negative variance among sources, lanes ascending (R207, R376): the TVAL. -/
def negSource (ls : List (List (Val × Val))) : Option Nat :=
  (List.range ls.length).findSome? fun l =>
    let xs := ls.getD l []
    ((List.range xs.length).find? (fun j => (xs.getD j (.inf false, .inf false)).2.negative)).map
      (fun j => l + 32 + 64 * j)

/-- A source lane with a negative variance read as +0. -/
def clampLane (p : Val × Val) : Val × Val := if p.2.negative then (p.1, .fin false 0 0) else p

/-- Whether an encoding of a format is below zero, and whether it is −0. -/
def encNegative (f : Fmt) (x : Nat) : Bool := (f.dec x).negative
def positiveZero (f : Fmt) (x : Nat) : Nat := if x = f.signBit true then 0 else x

/-- Write the lanes of a moment result, or take NEGVAR for the first negative variance (R207, R376). -/
def retMom (s : State) (d : BitVec 5) (t : BitVec 1) (rs : List (Nat × Nat)) : State :=
  let f := momFmt t
  let qs := rs.map (fun p => (p.1, positiveZero f p.2))
  let neg := (List.range qs.length).find? (fun l => encNegative f (qs.getD l (0, 0)).2)
  match neg, s.clamps with
  | some l, false => trap s 11 (wordOfNat l)
  | _, _ =>
    let zs := qs.map (fun p => if encNegative f p.2 then (p.1, 0) else p)
    State.adv { s with core := s.core.setM d.toNat (ofMomLanes t zs) }

/-- The stochastic bits of the mean (0) or the variance (1) of lane l (R194). -/
def momBits (s : State) (l part : Nat) : Nat := stochBits s s.cur (2 * l + part)

/-- The lanes of moment sources, lane by lane, the sources in their order. -/
def momSources (s : State) (t : BitVec 1) (srcs : List Nat) : List (List (Val × Val)) :=
  (List.range (momLanes t)).map (fun l => srcs.map (fun r => momLane t (s.core.m r) l))

/-- A moment instruction (R376): f gives a lane's encodings from its number and its sources. -/
def momOp (s : State) (d : BitVec 5) (t : BitVec 1) (srcs : List Nat) (f : Nat → List (Val × Val) → Nat × Nat) : State :=
  let ls := momSources s t srcs
  match negSource ls, s.clamps with
  | some v, false => trap s 11 (wordOfNat v)
  | _, _ =>
    retMom s d t ((List.range ls.length).map (fun l => f l ((ls.getD l []).map clampLane)))

/-- Round the two components of a lane the last time (R194, R376). -/
def momRound (s : State) (t : BitVec 1) (l : Nat) (p : Val × Val) : Nat × Nat :=
  (lastRound t s.rm (momBits s l 0) p.1, lastRound t s.rm (momBits s l 1) p.2)

/-- The components of a moment function in the format of a lane (R376). -/
def momNarrow (s : State) (t : BitVec 1) (l : Nat) (p : Nat × Nat) : Nat × Nat :=
  if t = 0 then p
  else (bf16.arith s.rm (momBits s l 0) (f32.dec p.1), bf16.arith s.rm (momBits s l 1) (f32.dec p.2))

/-- A moment of nothing, for a source that is not there. -/
def noMoment : Val × Val := (.fin false 0 0, .fin false 0 0)

/-- Source j of a lane. -/
def srcAt (xs : List (Val × Val)) (j : Nat) : Val × Val := xs.getD j noMoment

/-- MADD (R377). -/
def execMadd (d a b : BitVec 5) (t : BitVec 1) (s : State) : Out :=
  .next (s.legal (.madd d a b t) fun s =>
    momOp s d t [a.toNat, b.toNat] (fun l xs => momRound s t l (momAdd false s.rm s.cov (srcAt xs 0) (srcAt xs 1))))

/-- MSUB (R394). -/
def execMsub (d a b : BitVec 5) (t : BitVec 1) (s : State) : Out :=
  .next (s.legal (.msub d a b t) fun s =>
    momOp s d t [a.toNat, b.toNat] (fun l xs => momRound s t l (momAdd true s.rm s.cov (srcAt xs 0) (srcAt xs 1))))

/-- MMUL (R385). -/
def execMmul (d a b : BitVec 5) (t : BitVec 1) (s : State) : Out :=
  .next (s.legal (.mmul d a b t) fun s =>
    momOp s d t [a.toNat, b.toNat] (fun l xs => momRound s t l (momMul s.rm s.cov (srcAt xs 0) (srcAt xs 1))))

/-- MFMA (R381). -/
def execMfma (d a b : BitVec 5) (t : BitVec 1) (s : State) : Out :=
  .next (s.legal (.mfma d a b t) fun s =>
    momOp s d t [a.toNat, b.toNat, d.toNat]
      (fun l xs => momRound s t l (momFma s.rm s.cov (srcAt xs 0) (srcAt xs 1) (srcAt xs 2))))

/-- A vector operand of a moment instruction on the leader (R374, R375), or QUNDER. -/
def withLeadV (s : State) (a : BitVec 5) (body : Vec → State) : State :=
  match s.readSpec s.cur a.toNat s.qoff with
  | .inr v => trapMember s (s.cur % 8) 15 v
  | .inl x => body x

/-- MSCL (R390). -/
def execMscl (d a b : BitVec 5) (t : BitVec 1) (s : State) : Out :=
  .next (s.legal (.mscl d a b t) fun s =>
    withLeadV s b fun k =>
      let f := momFmt t
      momOp s d t [a.toNat]
        (fun l xs => momRound s t l (momScale s.rm (f.dec (laneOf k f.width l)) (srcAt xs 0))))

/-- MSQ (R393). -/
def execMsq (d a : BitVec 5) (t : BitVec 1) (s : State) : Out :=
  .next (s.legal (.msq d a t) fun s =>
    momOp s d t [a.toNat] (fun l xs => momRound s t l (momSquare s.rm (srcAt xs 0))))

/-- MRELU (R389). -/
def execMrelu (d a : BitVec 5) (t : BitVec 1) (s : State) : Out :=
  .next (s.legal (.mrelu d a t) fun s =>
    momOp s d t [a.toNat] (fun l xs => momNarrow s t l (momRelu (srcAt xs 0).1 (srcAt xs 0).2)))

/-- MEXP (R380). -/
def execMexp (d a : BitVec 5) (t : BitVec 1) (s : State) : Out :=
  .next (s.legal (.mexp d a t) fun s =>
    momOp s d t [a.toNat] (fun l xs => momNarrow s t l (momExp (srcAt xs 0).1 (srcAt xs 0).2)))

/-- MSIGM (R392). -/
def execMsigm (d a : BitVec 5) (t : BitVec 1) (s : State) : Out :=
  .next (s.legal (.msigm d a t) fun s =>
    momOp s d t [a.toNat] (fun l xs => momNarrow s t l (momSigm (srcAt xs 0).1 (srcAt xs 0).2)))

/-- MSET (R391): the rounding to the lanes' own type only quiets a NaN. -/
def execMset (d a b : BitVec 5) (t : BitVec 1) (s : State) : Out :=
  .next (s.legal (.mset d a b t) fun s =>
    withLeadV s a fun x => withLeadV s b fun y =>
      let f := momFmt t
      let quiet := fun (v : Vec) (l : Nat) => f.arith 0 0 (f.dec (laneOf v f.width l))
      retMom s d t ((List.range (momLanes t)).map (fun l => (quiet x l, quiet y l))))

/-- The result of MCOLL before its last rounding (R206, R379): forms 0 mean, 1 deviation, 2 bound, 3 sample. -/
def collapse (f rm : Nat) (p : Val × Val) (k : Val) : Val :=
  let firstNan := fun (vs : List Val) (v : Val) => match vs.find? Val.isNan with
    | some n => n
    | none => v
  match f with
  | 0 => p.1
  | 1 => p.2.sqrt
  | 2 => firstNan [p.1, p.2, k] (p.1.add rm (rnd rm (k.mul p.2.sqrt)))
  | _ => firstNan [p.1, p.2, k] (p.1.add rm (rnd rm (p.2.sqrt.mul k)))

/-- Write a vector result of the leader alone, or take QUNDER (R124, R374). -/
def retLead (s : State) (d : BitVec 5) (v : Vec) : State :=
  match reserveMembers s d.toNat [s.cur] with
  | none => s.wait
  | some s1 => (s1.writeSpec s1.cur d.toNat s1.qoff v).adv

/-- MCOLL (R379). -/
def execMcoll (d a : BitVec 5) (f : BitVec 2) (k : BitVec 3) (t : BitVec 1) (s : State) : Out :=
  .next (s.legal (.mcoll d a f k t) fun s =>
    match s.writeUnder d.toNat s.qoff [s.cur] with
    | some (m, v) => trapMember s m 15 v
    | none =>
      let fm := momFmt t
      let kv := s.core.v k.toNat
      let ls := momSources s t [a.toNat]
      match negSource ls, s.clamps with
      | some v, false => trap s 11 (wordOfNat v)
      | _, _ =>
        let value := fun (l : Nat) =>
          collapse f.toNat s.rm (clampLane (srcAt (ls.getD l []) 0)) (fm.dec (laneOf kv fm.width l))
        if t = 0 then retLead s d (fromLanes 32 (fun l => f32.arith s.rm (stochBits s s.cur l) (value l)))
        else
          let rs := (List.range 32).map (fun l => bf16.conv s.rm (stochBits s s.cur l) s.ovf (rnd s.rm (value l)))
          match (List.range 32).find? (fun l => (rs.getD l (0, false)).2) with
          | some l => trap s 12 (wordOfNat (l + 9 * 1024))
          | none => retLead s d (ofLanes 16 (rs.map (·.1))))

end Sys2Proof.Machine
end

