-- ==== Sys2Proof/Machine/Placement.lean ====
section
/-! DEFINITION. From the launch queue to the clusters: release of held launches, the placer, placement, the drain of
the spill area, the meridian sweep, migration and forwarding (R54, R55, R84, R88, R89, R91 to R94, R109 to R114, R244,
R309). -/

namespace Sys2Proof.Machine

/-- A field of a launch record in a queue (R308). -/
def QLaunch.word (q : QLaunch) (j : Nat) : Nat := (q.words.getD j 0).toNat
def QLaunch.entry (q : QLaunch) : Word := q.words.getD 0 0
def QLaunch.count (q : QLaunch) : Nat := fld (q.word 2) 0 32
def QLaunch.maps (q : QLaunch) : Nat := fld (q.word 2) 32 16
def QLaunch.die (q : QLaunch) : Nat := fld (q.word 2) 48 4

/-- Argument words of task i: base plus i times stride (R33). -/
def QLaunch.args (q : QLaunch) (i : Nat) : List Word :=
  (List.range 4).map (fun j => wordOfNat (q.word (4 + j) + i * q.word (8 + j)))

/-- The record of a launch leaves the queue, and the placer is done with it (R89). -/
def leaveQueue (s : State) (die : Nat) (h : Word) : State :=
  let d := s.dieAt die
  let s1 := s.putDie die { d with launchQ := d.launchQ.filter (fun q => q.handle != h) }
  match s1.ladder? h with
  | some r => s1.putLadder h { r with placed := true }
  | none => s1

/-- Whether every predecessor of a launch has been created in its graph and has completed (R309). -/
def predecessorsDone (s : State) (r : Ladder) : Bool :=
  r.preds.all fun k =>
    match s.ladder? r.parent with
    | some g => g.keys.any (fun x => x.1 == k && x.2)
    | none => false

/-- The phase that a launch belongs to, 0 for none. -/
def phaseOf (s : State) (r : Ladder) : Word :=
  match s.ladder? r.parent with
  | some p => if p.kind == .graph then p.parent else r.parent
  | none => 0

/-- Whether the barrier of the phase before a launch's own has passed (R54, R56). -/
def barrierPassed (s : State) (r : Ladder) : Bool :=
  match s.ladder? (phaseOf s r) with
  | none => true
  | some p => match s.ladder? p.prev with
    | some x => x.ended
    | none => true

/-- LAUNCH_RELEASE (R54, R309): a refused record leaves with its code, any other one is held no longer once its
predecessors and its phase let it go. -/
def execLaunchRelease (die k : Nat) (s : State) : Out :=
  .next (
    let r := mget (fun _ => ({} : Ladder)) (s.dieAt die).ladder k
    let h := ladderHandle s.pod.module die k 1 r.gen
    let d := s.dieAt die
    match d.launchQ.find? (fun q => q.handle == h) with
    | none => s
    | some q =>
      if q.refused != 0 then leaveQueue (setFirstError s h q.refused) die h
      else if !predecessorsDone s r || !barrierPassed s r then s
      else s.putDie die { d with launchQ := d.launchQ.map (fun x => if x.handle == h then { x with held := false } else x) })

/-- An entry of a placement map: its range and die; none where it is to be ignored (R92, R93). -/
def mapEntry (bs : List Byte) : Option (Nat × Nat × Nat) :=
  let n := leNat bs
  let base := fld n 0 64
  let len := fld n 64 32
  if base % 4096 != 0 || len == 0 || fld n 100 28 != 0 then none else some (base, base + 4096 * len, fld n 96 4)

/-- The placer of a die reads segments for a launch, at a time no earlier than the launch's (R91, R153, R156, R161, R162,
R170). -/
def placerReads (s : State) (die : Nat) (q : QLaunch) (segs : List Seg) : State :=
  let s1 := fillSegs s segs ((s.clusterAt q.ck).ctxAt q.space).ddom
  let t := readPass s1 segs (max (s1.dieAt die).placerPts q.time)
  let s2 := readTimes s1 segs t
  s2.putDie die { s2.dieAt die with placerPts := t }

/-- The entries of a launch's placement map, whether something is wrong with it (R93), and the state after the placer's
read. -/
def readMap (s : State) (die : Nat) (q : QLaunch) : List (Nat × Nat × Nat) × Bool × State :=
  if q.maps = 0 then ([], false, s)
  else
    match segments s q.ck q.space (wordOfNat (q.word 3)) (16 * q.maps) false with
    | (.bad _ _, s1) => ([], true, s1)
    | (.ok gs, s1) =>
      if gs.any (·.marked s1) then ([], true, noteSegs (placerReads s1 die q gs) q.space gs)
      else
        let (bs, s2) := readSegs (placerReads s1 die q gs) gs
        let es := (List.range q.maps).map (fun i => mapEntry ((bs.drop (16 * i)).take 16))
        (es.filterMap id, es.any (·.isNone), s2)

/-- The entry descriptor of a launch as the placer reads it, for the tiles of its tasks; none where it cannot be read, which the
creation of the task finds again (R38, R93). -/
def placerDesc (s : State) (die : Nat) (q : QLaunch) : Option (List Byte) × State :=
  match segments s q.ck q.space (q.entry - 32) 32 false with
  | (.ok gs, s1) =>
    if gs.any (·.marked s1) then (none, placerReads s1 die q gs)
    else
      let (bs, s2) := readSegs (placerReads s1 die q gs) gs
      (some bs, s2)
  | (_, s1) => (none, s1)

/-- The bytes of a stretch that each die gets: the first entry of the map that holds a byte counts it (R93). -/
def mapBytes (lo hi : Nat) : List (Nat × Nat × Nat) → List (Nat × Nat)
  | [] => []
  | (a, b, die) :: es =>
    let x := max lo a
    let y := min hi b
    if x < y then
      (die, y - x) :: ((if lo < x then mapBytes lo x es else []) ++ (if y < hi then mapBytes y hi es else []))
    else mapBytes lo hi es

/-- The die with the most bytes, the lowest on a tie; the default die where no byte counts (R93). -/
def chooseDie (counts : List (Nat × Nat)) (default : Nat) : Nat :=
  let total := fun (d : Nat) => (counts.filter (fun x => x.1 == d)).foldl (fun n x => n + x.2) 0
  match minBy (fun d => 2 ^ 64 - total d) ((List.range 16).filter (fun d => decide (0 < total d))) with
  | some d => d
  | none => default

/-- The placement message of task i of a launch (R91, R244): its form holds the default die and the launch's
deadline. -/
def placement (s : State) (home i : Nat) (q : QLaunch) : Packet :=
  let a := q.args i
  { srcModule := s.pod.module, src := q.ck, dstModule := s.pod.module, dst := home * 4096, target := q.handle
    msg := { handler := 0x18, w0 := a.getD 0 0, w1 := a.getD 1 0, w2 := a.getD 2 0, w3 := a.getD 3 0, sender := q.entry
             time := q.time, space := q.space, cls := q.cls }
    form := q.die + 16 * q.deadline }

/-- PLACER_TASK (R91, R93, R309): the placer takes the next task of the first record that is not held, or refuses it. -/
def execPlacerTask (die : Nat) (s : State) : Out :=
  .next (
    match (s.dieAt die).launchQ.find? (fun q => !q.held || q.refused != 0) with
    | none => s
    | some q =>
      if q.refused != 0 then leaveQueue (setFirstError s q.handle q.refused) die q.handle
      else if q.count ≤ q.next then leaveQueue s die q.handle
      else
        let (es, wrong, s1) := readMap s die q
        let s2 := if wrong then setFirstError s1 q.handle 0x206 else s1
        let (desc, s3) := placerDesc s2 die q
        let tiles := match desc with
          | some bs => tilesOf (descOf bs) (q.args q.next)
          | none => []
        let home := chooseDie (tiles.flatMap (fun t => mapBytes t.addr.toNat (t.addr.toNat + t.len) es)) q.die
        let s4 := s3.send (placement s3 home q.next q)
        let d := s4.dieAt die
        let s5 := s4.putDie die { d with launchQ := d.launchQ.map (fun x =>
          if x.handle == q.handle then { x with next := q.next + 1 } else x) }
        if q.next + 1 = q.count then leaveQueue s5 die q.handle else s5)

/-- The queue length of a cluster (R94). -/
def queueLength (s : State) (ck : Nat) : Nat :=
  ((s.clusterAt ck).tasks.filter (fun t => t.2.st == .staging || t.2.st == .ready)).length

/-- The clusters of a die that are granted to a context: those that hold it and of which a core serves it (log entry
21). Of the clusters that are as reset left them the lowest stands for all. -/
def granted (s : State) (die space : Nat) : List Nat :=
  let here := (s.clusters.filter (fun c => c.1 / 4096 == die && c.1 % 4096 < 3200 && (c.2.ctxAt space).live &&
    (coreKeys c.1).any (fun k => (s.coreAt k).space == space))).map (·.1)
  if space = 0 then
    match firstBelow 3200 (fun i => !s.clusters.any (fun c => c.1 == die * 4096 + i)) with
    | some i => sortBy id ((die * 4096 + i) :: here)
    | none => here
  else here

/-- Whether the grant of a context's job takes clusters in state 3 (R280; log entry 41). -/
def takesHeld (s : State) (space : Nat) : Bool := Config.grantTakesHeld (((jobOf s space).map (·.1)).getD 0)

/-- Whether a cluster may take a task of a context (R94); in state 3 only for a job whose grant takes it, and no DEADLINE
task (R280). -/
def eligible (s : State) (ck space cls : Nat) : Bool :=
  let c := s.clusterAt ck
  (c.hstate == 0 || c.hstate == 3 && cls != 0 && takesHeld s space) && canAllocate s ck space

/-- The cluster of a die for a task of a class, none where none is eligible (R94). -/
def chooseCluster (s : State) (die space cls issuer : Nat) : Option Nat :=
  let cs := (granted s die space).filter (fun ck => eligible s ck space cls)
  match minBy (queueLength s) cs with
  | none => none
  | some best => if cs.contains issuer && decide (queueLength s issuer ≤ queueLength s best + 4) then some issuer else some best

/-- The class of the task that a placement message is to make (R27). -/
def placedClass (s : State) (p : Packet) : Nat :=
  match (heddleDesc s p.src p.msg.space p.msg.sender 0).1 with
  | some bs => childClass (descOf bs) p.msg.cls
  | none => p.msg.cls

/-- The cluster for a placement message: on the chosen die, else on the default die (R94). -/
def placeOn (s : State) (p : Packet) : Option Nat :=
  let cls := placedClass s p
  match chooseCluster s (p.dst / 4096) p.msg.space cls p.src with
  | some ck => some ck
  | none => chooseCluster s (p.form % 16) p.msg.space cls p.src

/-- The placer handles a placement message: the task is created in its cluster, or waits, in its place where it waits already
(R33, R94). A launch that was cancelled or has ended makes no more tasks (R57). -/
def placeTask (p : Packet) (s0 : State) : State :=
  let die := p.dst / 4096
  let d := s0.dieAt die
  let s := s0.putDie die { d with waitingTasks := d.waitingTasks.erase p }
  let waits := fun (s : State) => s.putDie die { s.dieAt die with
    waitingTasks := if d.waitingTasks.contains p then d.waitingTasks else d.waitingTasks ++ [p] }
  if !s.live? p.target then s
  else
    match placeOn s p with
    | none => waits s
    | some ck =>
      match allocateNow (s.heddleAt ck p.msg.time) ck p.msg.space with
      | (.got slot gen, s2) =>
        let m := p.msg
        let dl := p.form / 16
        let (t, s3) := heddleTask s2 ck m.space m.sender [m.w0, m.w1, m.w2, m.w3] p.target p.target m.cls
          (if dl = 0 then none else some dl) m.time
        createTask s3 ck slot gen t p.target m.time
      | (_, s2) => waits s2

/-- TASK_PLACEMENT (R33, R94), of a message on the mesh or of one that waits in the placer. -/
def execTaskPlacement (p : Packet) (s : State) : Out :=
  .next (
    if (s.dieAt (p.dst / 4096)).waitingTasks.contains p then placeTask p s else s.inTurn p (placeTask p))

/-- The oldest record of the launch spill area leaves it, into the queue unless its launch was cancelled (R57, R89). -/
def takeSpilled (s : State) (die : Nat) (hp : Spot) (slot : Spot × Spot) (q : QLaunch) : State :=
  let cap := s.readN hp.key 4
  let head := s.readN (hp.key + 4) 4
  let s1 := heddleRead (heddleRead s q.ck q.space slot.1) q.ck q.space slot.2
  let half := fun (p : Spot) => (List.range 8).map (fun j => wordOfNat (s1.readN (p.key + 8 * j) 8))
  let words := half slot.1 ++ half slot.2
  let put := fun (s : State) (o v : Nat) => heddleWrite s q.ck q.space { hp with key := hp.key + o } (leBytes 4 v)
  let s2 := put (put s1 4 (if head + 1 = cap then 0 else head + 1)) 12 (s1.readN (hp.key + 12) 4 - 1)
  if s2.live? q.handle then
    let d := s2.dieAt die
    s2.putDie die { d with launchQ := d.launchQ ++ [{ q with words := words }] }
  else s2

/-- Whether another die spilled an earlier record into the same area, which leaves it first (R89, R283). -/
def laterSpilled (s : State) (die : Nat) (q : QLaunch) : Bool :=
  let area := fun (q : QLaunch) => ((s.clusterAt q.ck).ctxAt q.space).lspill
  s.dies.any fun d => d.1 != die && d.2.spilled.any (fun x => x.space == q.space && area x == area q && decide (x.order < q.order))

/-- LAUNCH_QUEUE_DRAIN (R89): the oldest spilled record moves into the queue and leaves the spill area; a miss there is
a fatal context error. -/
def execLaunchQueueDrain (die : Nat) (s : State) : Out :=
  .next (
    let d := s.dieAt die
    match d.spilled with
    | [] => s
    | q :: qs =>
      if 1024 ≤ d.launchQ.length || laterSpilled s die q then s
      else
        let next := fun (s : State) => s.putDie die { s.dieAt die with spilled := qs }
        let lost := fun (s : State) (a : Word) => fatalAt (next s) die q.space 0x311 8 a q.time
        match lspillHeader (s.heddleAt q.ck q.time) q.ck q.space with
        | (none, s1) => lost s1 (wordOfNat ((s.clusterAt q.ck).ctxAt q.space).lspill)
        | (some hp, s1) =>
          match lspillSlot s1 q.ck q.space (s1.readN (hp.key + 4) 4) with
          | (none, s2) => lost s2 (lspillVa s q.ck q.space (s1.readN (hp.key + 4) 4))
          | (some slot, s2) => takeSpilled (next s2) die hp slot q)

/-- Whether work of a launch is left in a cluster: a task, an engine job or an unanswered operation of one, or the end of one
that migrated (R113). -/
def clusterBusy (s : State) (h : Word) (ck : Nat) : Bool :=
  let c := s.clusterAt ck
  c.tasks.any (fun t => t.2.st != .free && t.2.launch == h) ||
  s.pod.jobs.any (fun j => j.ck == ck && !j.dead && j.launch == h) ||
  (s.pod.orphans ++ s.pod.farUsed).any (fun o => o.1.ck == ck && o.2 == h) ||
  s.pod.net.any (fun p => p.src == ck && (p.msg.handler == 9 || p.msg.handler == 10) && bit p.form 2 && p.msg.sender == h)

/-- Whether tasks of a launch are still to be placed (log entry 22). -/
def unplaced (s : State) (h : Word) : Bool :=
  s.pod.net.any (fun p => p.msg.handler == 0x18 && p.target == h) ||
  s.dies.any (fun d => d.2.waitingTasks.any (fun p => p.target == h))

/-- The ladder handle of launch k of a die and its record. -/
def launchAt (s : State) (die k : Nat) : Word × Ladder :=
  let r := mget (fun _ => ({} : Ladder)) (s.dieAt die).ladder k
  (ladderHandle s.pod.module die k 1 r.gen, r)

/-- SWEEP_START (R114). -/
def execSweepStart (die k : Nat) (s : State) : Out :=
  .next (
    let (h, r) := launchAt s die k
    if r.kind != .launch || r.ended || r.standing || r.sweeping then s
    else s.putLadder h { r with sweeping := true, sweepIdle := false, sweepSum := 0, sweepRecv := 0 })

/-- The clusters that take part in a launch's sweep: those that hosted a task of it or counted a message for it (R113). -/
def participants (s : State) (h : Word) (r : Ladder) : List Nat :=
  let tag := launchTag h
  r.members ++ (s.clusters.filter (fun c => !r.members.contains c.1 && c.2.heddle.counts.any (fun x => x.1 == tag))).map (·.1)

/-- SWEEP (R114, R244): the counts and the idle flags of the participants are gathered. -/
def execSweep (die k : Nat) (s : State) : Out :=
  .next (
    let (h, r) := launchAt s die k
    if !r.sweeping then s
    else
      let ms := participants s h r
      let n := fun (ck : Nat) => mget (fun _ => (0, 0)) (s.clusterAt ck).heddle.counts (launchTag h)
      let idle := r.placed && !unplaced s h && ms.all (fun ck => !clusterBusy s h ck)
      s.putLadder h { r with sweepIdle := idle, sweepSum := ms.foldl (fun a ck => a + (n ck).1) 0,
                             sweepRecv := ms.foldl (fun a ck => a + (n ck).2) 0 })

/-- SWEEP_RESULT (R54, R84, R114): two successive sweeps that found all idle and the same S = V end the launch. -/
def execSweepResult (die k : Nat) (s : State) : Out :=
  .next (
    let (h, r) := launchAt s die k
    if !r.sweeping then s
    else
      let ok := r.sweepIdle && r.sweepSum == r.sweepRecv
      let r1 := { r with sweeping := false, sweeps := r.sweeps + 1, candidate := if ok then some r.sweepSum else none }
      if r.ended then s.putLadder h { r with sweeping := false }
      else if !(ok && r.candidate == some r.sweepSum) then s.putLadder h r1
      else
        let ms := participants s h r
        let kept := if ms.contains (hCk r.future) then ms else hCk r.future :: ms
        let s1 := fillCompletion s r.space r.future .full (launchSummary r) r.maxTime
        completeGraph (kept.foldl (closeLaunch h) (endObject s1 h r1)) r.parent)

/-- Whether a job of a task is over only once the task runs again: one into a queue, whose ring the task empties, or one behind
a command that the task's park froze (R126, R174, R229). -/
def needsTask (s : State) (ck slot : Nat) : Bool :=
  s.pod.jobs.any (fun j => j.ck == ck && j.slot == slot && !j.discard && !j.dead && (j.queue.isSome || behindFrozen s j))

/-- Whether the balancer moves a task: it is in a state that R109 lets move, it has no retained banks and no private loom
slot, and no job waits for the task itself (R109, R210; log entry 23). -/
def movable (s : State) (ck slot : Nat) : Bool :=
  let c := s.clusterAt ck
  let t := c.task slot
  (t.st == .ready || t.st == .parkedPre) && !t.leaving && !t.retain && !needsTask s ck slot &&
    !c.loom.slots.any (fun w => w.2.held == 1 && w.2.slot == slot) && !c.heddle.retained.any (fun r => r.2 == t.entry)

/-- Reserve a landing region at a given place (R110). -/
def Cluster.reserveAt (c : Cluster) (r : Region) (slot : Nat) : Option Cluster :=
  let n := (r.len + 127) / 128 * 128
  if c.poolBase * 1024 ≤ r.off && r.off + n ≤ (c.poolBase + c.poolLen) * 1024 &&
      c.regions.all (fun x => r.off + n ≤ x.off || x.off + (x.len + 127) / 128 * 128 ≤ r.off) then
    some { c with regions := { r with slot := slot } :: c.regions }
  else none

/-- Reserve landing regions for a task that moves: anywhere for one that was never dispatched, at the same addresses for
one that was, since its registers hold them (R110; log entry 23). -/
def reserveFor (src dst : Cluster) (slot dslot : Nat) : Option (List Tile × Cluster) :=
  let t := src.task slot
  if t.started then
    ((src.regions.filter (fun r => r.slot == slot)).foldl (fun o r => o.bind (fun c => c.reserveAt r dslot)) (some dst)).map
      (fun c => (t.tiles, c))
  else reserveTiles dst dslot t.tiles

/-- Start the move of a task: the destination's entry and regions, and the mark that it is leaving; or nothing where the
destination has no room (R110). -/
def startMove (s : State) (src dst slot : Nat) : Bool × State :=
  let t := (s.clusterAt src).task slot
  match allocateNow s dst t.space with
  | (.got dslot gen, s1) =>
    match reserveFor (s1.clusterAt src) (s1.clusterAt dst) slot dslot with
    | none => (false, s1)
    | some (ts, c) =>
      let s2 := s1.putCluster dst { c with incoming := mput c.incoming dslot { ck := src, slot := slot, tiles := ts } }
      (true, (s2.newEntry dst t.space dslot gen 0 0 t.launch true).putTask src slot { t with leaving := true })
  | (_, s1) => (false, s1)

/-- The tasks of a context that may leave a cluster, in slot order; those that wait in the queue come first. -/
def movables (s : State) (ck space : Nat) : List Nat :=
  let l := ((s.clusterAt ck).tasks.filter (fun t => t.2.space == space && movable s ck t.1))
  ((l.filter (fun t => t.2.st == .ready)) ++ (l.filter (fun t => t.2.st != .ready))).map (·.1)

/-- Move tasks one at a time while the difference is 4 or more; `d` is the difference as the moves leave it: a ready task leaves
one queue for the other, a parked one joins the other (R94, R109, R110). -/
def moveTasks (src dst : Nat) : State → Nat → List Nat → Nat × State
  | s, d, [] => (d, s)
  | s, d, slot :: rest =>
    if d < 4 then (d, s)
    else
      match startMove s src dst slot with
      | (false, s1) => moveTasks src dst s1 d rest
      | (true, s1) => moveTasks src dst s1 (if ((s.clusterAt src).task slot).st == .ready then d - 2 else d - 1) rest

/-- Ask the running named groups of a context for their yield points, so that they can move (R107, R109). -/
def askGroups (s : State) (ck space : Nat) : State :=
  (coreKeys ck).foldl (fun s k =>
    let c := s.coreAt k
    match c.running with
    | none => s
    | some slot =>
      let t := (s.clusterAt ck).task slot
      if c.space == space && t.name != 0 && !t.retain then s.putCore k { c with preempt := true } else s) s

/-- Balance the clusters of one job on a die (R109). -/
def balance (die : Nat) (s : State) (space : Nat) : State :=
  let cs := granted s die space
  let len := queueLength s
  match minBy (fun ck => 2 ^ 32 - len ck) cs, minBy len cs with
  | some long, some short =>
    if len long < len short + 8 || s.clusters.any (fun c => c.1 / 4096 == die && !c.2.incoming.isEmpty) then s
    else
      let (d, s1) := moveTasks long short s (len long - len short) (movables s long space)
      if d < 4 then s1 else askGroups s1 long space
  | _, _ => s

/-- The tasks of a cluster that is being drained leave it (R280). -/
def evacuate (die : Nat) (s : State) (ck : Nat) : State :=
  if (s.clusterAt ck).hstate != 1 then s
  else
    (s.clusterAt ck).spaces.foldl (fun s space =>
      (movables s ck space).foldl (fun s slot =>
        match chooseCluster s die space ((s.clusterAt ck).task slot).cls ck with
        | some dst => (startMove s ck dst slot).2
        | none => s) s) s

/-- BALANCER_CHECK (R109, R280). -/
def execBalancerCheck (die : Nat) (s : State) : Out :=
  .next (
    let cks := (s.clusters.filter (fun c => c.1 / 4096 == die)).map (·.1)
    let sps := (cks.flatMap (fun ck => (s.clusterAt ck).spaces)).eraseDups
    cks.foldl (evacuate die) (sps.foldl (balance die) s))

/-- The destination's streamer copies n bytes of array memory for a task: reads and writes with times of the single order
(R110, R165, R173). -/
def copyBytes (s : State) (dst : Nat) (t : Task) (a b n : Nat) : State :=
  let from' := [Seg.mem a n 0]
  let tr := readPass s from' t.pts
  let (bs, s1) := readSegs (readTimes s from' tr) from'
  let (time, s2) := writePass s1 [.mem b n 0] (tr + 1)
  writeSegs { ck := dst, space := t.space, cls := t.cls, time := time } s2 [.mem b n 0] bs

/-- Copy the stack region of a task that was dispatched, in pieces of 64 bytes; or the state in which it fails, on a miss or on
an error, which is recorded (R110, R119, R272). -/
def moveStack (src dst slot dslot space : Nat) : Nat → State → Except State State
  | 0, s => .ok s
  | n + 1, s =>
    match stackSpot s src space slot (64 * n) 64 false with
    | (none, s1) => .error s1
    | (some a, s1) =>
      match stackSpot s1 dst space dslot (64 * n) 64 true with
      | (none, s2) => .error s2
      | (some b, s2) =>
        if s2.marked a.key 64 then .error (foundError s2 a.key space)
        else
          let s3 := agentRead s2 none dst space a
          moveStack src dst slot dslot space n (agentWrite s3 none dst space b (bytesFrom s3.mem a.key 64))

/-- The stretches of array memory that a move copies: from offset, to offset, length (R110). -/
def footprintOf (src : Cluster) (slot : Nat) (ts : List Tile) : List (Nat × Nat × Nat) :=
  let t := src.task slot
  if t.started then (src.regions.filter (fun r => r.slot == slot)).map (fun r => (r.off, r.off, r.len))
  else (t.tiles.zip ts).map (fun x => (x.1.region.getD 0, x.2.region.getD 0, x.1.len))

/-- The copies of a move, or the state in which one fails (R110, R272). -/
def moveBytes (s : State) (src dst slot dslot : Nat) (ts : List Tile) : Except State State :=
  let t := (s.clusterAt src).task slot
  let fs := footprintOf (s.clusterAt src) slot ts
  let rec0 := parkKey s src t.space slot
  match markedKey s (.mem rec0 320 0 :: fs.map (fun f => .mem (arrayKey src f.1) f.2.2 0)) with
  | some k => .error (foundError s k t.space)
  | none =>
    let s1 := fs.foldl (fun s f => copyBytes s dst t (arrayKey src f.1) (arrayKey dst f.2.1) f.2.2) s
    let s2 := copyBytes s1 dst t (rec0 + 64) (parkKey s dst t.space dslot + 64) 256
    if t.started then moveStack src dst slot dslot t.space 256 s2 else .ok s2

/-- What the destination had reserved for a move is released (R110). -/
def abandonMove (s : State) (ck slot : Nat) : State :=
  let c := s.clusterAt ck
  let c1 := { c.releaseTask slot with incoming := mdel c.incoming slot }
  freeEntry ((s.putCluster ck c1).putEntry ck slot { c1.entry slot with task := false }) ck slot

/-- Whether something of a task that is about to move is still under way: late values, jobs, use-annotated atomics. It reaches the
task where it stands, and the move waits for it (R41, R108, R110, R182; log entry 23). -/
def stillArrives (s : State) (ck slot : Nat) : Bool :=
  s.pod.late.any (fun l => l.dst.ck == ck && l.dst.slot == slot && l.dst.core.isNone) ||
  s.pod.jobs.any (fun j => j.ck == ck && j.slot == slot && !j.discard && !j.dead) ||
  (s.pod.com ++ s.pod.qnt).any (fun p => p.reply.isNone && p.ck == ck && p.slot == slot) ||
  s.pod.farUsed.any (fun o => o.1.ck == ck && o.1.slot == slot && o.1.count == ((s.clusterAt ck).entry slot).count)

/-- The source lets a task go: its forwarding entry, the mark of its group name, its regions, its permits, its slot (R110,
R240, R404). -/
def letGo (s : State) (src slot dst dslot : Nat) : State :=
  let c := s.clusterAt src
  let t := c.task slot
  let f : Fwd := { home := t.home, name := t.name, space := t.space, dst := dst, dstSlot := dslot, since := s.cycle }
  let i := (firstBelow 32 (fun i => !c.fwd.any (fun x => x.1 == i))).getD 32
  let names := c.names.map (fun n => if n.2.slot == some slot then (n.1, { n.2 with slot := none, moved := true }) else n)
  let c1 := { { c with names := names }.releaseTask slot with fwd := mput c.fwd i f }
  let s1 := (s.putCluster src c1).putTask src slot { space := t.space }
  if t.visible && !t.moved then s1
  else freeEntry (s1.putEntry src slot { (s1.clusterAt src).entry slot with task := false }) src slot

/-- MIGRATION_COPY_DONE (R96, R109 to R111): the task is ready at its new place, ahead of its bin; it waits while no forwarding entry is free or something of the
task is still under way, and a copy that failed abandons the move. -/
def execMigrationCopyDone (ck slot : Nat) (s : State) : Out :=
  .next (
    match (s.clusterAt ck).incoming.find? (fun x => x.1 == slot) with
    | none => s
    | some (_, m) =>
      let t := (s.clusterAt m.ck).task m.slot
      if !t.leaving then abandonMove s ck slot
      else if 32 ≤ (s.clusterAt m.ck).fwd.length || stillArrives s m.ck m.slot then s
      else
        match moveBytes s m.ck ck m.slot slot m.tiles with
        | .error s1 => (abandonMove s1 ck slot).putTask m.ck m.slot { t with leaving := false }
        | .ok s1 =>
          let s2 := letGo s1 m.ck m.slot ck slot
          let c := s2.clusterAt ck
          let s3 := s2.putCluster ck { c with incoming := mdel c.incoming slot }
          let s4 := s3.putTask ck slot { t with st := .ready, tiles := m.tiles, leaving := false, moved := true, front := true,
                                                prefer := none }
          let s5 := match s4.ladder? t.launch with
            | some r => s4.putLadder t.launch { r with members := if r.members.contains ck then r.members else ck :: r.members }
            | none => s4
          if t.cls == 0 then raiseRequest s5 ck t.space else s5)

/-- FORWARDING_ENTRY_EXPIRY (R111). -/
def execForwardingEntryExpiry (ck k : Nat) (s : State) : Out :=
  .next (
    let c := s.clusterAt ck
    s.putCluster ck { c with fwd := mdel c.fwd k })

end Sys2Proof.Machine
end

