-- ==== Sys2Proof/Machine/Remote.lean ====
section
/-! DEFINITION. Operations that travel as messages, at the place that performs them: type-100 accesses, the future
operations, wakes, and the answers (R85, R149, R165, R168 to R171, R177 to R182, R244, R268, R319). -/

namespace Sys2Proof.Machine

/-- The answer to a request: its value, its time, a word of its own, and flags (R168, R244). -/
def answerTo (s : State) (p : Packet) (value time : Nat) (w1 w2 w3 : Word) : State :=
  s.send { srcModule := s.pod.module, src := p.dst, dstModule := p.srcModule, dst := p.src, target := p.target
           msg := { handler := 7, w0 := p.target, w1 := w1, w2 := w2, w3 := w3, space := p.msg.space, time := time }
           reply := p.reply, form := value }

/-- The second translation of a type-100 access, at this module's station (R149): the target, the leaf, or none where the
access is a fatal context error. -/
def homeOf (s : State) (p : Packet) (write : Bool) : Option (Target × Nat) × State :=
  let va := p.target.toNat
  match translate s (p.dst / 4096) (p.dst % 4096 % 80) p.msg.space va with
  | (.ok leaf bits, s1) =>
    if !leafPinned leaf || (write && !leafWrite leaf) then (none, s1)
    else
      match targetOf leaf bits va with
      | .array ck off =>
        let n := p.msg.w1.toNat
        if !s1.serves ck || (s1.clusterAt ck).spad < off + n || (write && (s1.clusterAt ck).inPark off n) then (none, s1)
        else (some (.array ck off, leaf), s1)
      | .remote _ _ => (none, s1)
      | .landing q a => (if write then none else some (.landing q a, leaf), s1)
      | t => (some (t, leaf), s1)
  | (_, s1) => (none, s1)

/-- Whether a request is part of an engine job of its issuer (R173, R252): 1 for a copy, a gather or a write-back, 5 for a
scatter. -/
def ofJob (p : Packet) : Bool := (p.msg.handler == 1 || p.msg.handler == 2) && (p.msg.w3 == 1 || p.msg.w3 == 5)

/-- A type-100 access that this module refuses: recorded here, the job ends, and the issuer is told (R149, R274). -/
def refuseRemote (s : State) (p : Packet) : State :=
  let s1 := fatalAt s (p.dst / 4096) p.msg.space 0x310 9 p.target p.msg.time
  if ofJob p then answerTo s1 p 0 p.msg.time p.msg.w2 2 2 else answerTo s1 p fatalAnswer p.msg.time 0 0 0

/-- A device register is reached by aligned 8-byte accesses of cores alone: any other access is not performed, and the issuer
is told (R150, R160, R236 code 0x06). -/
def refuseDevice (s : State) (p : Packet) : State :=
  if ofJob p then answerTo s p 0 p.msg.time p.msg.w2 2 3 else answerTo s p alignAnswer p.msg.time 0 0 0

/-- Whether a request is an aligned 8-byte access of a core. -/
def deviceFits (p : Packet) : Bool := !ofJob p && p.msg.w1.toNat == 8 && p.target.toNat % 8 == 0

/-- The data of a read goes back: to a destination, or to the job that asked, with the mark of an error. -/
def answerData (s : State) (p : Packet) (v time : Nat) : State :=
  if ofJob p then answerTo s p v time p.msg.w2 2 1 else answerTo s p v time 0 0 0

/-- The line of a remote access is in its slice (R154). The request carries no DDOM: it has that of the same context in the
addressed cluster of this module (R156; log entry 68). -/
def homeLine (s : State) (ck space key leaf : Nat) : State :=
  if key < 2 ^ 40 then
    l2Fill s (key / 128 * 128) ((s.clusterAt ck).ctxAt space).ddom (leafDedup leaf) (leafStream leaf) false
  else s

/-- REMOTE_LOAD (R165, R168, R244). -/
def execRemoteLoad (p : Packet) (s : State) : Out :=
  .next (s.inTurn p fun s0 =>
    let n := p.msg.w1.toNat
    match homeOf s0 p false with
    | (none, s1) => refuseRemote s1 p
    | (some (t, leaf), s1) =>
      match t with
      | .device pa => if deviceFits p then answerTo s1 p (devRead s1 pa) (p.msg.time + 1) 0 0 0 else refuseDevice s1 p
      | .host _ _ =>
        let (v, s2) := s1.choose
        answerData s2 p (v % 2 ^ (8 * n)) (p.msg.time + 1)
      | _ =>
        match t.key? with
        | none => refuseRemote s1 p
        | some k =>
          let s2 := settleRead (if n = 0 then s1 else homeLine s1 p.dst p.msg.space k leaf) k p.msg.time
          let bad := s2.marked k n
          let (time, s3) := s2.readTime k p.msg.time
          let s4 := if bad then foundError s3 k p.msg.space else s3
          answerData s4 p (s4.readN k n + (if bad then markedAnswer else 0)) time)

/-- The acknowledgement of a remote store, or of a job's packet (R168, R257). -/
def acknowledge (s : State) (p : Packet) (time : Nat) : State :=
  if ofJob p then answerTo s p 0 time p.msg.w2 2 0 else answerTo s p 0 time 0 0 0

/-- Whether a packet and another one carry what one job writes on this module (R173, R239). -/
def sameJob (p q : Packet) : Bool :=
  ofJob q && q.msg.handler == 2 && q.srcModule == p.srcModule && q.msg.w2 == p.msg.w2

/-- A job's packet with the home that it has on this module; none where it is refused. -/
abbrev Landing := Packet × Option (Target × Nat)

/-- Where the packets of a job write (R149). -/
def landings : State → List Packet → List Landing × State
  | s, [] => ([], s)
  | s, p :: ps =>
    let (r, s1) := homeOf s p true
    let (rest, s2) := landings s1 ps
    ((p, r) :: rest, s2)

/-- What a packet writes; none for a device, which an engine does not reach (R236 code 0x06). -/
def Landing.seg (x : Landing) : Option Seg := x.2.bind fun y => y.1.seg x.1.msg.w1.toNat y.2 true

/-- Whether what a job writes here waits for a permit of the array that it writes (R239); a scatter is no push. -/
def pushWaits (s : State) (l : List Landing) : Bool :=
  l.any fun x => match x.2 with
    | some (.array ck off, _) => x.1.msg.w3 == 1 && x.1.msg.w1 != 0 && !covered s ck x.1.msg.space off x.1.msg.w1.toNat
    | _ => false

/-- The packets of a job for this module are written together at one time, the job's completion time here (R173, R176, R239;
log entry 68): the packets, none of which comes behind another one, once all of them are here. A copy that meets an
uncorrectable error fails, and each of its bytes holds the old or the new value (R176, R236; log entry 19); a scatter goes on
(R409). -/
def storeJob (s : State) (p : Packet) : State :=
  let mine := s.pod.net.filter (sameJob p)
  if mine.length < p.payload.toNat || mine.any (behind s) then s
  else
    let (l, s1) := landings (mine.foldl State.arrive s) mine
    let good := l.filter (fun x => (Landing.seg x).isSome)
    let segs := good.filterMap Landing.seg
    if pushWaits s1 l then s
    else
      match beforeSegs s1 {} segs with
      | none => s
      | some s2 =>
        let (t, s3) := writePass s2 segs (p.msg.time + 1)
        let bad := segs.any (·.marked s3)
        let w : Writer := { ck := p.dst, space := p.msg.space, time := t }
        let bytes := good.flatMap (fun x => leBytes x.1.msg.w1.toNat x.1.form)
        let s4 := noteSegs s3 p.msg.space segs
        let s5 := if bad && p.msg.w3 == 1 then
            let (v, s5) := s4.choose
            someBytes s5 w segs bytes 0 v
          else writeSegs w s4 segs bytes
        l.foldl (fun s x => match x.2 with
          | none => refuseRemote s x.1
          | some (.device _, _) => refuseDevice s x.1
          | _ => if bad then answerTo s x.1 0 t x.1.msg.w2 2 4 else acknowledge s x.1 t) s5

/-- REMOTE_STORE (R165, R168, R244); an array home that a job still reads holds it (R173). -/
def execRemoteStore (p : Packet) (s : State) : Out :=
  .next (if ofJob p then storeJob s p else s.inTurn p fun s0 =>
    let n := p.msg.w1.toNat
    let bs := leBytes n p.form
    match homeOf s0 p true with
    | (none, s1) => refuseRemote s1 p
    | (some (t, leaf), s1) =>
      match t with
      | .device pa =>
        if !deviceFits p then refuseDevice s1 p
        else if devWaits s1 pa (wordOfNat p.form) then s
        else acknowledge (devWrite s1 pa (wordOfNat p.form)) p (p.msg.time + 1)
      | .host q a =>
        acknowledge { s1 with pod := { s1.pod with hostOut := s1.pod.hostOut ++ [(q, a, bs)] } } p (p.msg.time + 1)
      | _ =>
        match t.key? with
        | none => refuseRemote s1 p
        | some k =>
          match beforeWriteBy s1 {} k n with
          | none => s
          | some s2 =>
            let s3 := settleWrite (if n = 0 then s2 else homeLine s2 p.dst p.msg.space k leaf) k p.msg.time
            let (time, s4) := s3.writeTime k p.msg.time
            acknowledge (commitBytes (s4.noteCode k n) p.dst p.msg.space k bs leaf) p time)

/-- The time of a remote atomic at its home (R178): uses 0, 1 and 3, the last behind the issuer's previous .nord. -/
def remoteTime (s : State) (k use pts nord : Nat) : Nat :=
  let (_, r) := s.lineTimes k
  match use with
  | 0 => max (pts + 1) (r + 1)
  | 3 => max (r + 1) (nord + 1)
  | _ => r + 1

/-- A remote atomic with use none, .unp or .nord (R178, R244): the time goes back as the issuer's pts, or for a use as the
time that a FENCE and the next .nord learn (R182). -/
def remoteAtomicAt (s : State) (p : Packet) (k n leaf use : Nat) (new : Nat → Option Nat) : Option State :=
  match beforeWriteBy s {} k n with
  | none => none
  | some s1 =>
    let s2 := settleWrite (homeLine s1 p.dst p.msg.space k leaf) k (match use with
      | 0 => p.msg.time
      | 3 => p.msg.w3.toNat
      | _ => 0)
    let old := s2.readN k n
    let t := remoteTime s2 k use p.msg.time p.msg.w3.toNat
    let bad := s2.marked k n
    let s3 := if bad then foundError s2 k p.msg.space else s2
    let s4 := s3.setTimes k t t
    let s5 := match new old with
      | some v => commitBytes (s4.noteCode k n) p.dst p.msg.space k (leBytes n v) leaf
      | none => s4
    some (answerTo s5 p (old + (if bad then markedAnswer else 0)) (if use = 0 then t else 0)
      (if use = 0 then 0 else wordOfNat t) 0 0)

/-- The pending update of a remote .com or .qnt atomic: no task of this module stands behind it, its issuer is told when it
is performed (R182). -/
def remotePending (s : State) (p : Packet) (k n op scope leaf : Nat) (opnd : Word) : Pending :=
  { key := k, n := n, op := op, operand := opnd, scope := scope, ck := p.dst, slot := 65536, space := p.msg.space
    ddom := ((s.clusterAt p.dst).ctxAt p.msg.space).ddom, leaf := leaf, srcModule := p.srcModule, reply := some p.reply }

/-- The home of a remote atomic: memory of this module, else the access is refused (R149, R319). -/
def withAtomicHome (s : State) (p : Packet) (body : State → Nat → Nat → State) : State :=
  s.inTurn p fun s0 =>
    match homeOf s0 p true with
    | (none, s1) => refuseRemote s1 p
    | (some (t, leaf), s1) =>
      match t with
      | .hbm pa => body s1 pa leaf
      | .array ck off => body s1 (arrayKey ck off) leaf
      | _ => refuseRemote s1 p

/-- The answer with a value that a read outside the order brought, and the mark of an error in what was read (R180, R181,
R272). -/
def answerOld (s : State) (p : Packet) (k n v : Nat) (looks : Bool) : State :=
  let bad := looks && s.marked k n
  answerTo (if bad then foundError s k p.msg.space else s) p (v + (if bad then markedAnswer else 0)) 0 0 0 0

/-- REMOTE_AMO (R178 to R182, R244, R318). -/
def execRemoteAmo (p : Packet) (s : State) : Out :=
  .next (
    withAtomicHome s p fun s1 k leaf =>
      let n := p.msg.w1.toNat
      let opnd := p.form % 2 ^ 64
      let op := fld p.form 64 4
      let use := fld p.form 68 3
      let scope := fld p.form 71 2
      match use with
      | 2 =>
        let s2 : State := { s1 with pod := { s1.pod with com := s1.pod.com ++
          [remotePending s1 p k n op scope leaf (wordOfNat opnd)] } }
        answerTo s2 p 0 0 0 0 0
      | 4 =>
        if qntFull s1 k then s
        else
          let (v, s2) := qntIssue s1 p.msg.time (remotePending s1 p k n op scope leaf (wordOfNat opnd))
          answerOld s2 p k n v (!s1.pod.qntDone.any (·.1 == k))
      | 5 => answerOld s1 p k n (s1.readN k n) true
      | _ => (remoteAtomicAt s1 p k n leaf use (fun old => some (amoOp op (8 * n) old opnd))).getD s)

/-- REMOTE_CAS (R178, R244, R330). -/
def execRemoteCas (p : Packet) (s : State) : Out :=
  .next (
    withAtomicHome s p fun s1 k leaf =>
      let n := p.msg.w1.toNat
      let expected := p.form % 2 ^ 64
      let new := fld p.form 64 64
      let use := fld p.form 128 3
      if use = 5 then answerOld s1 p k n (s1.readN k n) true
      else (remoteAtomicAt s1 p k n leaf use (fun old => if old = expected then some new else none)).getD s)

/-- Whether a waiter's task is still the one that asked. -/
def sameWaiter (s : State) (w : Waiter) : Bool := ((s.clusterAt w.ck).entry w.slot).count == w.count

/-- The core that runs a waiter's task. -/
def waiterCore (s : State) (w : Waiter) : Option Nat :=
  (coreKeys w.ck).find? (fun k => (s.coreAt k).running == some w.slot)

/-- A trap that an answer brings to the task that asked, at the unit that asked (R268, R269). A parked task has left that
unit behind (log entry 64). -/
def lateTrap (s : State) (l : Late) (cause : Nat) (v : Word) : State :=
  match waiterCore s l.dst with
  | some k =>
    let s1 := s.select k
    trap { s1 with core := { s1.core with unit := { s1.core.unit with base := l.base } } } cause v
  | none => s

/-- A remote access was refused: FATALX on the core that issued it, the record here, the end of the job (R149, R274). -/
def fatalAtIssuer (s : State) (p : Packet) (l : Late) : State :=
  lateTrap (fatalAt s (p.dst / 4096) p.msg.space 0x310 9 p.target p.msg.time) l 5 p.target

/-- The issuer's pts rises to a time, on its core or beside its record (R162, R165). -/
def raisePts (s : State) (ck slot t : Nat) : State :=
  match (coreKeys ck).find? (fun k => (s.coreAt k).running == some slot) with
  | some k => let c := s.coreAt k; s.putCore k { c with pts := max c.pts t }
  | none =>
    let c := s.clusterAt ck
    let x := c.task slot
    if x.st == .free then s else s.putCluster ck { c with tasks := mput c.tasks slot { x with pts := max x.pts t } }

/-- The time of a task's previous .nord atomic rises to a time (R178). -/
def raiseNord (s : State) (ck slot t : Nat) : State :=
  match (coreKeys ck).find? (fun k => (s.coreAt k).running == some slot) with
  | some k => let c := s.coreAt k; s.putCore k { c with nordTime := max c.nordTime t }
  | none =>
    let c := s.clusterAt ck
    let x := c.task slot
    let p := { x.parked with nordTime := max x.parked.nordTime t }
    if x.st == .free then s else s.putCluster ck { c with tasks := mput c.tasks slot { x with parked := p } }

/-- The issuer's times after an acknowledged access: its pts, what a FENCE learns, and for .nord what the next one needs
(R165, R178, R182). -/
def answerTime (s : State) (l : Late) (pts used : Nat) : State :=
  let w := l.dst
  let s1 := if used = 0 then s else bumpUsed s w.ck w.slot used
  let s2 := if l.use = 3 then raiseNord s1 w.ck w.slot used else s1
  raisePts s2 w.ck w.slot pts

/-- What an answer writes into its destination: 0 for .com, else the access's bytes with zeros before them (R178, R318,
R337). -/
def answerValue (l : Late) (form : Nat) : Word := if l.use = 2 then 0 else wordOfNat (form % 2 ^ (8 * l.n))

/-- The answer to an access or a future operation whose destination waits on the scoreboard (R85, R168, R313). -/
def answerLate (s : State) (p : Packet) : State :=
  let i := s.pod.late.findIdx (fun l => l.asked == p.reply && !l.ready)
  match s.pod.late[i]? with
  | none => s
  | some l =>
    let gone : State := { s with pod := { s.pod with late := s.pod.late.eraseIdx i } }
    if p.form = fatalAnswer then fatalAtIssuer gone p l
    else if p.form = alignAnswer then lateTrap gone l 3 p.target
    else if p.msg.w3 = 1 then lateTrap gone l 2 p.target
    else
      let s1 := answerTime s l p.msg.time p.msg.w1.toNat
      if l.dst.reg = noRegister then { s1 with pod := { s1.pod with late := s1.pod.late.eraseIdx i } }
      else
        let l1 := { l with ready := true, value := answerValue l p.form, time := p.msg.time
                           mark := if bit p.form markBit then some p.target else none }
        { s1 with pod := { s1.pod with late := s1.pod.late.set i l1 } }

/-- The answer to a remote TOUCH (R85, R171): the word goes into the parked image and the task resumes behind the TOUCH,
or POISONED is to be taken there. -/
def answerTouch (s : State) (p : Packet) : State :=
  let w := p.reply
  let t := (s.clusterAt w.ck).task w.slot
  if t.st != .parkedTouch || t.touch != p.target then s
  else if p.msg.w3 = 1 then
    wakeLocal (s.putTask w.ck w.slot { t with parked := { t.parked with poisonAt := true } }) w.ck w.slot
  else
    let s1 := lateImage s w.ck w.slot w.reg (wordOfNat p.form)
    wakeLocal (s1.putTask w.ck w.slot { t with pc := p.msg.w1, pts := max t.pts p.msg.time }) w.ck w.slot

/-- A packet of a write-back was acknowledged, or refused, which fails it (R37, R38, R149). -/
def answerBack (s : State) (p : Packet) : State :=
  let n := p.msg.w1.toNat - 2 ^ 63
  let ck := n / 4096
  let t := (s.clusterAt ck).task (n % 4096)
  let s1 := if p.msg.w3 = 2 then fatalAt s (p.dst / 4096) p.msg.space 0x310 9 p.target p.msg.time else s
  if t.st != .ending || !t.wsent then s1
  else
    let code := if p.msg.w3 = 0 then t.fail else 0x205
    s1.putTask ck (n % 4096) { t with wacks := t.wacks - 1, pts := max t.pts p.msg.time, fail := code }

/-- An access of a job was refused at another module: FATALX at the issuer, where its task runs, the record here, the end of
the job (R149, R274, R347, R409). -/
def fatalJob (s : State) (p : Packet) (j : Job) : State :=
  let w : Waiter := { ck := j.ck, slot := j.slot, count := j.count, reg := 0 }
  let l : Late := { dst := w, value := 0, base := j.base }
  (if j.discard then fatalAt s (p.dst / 4096) p.msg.space 0x310 9 p.target p.msg.time else fatalAtIssuer s p l).dropJob j.id

/-- A packet of an engine job was acknowledged, or brings what the job reads there; a refused one ends the issuer's job as a
fatal context error, and a device there is nothing that an engine reaches (R149, R173, R236, R257). -/
def answerJob (s : State) (p : Packet) : State :=
  if 2 ^ 63 ≤ p.msg.w1.toNat then answerBack s p
  else
    match s.job? (p.msg.w1.toNat - 1) with
    | none => s
    | some j =>
      let j1 := { j with acks := j.acks - 1 }
      match p.msg.w3.toNat with
      | 0 => s.putJob { j1 with tr := max j.tr (p.msg.time - 1) }
      | 1 => s.putJob { j1 with tr := max j.tr p.msg.time, got := mput j.got p.target.toNat p.form }
      | 2 => fatalJob s p j
      | 4 =>
        let s1 := s.putJob { j1 with tr := max j.tr (p.msg.time - 1), code := if j.kind == .copy then 2 else j.code
                                     landed := if j.kind == .copy then j.landed else 1 }
        if j.kind == .copy || j.discard || j.landed != 0 then s1 else pendingFail s1 j.ck j.slot 2
      | _ => s.putJob { j1 with code := 6 }

/-- A .com or .qnt atomic was performed at its home on another module (R182). -/
def answerUsed (s : State) (p : Packet) : State :=
  let i := s.pod.farUsed.findIdx (fun o => o.1 == p.reply)
  let s1 : State := { s with pod := { s.pod with farUsed := s.pod.farUsed.eraseIdx i } }
  if i < s.pod.farUsed.length ∧ sameWaiter s p.reply then bumpUsed s1 p.reply.ck p.reply.slot p.msg.w1.toNat else s1

/-- The operation of a task that has ended is answered (R113). -/
def answerOrphan (s : State) (p : Packet) : State :=
  let i := s.pod.orphans.findIdx (fun o => o.1 == p.reply)
  { s with pod := { s.pod with orphans := s.pod.orphans.eraseIdx i } }

/-- The kept copy of a request goes when its answer comes (R257). -/
def acked (s : State) (p : Packet) : State :=
  let i := s.pod.unacked.findIdx (fun q => q.reply == p.reply && q.target == p.target && q.dstModule == p.srcModule)
  { s with pod := { s.pod with unacked := s.pod.unacked.eraseIdx i } }

/-- ANSWER (R85, R168, R244). -/
def execAnswer (p : Packet) (s : State) : Out :=
  .next (s.inTurn p fun s0 =>
    let s1 := acked s0 p
    let w := p.reply
    match w.core with
    | some k =>
      let c := s1.coreAt k
      if s1.pod.orphans.any (·.1 == w) then answerOrphan s1 p
      else if !sameWaiter s1 w || c.running.getD 4096 != w.slot || c.asked ≤ c.answers.length then s1
      else s1.putCore k { c with answers := c.answers ++ [p.form], pts := max c.pts p.msg.time, waiting := false }
    | none =>
      if p.msg.w2 = 2 then answerJob s1 p
      else if p.msg.w2 = 4 then answerUsed s1 p
      else if s1.pod.orphans.any (·.1 == w) then answerOrphan s1 p
      else if s1.pod.late.any (fun l => l.asked == w && !l.ready) then answerLate s1 p
      else if !sameWaiter s1 w then s1
      else if p.msg.w2 = 1 then answerTouch s1 p
      else s1)

/-- The node that records a remote waiter of a handle. -/
def nodeOf (h : Heddle) (target : Word) (m : Nat) (w : Waiter) : Option Nat :=
  (h.nodes.find? (fun x => x.2 == (target, m, w))).map (·.1)

/-- A remote waiter's node is freed once its TOUCH completes (R43, R85). -/
def freeNode (s : State) (ck : Nat) (node : Option Nat) : State :=
  match node with
  | none => s
  | some i =>
    let h := (s.clusterAt ck).heddle
    s.putHeddle ck { h with nodes := mdel h.nodes i }

/-- Record a remote waiter and let it join a list; the message waits where no node is free (R85). -/
def recordWaiter (s0 s : State) (ck : Nat) (p : Packet) (join : State → Nat → State) : State :=
  let h := (s.clusterAt ck).heddle
  match nodeOf h p.target p.srcModule p.reply with
  | some i => join s (4096 + i)
  | none =>
    match firstBelow 512 (fun i => !h.nodes.any (fun x => x.1 == i)) with
    | none => s0
    | some i => join (s.putHeddle ck { h with nodes := mput h.nodes i (p.target, p.srcModule, p.reply) }) (4096 + i)

/-- The answer to a TOUCH: a word with its time, and whether it is a FULL value. A privileged toucher gets both; under
`.p` a word that is no FULL value is not delivered and `done` does not happen (R78, R85, R419). -/
def answerWord (s : State) (p : Packet) (w : Word) (time : Nat) (isFull : Bool) (done : State → State) : State :=
  let variant := p.form % 8
  let refuse := variant == 2 && !isFull
  let s1 := if refuse then s else done s
  if bit p.form 3 then answerTo s1 p (w.toNat + (if isFull then 2 ^ 64 else 0)) time 0 0 0
  else answerTo s1 p w.toNat time p.msg.w1 1 (wordOfNat (b2n refuse))

/-- A TOUCH that finds the future EMPTY: the toucher's own, a privileged toucher's, or one that is recorded (R78, R85,
R419). -/
def touchEmpty (s0 s : State) (ck : Nat) (p : Packet) (join : State → Nat → State) : State :=
  if p.msg.w3 = 1 then answerWord s p 0x8000000000000302 0 false id
  else if bit p.form 3 then answerWord s p 0x8000000000000304 0 false id
  else recordWaiter s0 s ck p join

/-- REMOTE_TOUCH (R76 to R78, R85, R171). -/
def execRemoteTouch (p : Packet) (s : State) : Out :=
  .next (s.inTurn p fun s1 =>
    let ck := p.dst
    let keep := p.form % 8 == 1
    match lookup s1 ck p.msg.space p.target p.msg.time with
    | (.wait, _) => s
    | (.fatal, s2) => s2
    | (.stale, s2) => answerWord s2 p staleWord 0 false fun s =>
        freeNode s ck (nodeOf (s.clusterAt ck).heddle p.target p.srcModule p.reply)
    | (.resident slot, s2) =>
      let e := (s2.clusterAt ck).entry slot
      if e.st == .empty then touchEmpty s s2 ck p (fun s w => joinWaiters s ck slot w)
      else
        let node := nodeOf (s2.clusterAt ck).heddle p.target p.srcModule p.reply
        answerWord s2 p (touchWord e.st e.value) e.fillTime (e.st == .full) fun s =>
          freeNode (consume s ck slot (node.map (4096 + ·)) (!keep)) ck node
    | (.inPlace slot k, s2) =>
      let b := s2.readN (k.key + 32) 1
      if b % 8 == 1 then touchEmpty s s2 ck p (fun s w => joinRefill s ck slot w)
      else
        let node := nodeOf (s2.clusterAt ck).heddle p.target p.srcModule p.reply
        answerWord s2 p (touchWord (.ofCode (b % 8)) (wordOfNat (s2.readN (k.key + 8) 8))) (s2.clusterAt ck).heddle.spillTime
          (b % 8 == 2) fun s =>
            let s3 := freeNode s ck node
            if keep || bit b 3 then s3 else clearRec s3 ck p.msg.space k)

/-- The status of a future operation goes back to its issuer; a message that has to wait stays at the station (R85). -/
def answerStatus (s0 : State) (p : Packet) (r : Option Nat × State) : State :=
  match r with
  | (none, _) => s0
  | (some v, s1) => answerTo s1 p v p.msg.time 0 0 0

/-- The end of a task that migrated reaches its future's home (R44, R64, R110): the future is filled if it still is
EMPTY, and the entry's task bit is cleared; a fault of a task whose future was filled already is its launch's to report
(R80, R90). -/
def homeEnd (s : State) (p : Packet) (st : FState) : State :=
  let ck := p.dst
  let slot := hSlot p.target
  let e := (s.clusterAt ck).entry slot
  if !e.task || e.gen != hGen p.target then s
  else
    let s1 := if e.st == .empty then fillEntry s ck slot st p.msg.w1 p.msg.time false
      else if st == .poisoned then setFirstError s p.msg.sender (p.msg.w1.toNat % 65536) else s
    let e1 := (s1.clusterAt ck).entry slot
    let keepEntry := !e1.consumed && !(e1.ended && e1.waiters.isEmpty && e1.refill.isEmpty)
    let s2 := s1.putEntry ck slot { e1 with task := false }
    if keepEntry then drainRefill s2 ck slot else freeEntry s2 ck slot

/-- A fill that arrives as a message: a program's, or the end of a migrated task (R80, R85, R110). -/
def remoteFill (s : State) (p : Packet) (st : FState) : State :=
  s.inTurn p fun s1 =>
  if bit p.form 2 then homeEnd s1 p (if bit p.form 3 then .cancelled else st)
  else answerStatus s p (fillAt s1 p.dst p.msg.space p.target st p.msg.w1 (bit p.form 0) p.msg.time)

/-- REMOTE_RESOLVE (R80, R85). -/
def execRemoteResolve (p : Packet) (s : State) : Out := .next (remoteFill s p .full)

/-- REMOTE_POISON (R80, R85). -/
def execRemotePoison (p : Packet) (s : State) : Out := .next (remoteFill s p .poisoned)

/-- CANCEL of a task that moved to this cluster: it acts on the task, or goes on where the task has left again (R82, R110,
R111). -/
def cancelHere (s : State) (p : Packet) : Status × State :=
  match (s.clusterAt p.dst).tasks.find? (fun t => t.2.st != .free && t.2.moved && t.2.home == p.target) with
  | some t => let (r, s1) := cancelTask s p.dst t.1 p.msg.time; (.now r, s1)
  | none => cancelMoved s p.dst p

/-- REMOTE_CANCEL (R57, R82, R85): of a future, or of a work-ladder object of this module; a job's takes a privileged issuer,
which the request tells. A scan's asks for no answer. -/
def execRemoteCancel (p : Packet) (s : State) : Out :=
  .next (s.inTurn p fun s1 =>
    let priv := p.msg.w3 == 1
    let r := if hKind p.target == 2 then cancelOwner s1 p.target priv p.msg.time
      else if p.dst != hCk p.target then cancelHere s1 p
      else cancelAt s1 p.dst p.msg.space p priv p.msg.time
    let back := fun (v : Nat) (w3 : Word) (s : State) => if p.form == 1 then s else answerTo s p v p.msg.time 0 0 w3
    match r with
    | (.now v, s2) => back v 0 s2
    | (.priv, s2) => back 0 1 s2
    | (.later, s2) => s2
    | (.wait, _) => s)

/-- REMOTE_DEPDEC (R46, R85). -/
def execRemoteDepdec (p : Packet) (s : State) : Out :=
  .next (s.inTurn p fun s1 => answerStatus s p (depdecAt s1 p.dst p.msg.space p.target p.msg.time))

/-- REMOTE_FSPILL (R85, R86). -/
def execRemoteFspill (p : Packet) (s : State) : Out :=
  .next (s.inTurn p fun s1 => answerStatus s p (fspillAt s1 p.dst p.msg.space p.target p.msg.time))

/-- REMOTE_FFILL (R85, R86). -/
def execRemoteFfill (p : Packet) (s : State) : Out :=
  .next (s.inTurn p fun s1 => answerStatus s p (ffillAt s1 p.dst p.msg.space p.target p.msg.time))

/-- REMOTE_WAKE (R45, R85): the waiter re-executes its TOUCH. -/
def execRemoteWake (p : Packet) (s : State) : Out :=
  .next (s.inTurn p fun s1 =>
    let w := p.reply
    if sameWaiter s1 w && ((s1.clusterAt w.ck).task w.slot).touch == p.target then wakeLocal s1 w.ck w.slot else s1)

end Sys2Proof.Machine
end

