-- ==== Sys2Proof/Machine/Outside.lean ====
section
/-! DEFINITION. What reaches the module from outside its cores: hosts, chronograph ports, the fabric, the health
controller, bring-up, and the kill of a job (R53, R57, R79, R243, R253 to R263, R274 to R283). -/

namespace Sys2Proof.Machine

/-- A port's word (R243): unit 0 and 1 for PCIe ports, 2 and 3 for chronograph ports. -/
def portWord (s : State) (unit : Nat) : Word :=
  wordOfNat (s.pod.module * 2 ^ 52 + unit % 2 * 2 ^ 48 + 4095 * 2 ^ 36 + unit * 2 ^ 24)

/-- The pts of a port's agent (R161, R167). -/
def State.portTime (s : State) (unit : Nat) : Nat := mget (fun _ => 0) s.io.portPts unit

/-- Set it. -/
def State.setPortTime (s : State) (unit t : Nat) : State :=
  { s with io := { s.io with portPts := mput s.io.portPts unit t } }

/-- HOST_MESSAGE_WRITE (R259): one message to channel 0 of the supervisor in the cluster that HMSG names; a write that is
not aligned or not of 64 bytes is dropped and counted. -/
def execHostMessageWrite (port off len : Nat) (data : Vec) (s : State) : Out :=
  .next (
    if off % 64 != 0 || len != 64 then { s with io := { s.io with droppedWrites := s.io.droppedWrites + 1 } }
    else
      let h := mget (fun _ => (0 : Word)) s.io.hmsg port
      let w := fun (i : Nat) => wordOfNat (data.toNat >>> (64 * i))
      let m : Message := { handler := 0x20, w0 := w 1, w1 := w 2, w2 := w 3, w3 := w 4, sender := portWord s port
                           time := s.portTime port, space := 0, cls := 1 }
      s.send { srcModule := s.pod.module, src := (16 + port) * 4096 + 4095, dstModule := hModule h, dst := hCk h, target := h
               msg := m, form := 1 })

/-- The SPACE that a port's host accesses use (R260). -/
def hostSpace (s : State) (port : Nat) : Nat := (mget (fun _ => (0 : Word)) s.io.hspace port).toNat % 65536

/-- The key of the cluster that stands for an I/O die's station (R260). -/
def ioStation (port : Nat) : Nat := (16 + port) * 4096

/-- A host read or write of checked homes by the port's agent (R165, R167); none where a home holds a write back (R173). -/
def hostAccess (s : State) (port : Nat) (gs : List Seg) (write : Bool) (bs : List Byte) : Option State :=
  let pts := s.portTime port
  if write then
    match beforeSegs s {} gs with
    | none => none
    | some s0 =>
      let (t, s1) := writePass s0 gs (pts + 1)
      let w : Writer := { ck := ioStation port, space := hostSpace s port, time := t, dom := some 0 }
      some ((writeSegs w s1 gs bs).setPortTime port t)
  else
    let s1 := fillSegs s gs 0
    let t := readPass s1 gs pts
    let s2 := noteSegs (readTimes s1 gs t) (hostSpace s port) gs
    some (s2.setPortTime port t)

/-- One host access (R260): translated under HSPACE; a miss is Unsupported Request and is counted. None where it has to wait. -/
def hostTurn (s : State) (port va len : Nat) (write : Bool) (data : Nat) : Option State :=
  let space := hostSpace s port
  let refused := fun (s : State) => ({ s with io := { s.io with unsupported := s.io.unsupported + 1 } } : State)
  let (r, s1) := translate s (16 + port) 0 space va
  let device := match r with
    | .ok leaf bits => match targetOf leaf bits va with
      | .device pa => if len = 8 && va % 8 = 0 && (!write || leafWrite leaf) then some pa else none
      | _ => none
    | _ => none
  match device with
  | some pa =>
    if write && devWaits s1 pa (wordOfNat data) then none
    else
      let s2 := s1.setPortTime port (s1.portTime port + 1)
      some (if write then devWrite s2 pa (wordOfNat data) else s2)
  | none =>
    match virtReach (ioStation port) space write (len / 4096 + 2) s va len with
    | (_, some _, s2) => some (refused s2)
    | (gs, none, s2) => hostAccess s2 port gs write (leBytes len data)

/-- The accesses of a port that wait are performed, as many as can be, in the order of their arrival (R167, R260). -/
def hostTurns (port : Nat) : Nat → State → State
  | 0, s => s
  | fuel + 1, s =>
    match s.io.hostQueue.find? (fun x => x.1 == port) with
    | none => s
    | some x =>
      match hostTurn s x.1 x.2.1 x.2.2.1 x.2.2.2.1 x.2.2.2.2 with
      | none => s
      | some s1 => hostTurns port fuel { s1 with io := { s1.io with hostQueue := s1.io.hostQueue.erase x } }

/-- HOST_MEMORY_ACCESS (R167, R260): an access comes behind those of its port that wait. An access of no bytes is none, and
lets those have their turn. -/
def execHostMemoryAccess (port va len : Nat) (write : Bool) (data : Nat) (s : State) : Out :=
  .next (
    let q := if len = 0 then s.io.hostQueue else s.io.hostQueue ++ [(port, va, len, write, data)]
    hostTurns port q.length { s with io := { s.io with hostQueue := q } })

/-- A big-endian field of a frame. -/
def frameNat (bytes : List Byte) (off n : Nat) : Nat :=
  ((bytes.drop off).take n).foldl (fun a b => 256 * a + b.toNat) 0

/-- What the filters compare (R262): destination address, VLAN ID, Ethertype and UDP destination port of a frame. -/
structure FrameKeys where
  mac : Nat
  vlan : Option Nat
  ethertype : Nat
  udp : Option Nat
  deriving DecidableEq, Repr

/-- The UDP destination port of an IPv4 or IPv6 packet at an offset of a frame (R262). -/
def udpPort (bytes : List Byte) (ethertype off : Nat) : Option Nat :=
  if ethertype = 0x800 then
    if frameNat bytes (off + 9) 1 = 17 && frameNat bytes (off + 6) 2 % 8192 = 0 then
      some (frameNat bytes (off + frameNat bytes off 1 % 16 * 4 + 2) 2)
    else none
  else if ethertype = 0x86DD then
    if frameNat bytes (off + 6) 1 = 17 then some (frameNat bytes (off + 42) 2) else none
  else none

/-- The fields of a frame. -/
def frameKeys (bytes : List Byte) : FrameKeys :=
  let tagged := frameNat bytes 12 2 = 0x8100
  let off := if tagged then 18 else 14
  let ethertype := frameNat bytes (off - 2) 2
  { mac := frameNat bytes 0 6, vlan := if tagged then some (frameNat bytes 14 2 % 4096) else none
    ethertype := ethertype, udp := udpPort bytes ethertype off }

/-- Whether an enabled filter takes a frame: all its valid fields match (R262). -/
def filterTakes (ws : List Word) (k : FrameKeys) : Bool :=
  let w := fun (i : Nat) => (ws.getD i 0).toNat
  bit (w 2) 7 && (!bit (w 0) 60 || k.mac == fld (w 0) 0 48) && (!bit (w 0) 61 || k.vlan == some (fld (w 0) 48 12)) &&
    (!bit (w 0) 62 || k.ethertype == fld (w 1) 0 16) && (!bit (w 0) 63 || k.udp == some (fld (w 1) 16 16))

/-- The first enabled filter of a port that takes a frame. -/
def filterFor (s : State) (port : Nat) (k : FrameKeys) : Option Nat :=
  firstBelow 64 (fun f => filterTakes ((List.range 5).map (s.io.filterWord port f)) k)

/-- A frame is dropped and counted: at its port, or by the filter that took it (R261 to R263, R450). -/
def dropFrame (s : State) (port : Nat) (filter : Option Nat) : State :=
  let x := mget (fun _ => ({} : Chrono)) s.io.chrono port
  let y := match filter with
    | none => { x with dropped := x.dropped + 1 }
    | some f => { x with drops := mput x.drops f (mget (fun _ => 0) x.drops f + 1) }
  { s with io := { s.io with chrono := mput s.io.chrono port y } }

/-- Set the index word of a filter: bytes 32 to 39 (R262). -/
def setIndices (s : State) (port f : Nat) (v : Nat) : State :=
  let x := mget (fun _ => ({} : Chrono)) s.io.chrono port
  let ws := ((List.range 5).map (s.io.filterWord port f)).set 4 (wordOfNat v)
  { s with io := { s.io with chrono := mput s.io.chrono port { x with filters := mput x.filters f ws } } }

/-- The header of a landed frame (R263). -/
def frameHeader (sec ns len seq port f : Nat) (truncated : Bool) : List Byte :=
  leBytes 6 sec ++ leBytes 4 ns ++ leBytes 2 len ++ leBytes 4 seq ++ leBytes 1 port ++ leBytes 1 (b2n truncated) ++
    leBytes 2 f ++ leBytes 12 0

/-- The class of the binding of a channel (R247, R263). -/
def landClass (s : State) (ck space ch : Nat) : Nat :=
  chbClass (mget (fun _ => (0 : Word)) ((s.clusterAt ck).ctxAt space).chb ch)

/-- A frame lands in its ring slot, and the message that starts its handler leaves (R169, R263). -/
def landFrame (s : State) (port f : Nat) (bytes : List Byte) (sec ns seq prod : Nat) : State :=
  let w := fun (i : Nat) => (s.io.filterWord port f i).toNat
  let size := 256 * 2 ^ fld (w 2) 8 4
  let off := size * (prod % fld (w 2) 16 16)
  let key := landingKey port (fld (w 2) 32 32 + off)
  let body := bytes.take (size - 32)
  let img := frameHeader sec ns bytes.length seq port f (decide (size - 32 < bytes.length)) ++ body
  let gs := [Seg.mem key img.length 0]
  let (t, s0) := writePass s gs (s.portTime (2 + port) + 1)
  let s1 : State := { s0.writeBytes key img with bad := clearMarks s0.bad key img.length }
  let s2 := (stampSegs s1 gs t).setPortTime (2 + port) t
  let ck := fld (w 1) 60 4 * 4096 + fld (w 1) 48 12
  let target := wordOfNat (s.pod.module * 2 ^ 52 + fld (w 1) 60 4 * 2 ^ 48 + fld (w 1) 48 12 * 2 ^ 36)
  let m : Message := { handler := 0x20 + fld (w 2) 0 4, w0 := s.io.filterWord port f 3 + wordOfNat off, w1 := wordOfNat seq
                       w2 := wordOfNat (sec * 1000000000 + ns), sender := portWord s (2 + port), time := t
                       space := fld (w 1) 32 16, cls := landClass s ck (fld (w 1) 32 16) (fld (w 2) 0 4) }
  s2.send { srcModule := s.pod.module, src := (18 + port) * 4096 + 4095, dstModule := s.pod.module, dst := ck
            target := target, msg := m, form := 1 }

/-- CHRONOGRAPH_FRAME (R261 to R263). -/
def execChronographFrame (port : Nat) (fcs : Bool) (bytes : List Byte) (sec ns : Nat) (s : State) : Out :=
  .next (
    if !fcs || 9216 < bytes.length then dropFrame s port none
    else
      match filterFor s port (frameKeys bytes) with
      | none => dropFrame s port none
      | some f =>
        let v := (s.io.filterWord port f 4).toNat
        let c := fld (s.io.filterWord port f 2).toNat 16 16
        let w := ringModulus c
        let prod := fld v 0 16
        let cons := fld v 16 16
        let seq := fld v 32 32
        let v1 := putFld v 32 32 ((seq + 1) % 2 ^ 32)
        if c ≤ (prod + 65536 * w - cons) % w then dropFrame (setIndices s port f v1) port (some f)
        else setIndices (landFrame s port f bytes sec ns seq prod) port f (putFld v1 0 16 ((prod + 1) % w)))

/-- PTP_MESSAGE (R261): the selected port's time disciplines PTIME. -/
def execPtpMessage (port ns : Nat) (s : State) : Out :=
  .next (if port = s.io.ptpPort then { s with ptime := ns, ptimeAt := s.cycle } else s)

/-- Whether a packet travels on the priority virtual channel: a DEADLINE-class message, a wake or an answer; the data
packets of an engine job are no messages (R252, R255). -/
def isPriority (p : Packet) : Bool := (p.msg.cls == 0 && !ofJob p) || p.msg.handler == 15 || p.msg.handler == 7

/-- The packet's sender has no try left: a copy fails with code 0x05, with as much committed as certainly is (R236), any other operation is a fatal context error of the
sender's job (R257, R274). -/
def exhausted (s : State) (k : Nat) (p : Packet) : State :=
  let s1 : State := { s with pod := { s.pod with
    unacked := s.pod.unacked.eraseIdx k, fabric := s.pod.fabric.filter (fun q => q.seq != p.seq) } }
  if ofJob p && 2 ^ 63 ≤ p.msg.w2.toNat then answerBack s1 { p with dst := p.src, msg := { p.msg with w1 := p.msg.w2, w3 := 5 } }
  else if ofJob p && p.msg.w2 != 0 then
    match s1.job? (p.msg.w2.toNat - 1) with
    | some j =>
      if j.kind != .copy then fatalAt s1 (p.src / 4096) p.msg.space 0x312 9 p.target p.msg.time
      else if j.sent then failCopy s1 j 5 0
      else s1.putJob { j with code := 5, acks := 0 }
    | none => s1
  else fatalAt s1 (p.src / 4096) p.msg.space 0x312 9 p.target p.msg.time

/-- A kept packet is sent again, at most four times, in its place by number (R254, R257). -/
def resend (s : State) (k : Nat) (p : Packet) : State :=
  if 4 ≤ p.resent then exhausted s k p
  else
    let q := { p with resent := p.resent + 1 }
    let s1 : State := { s with pod := { s.pod with
      unacked := s.pod.unacked.set k q, fabric := s.pod.fabric.filter (fun x => x.seq != p.seq) } }
    { s1 with pod := { s1.pod with fabric := s1.launchPacket q } }

/-- FABRIC_HEADER_ERROR (R255, R257): the event is counted; a packet of the priority channel is sent again at once, any
other one is lost until its timeout. -/
def execFabricHeaderError (k : Nat) (s : State) : Out :=
  .next (
    match s.pod.unacked[k]? with
    | none => s
    | some p =>
      let s1 : State := { s with io := { s.io with headerErrors := s.io.headerErrors + 1 } }
      if isPriority p then resend s1 k p
      else { s1 with pod := { s1.pod with fabric := s1.pod.fabric.filter (fun x => x.seq != p.seq) } })

/-- END_TO_END_TIMEOUT (R257): a packet that is not of the priority channel is sent again by its source. -/
def execEndToEndTimeout (k : Nat) (s : State) : Out :=
  .next (
    match s.pod.unacked[k]? with
    | none => s
    | some p => if isPriority p then s else resend s k p)

/-- The next state of a link that loses margin; the flags tell which half of its lanes is healthy (R256). -/
def Link.lose (l : Link) (low high : Bool) : Link :=
  match l with
  | .pam4 => .nrz
  | .nrz => if low || high then .half else .down
  | .half => if low || high then .half else .down
  | .down => .down

/-- LINK_MARGIN_LOSS (R256): each step is logged in the bank of the port's I/O die; ports 0 to 3 are I/O die 0's (R12). -/
def execLinkMarginLoss (port : Nat) (low high : Bool) (s : State) : Out :=
  .next (
    let l := mget (fun _ => Link.pam4) s.io.links port
    let n := l.lose low high
    if n = l then s
    else
      let s1 := s.ioError (port / 4) false 13 port 0 0 0
      { s1 with io := { s1.io with links := mput s1.io.links port n } })

/-- MODULE_FAILURE_MARK (R253): routes go round the module. -/
def execModuleFailureMark (m : Nat) (s : State) : Out :=
  .next { s with io := { s.io with failed := if s.io.failed.contains m then s.io.failed else s.io.failed ++ [m] } }

/-- Set a health flag (R280). -/
def setHealth (s : State) (i : Nat) : State := { s with io := { s.io with health := putFld s.io.health i 1 1 } }

/-- A cluster leaves service to be retested: it takes no new task, and its running tasks are asked for their yield points
so that they can move (R280). -/
def drainCluster (s : State) (ck : Nat) : State :=
  let c := s.clusterAt ck
  let s1 := s.putCluster ck { c with hstate := 1 }
  (coreKeys ck).foldl (fun s k =>
    let x := s.coreAt k
    if x.running.isSome then s.putCore k { x with preempt := true } else s) s1

/-- CORRECTED_ERROR_WINDOW (R281): the end of a one-second window with an array's count of corrected errors. Behind a quiet
window the controller may lower the voltage: that is a free choice (log entry 41). -/
def execCorrectedErrorWindow (ck errors : Nat) (s : State) : Out :=
  .next (
    let left := mget (fun _ => 0) s.io.windows ck
    let under := mget (fun _ => 0) s.io.undervolt ck != 0
    if errors < 16 then
      let (v, s1) := s.choose
      let low := left ≤ 1 && !under && v % 2 == 1
      { s1 with io := { s1.io with windows := mset (fun _ => 0) s1.io.windows ck (left - 1)
                                   undervolt := if low then mput s1.io.undervolt ck 1 else s1.io.undervolt } }
    else if under then
      { s with io := { s.io with undervolt := mdel s.io.undervolt ck, windows := mput s.io.windows ck 60 } }
    else if left = 0 then s
    else
      let s1 := setHealth (if ck % 4096 < 3200 then drainCluster s ck else s) 1
      { s1 with io := { s1.io with windows := mdel s1.io.windows ck, msix := s1.io.msix ++ [(0, 0), (64, 0)] } })

/-- An 8-byte granule has an uncorrectable error (R272). -/
def markGranule (s : State) (g : Nat) : State := if s.bad.contains g then s else { s with bad := g :: s.bad }

/-- What the scrubber finds in data entry `id` of a die's L2 slice, at an offset of its 128 bytes: an uncorrectable error is
in every line that shares the entry (R155, R272, R281). -/
def scrubEntry (s : State) (die id off : Nat) (uncorrectable : Bool) : State :=
  let s1 := s.dieError die uncorrectable 4 0 0 (wordOfNat id) 0
  if uncorrectable then
    ((s.dieAt die).l2.tags.filter (fun t => t.entry == id)).foldl (fun s t => markGranule s ((t.pa + off) / 8)) s1
  else s1

/-- An uncorrectable error in a register of a core, found where it stands: kind 4 a general, 5 a vector, 6 a moment register,
whose next read takes UE (R272, R276; log entry 62). -/
def registerError (s : State) (k kind r : Nat) : State :=
  let (v, s1) := s.choose
  let c := s1.coreAt k
  let c1 := match kind with
    | 4 => { c with gmarks := mput c.gmarks r (wordOfNat v) }
    | 5 => { c with vmarks := mput c.vmarks (r % 24) (v % 2 ^ 64) }
    | _ => { c with mmarks := mput c.mmarks (r % 16) (wordOfNat v) }
  (s1.putCore k c1).clusterError (k / 8) true 3 (k % 8) c.space (wordOfNat r) 0

/-- A value that goes wrong with nothing that notices it, as the checks of a program are to find: kind 7 an element of an
accumulator, 8 a lane of a vector register (R445, R446; log entry 62). -/
def upset (s : State) (k kind i : Nat) : State :=
  let (v, s1) := s.choose
  let c := s1.coreAt k
  s1.putCore k (if kind = 7 then
      { c with loom := { c.loom with acc := mset (fun _ => 0) c.loom.acc (i % 4096) (BitVec.ofNat 32 v) } }
    else
      let r := i / 16 % 24
      { c with vregs := mset (fun _ => 0) c.vregs r (ofLanes 32 ((lanes (c.v r) 32).set (i % 16) (v % 2 ^ 32))) })

/-- The cached translations of a station of a die, or of its last level, have an error (R272): column 80 is the last level. -/
def cacheError (s : State) (die column i : Nat) : State :=
  let d := s.dieAt die
  let hit := fun (l : List Transl) => l.zipIdx.map (fun x => if x.2 = i then { x.1 with ue := true } else x.1)
  s.putDie die (if column = 80 then { d with llc := hit d.llc }
    else { d with stations := mput d.stations column (hit (mget (fun _ => []) d.stations column)) })

/-- An error in a store of a cluster other than its array (R272): kind 0 a loom slot, 1 an accumulator of core i / 4, 2 the
lattice table, 3 an almanac entry, 4 to 6 a register i / 8 of core i % 8, 7 and 8 a silent one of core i / 4096, 9 an L1 line,
10 a cached translation of the cluster's station, 11 one of the die's last level (log entry 62). -/
def storeError (s : State) (ck kind i : Nat) (uncorrectable : Bool) : State :=
  let c := s.clusterAt ck
  if kind = 7 || kind = 8 then upset s (ck * 8 + i / 4096 % 8) kind i
  else if kind = 10 then cacheError s (ck / 4096) (ck % 4096 % 80) i
  else if kind = 11 then cacheError s (ck / 4096) 80 i
  else if !uncorrectable then
    s.clusterError ck false (match kind with
      | 3 => 2
      | 4 | 5 | 6 => 3
      | 9 => 0
      | _ => 1) (if 4 ≤ kind && kind ≤ 6 then i % 8 else 0) 0 (wordOfNat i) 0
  else
    match kind with
    | 4 | 5 | 6 => registerError s (ck * 8 + i % 8) kind (i / 8)
    | 9 => s.putCluster ck { c with l1 := c.l1.zipIdx.map (fun x => if x.2 = i then { x.1 with ue := true } else x.1) }
    | 0 => s.putCluster ck { c with loom := { c.loom with slots := c.loom.slots.map fun w =>
        if w.1 = i then (w.1, { w.2 with ue := true }) else w } }
    | 1 =>
      let k := ck * 8 + i / 4 % 8
      let x := s.coreAt k
      s.putCore k { x with loom := { x.loom with ue := putFld x.loom.ue (i % 4) 1 1 } }
    | 2 => s.putCluster ck { c with loom := { c.loom with latticeUe := true } }
    | _ => s.putEntry ck i { c.entry i with ue := true }

/-- An error in the tag of an L2 line: one that cannot be corrected leaves no byte of the line sound (R272, R276; log entry
62). -/
def tagError (s : State) (pa : Nat) (uncorrectable : Bool) : State :=
  let s1 := s.dieError (pa / 2 ^ 36) uncorrectable 5 0 0 (wordOfNat pa) 0
  if uncorrectable then (List.range 16).foldl (fun s i => markGranule s (pa / 128 * 16 + i)) s1 else s1

/-- PATROL_SCRUB (R277, R281): what the scrubber finds in an HBM line, or in an L2 data entry, is recorded; an uncorrectable
error marks the granule (R272). Errors in the other protected stores come in by the same event at keys of their own (log
entry 62). -/
def execPatrolScrub (pa : Nat) (uncorrectable : Bool) (s : State) : Out :=
  .next (
    if pa < 2 ^ 40 then
      let s1 := s.dieError (pa / 2 ^ 36) uncorrectable 6 0 0 (wordOfNat pa) 0
      if uncorrectable then markGranule s1 (pa / 8) else s1
    else if pa < 2 ^ 41 then scrubEntry s (fld pa 36 4) (fld pa 7 29) (pa % 128) uncorrectable
    else if 2 ^ 50 ≤ pa && pa < 2 ^ 50 + 2 ^ 40 then tagError s (pa - 2 ^ 50) uncorrectable
    else if pa < 2 ^ 62 then
      if uncorrectable then markGranule s (pa / 8)
      else if pa < landingKey 0 0 then s.clusterError ((pa - arrayKey 0 0) / 262144) false 0 0 0 (localAddr (pa % 262144)) 0
      else s.ioError ((pa - landingKey 0 0) / 4503599627370496) false 11 0 0 (wordOfNat pa) 0
    else storeError s (fld pa 24 16) (fld pa 16 8) (pa % 65536) uncorrectable)

/-- CLUSTER_RETEST (R280): a drained cluster moves to its new state at its voltage step, which is higher where it comes back
into service; out of service reduces the capacity. -/
def execClusterRetest (ck state volts : Nat) (s : State) : Out :=
  .next (
    let c := s.clusterAt ck
    if c.hstate != 1 || c.tasks.any (fun t => t.2.st != .free) || (state % 4 = 0 && volts % 4 ≤ c.volts) then s
    else
      let s1 := s.putCluster ck { c with hstate := state % 4, volts := volts % 4 }
      if state % 4 = 2 then setHealth s1 2 else s1)

/-- The links that bring-up disables: those of ports with no neighbour (R13, R282). -/
def linksAtStart (populated : List Nat) (m : Nat) : SMap Link :=
  ((List.range 8).filter (fun p => (neighbour populated m p).isNone)).map (fun p => (p, .down))

/-- Bring-up (R282, R283): every part as at reset. What no rule of bring-up touches stays: the schedule, the counter of
the free values, the time, and which modules the pod has. -/
def bringUp (s : State) (imageOk : Bool) : State :=
  let r := State.reset
  { r with moves := s.moves, free := s.free, cycle := s.cycle, ptime := s.ptime, ptimeAt := s.ptimeAt
           pod := { r.pod with module := s.pod.module, populated := s.pod.populated }
           down := !imageOk, io := { r.io with health := if imageOk then 1 else 8, links := linksAtStart s.pod.populated s.pod.module } }

/-- POWER_ON (R282). -/
def execPowerOn (imageOk : Bool) (s : State) : Out := .next (bringUp s imageOk)

/-- RESET_REQUEST (R282). -/
def execResetRequest (imageOk : Bool) (s : State) : Out := .next (bringUp s imageOk)

/-- A core that runs a task of the job stops at once, its task ends at no time below the kill's (R170, R171, R275). -/
def killCore (s : State) (k slot m : Nat) : State :=
  let t := (s.clusterAt (k / 8)).task slot
  freeCore (endTask (orphanAsked s k slot t.launch) (k / 8) slot (.poison 0x303) (max (max (s.coreAt k).pts t.pts) m)) k

/-- End every task of a context, running or not, at no time below the kill's (R79, R170, R171, R275). -/
def killTasks (s : State) (space m : Nat) : State :=
  (s.liveTasks.filter (fun x => x.2.2.space == space)).foldl (fun s x =>
    match (coreKeys x.1).find? (fun k => (s.coreAt k).running == some x.2.1) with
    | some k => killCore s k x.2.1 m
    | none => endTask s x.1 x.2.1 (.poison 0x303) (max x.2.2.pts m)) s

/-- The standing launches of a killed job end with it: their kept entries are to be freed (R53, R65, R84). -/
def closeStanding (s : State) (space : Nat) : State :=
  (s.ladders.filter (fun x => x.2.standing && x.2.space == space && !x.2.ended)).foldl
    (fun s x => (launchHolders s x.1).foldl (closeLaunch x.1) s) s

/-- What a cluster discards and releases of a job, the landing regions of its channels among it (R275). -/
def killCluster (space : Nat) (c : Cluster) : Cluster :=
  let x := c.ctxAt space
  let rings := x.chanRegion.map (·.2)
  let c1 := if x.live then c.putCtx space { x with chans := [], chanRegion := [] } else c
  { c1 with permits := c1.permits.filter (fun p => p.2.space != space), fwd := c1.fwd.filter (fun f => f.2.space != space)
            regions := c1.regions.filter (fun r => r.kind != 4 || !rings.contains r.off)
            loom := { c1.loom with slots := c1.loom.slots.filter (fun w => !(w.2.held != 0 && w.2.space == space)) } }

/-- The ladder records of a killed job keep their counters and stand until its SPACE is used again; the job and its standing
launch are no longer live, no task of its launches is still to be placed (R53, R275). -/
def killLadder (space : Nat) (r : Ladder) : Ladder :=
  if r.space != space then r
  else
    match r.kind with
    | .job => { r with ended := true, killed := true }
    | .launch => { r with placed := true, ended := r.ended || r.standing, killed := true }
    | _ => { r with killed := true }

/-- What a die discards of a job (R275). -/
def killDie (space : Nat) (d : Die) : Die :=
  { d with launchQ := d.launchQ.filter (fun q => q.space != space), spilled := d.spilled.filter (fun q => q.space != space)
           waitingTasks := d.waitingTasks.filter (fun p => p.msg.space != space)
           ladder := d.ladder.map (fun x => (x.1, killLadder space x.2)) }

/-- Whether a packet in flight is discarded with a job: its messages, but for wakes and answers, which others wait for
(R275). -/
def killedPacket (space : Nat) (p : Packet) : Bool := p.msg.space == space && p.msg.handler != 15 && p.msg.handler != 7

/-- What stands outside dies and clusters discards of a job (R275). -/
def killPod (space : Nat) (p : Pod) : Pod :=
  let gone := killedPacket space
  { p with jobs := p.jobs.filter (fun j => j.space != space), com := p.com.filter (fun u => u.space != space)
           qnt := p.qnt.filter (fun u => u.space != space), net := p.net.filter (fun q => !gone q)
           fabric := p.fabric.filter (fun q => !gone q), unacked := p.unacked.filter (fun q => !gone q) }

/-- KILL_MESSAGE (R57, R170, R274, R275): the job of a SPACE ends; its completion future is POISONED with the code, or
CANCELLED for code 0, at the kill's time or a later end of the job's. -/
def execKillMessage (space code : Nat) (s : State) : Out :=
  .next (
    let mine := fun (k : Nat × Nat × Nat) => k.1 == space && k.2.1 == code
    let m := ((s.pod.kills.find? mine).map (·.2.2)).getD 0
    let jobs := s.ladders.filter (fun x => x.2.kind == .job && x.2.space == space && !x.2.ended)
    let s1 : State := { s with pod := { s.pod with kills := s.pod.kills.eraseIdx (s.pod.kills.findIdx mine) } }
    let s2 := closeStanding (killTasks s1 space m) space
    let s3 : State := { s2 with
      clusters := s2.clusters.map (fun c => (c.1, killCluster space c.2)), dies := s2.dies.map (fun d => (d.1, killDie space d.2))
      pod := killPod space s2.pod }
    jobs.foldl (fun s x => fillCompletion s space x.2.future (if code = 0 then .cancelled else .poisoned)
      (if code = 0 then 0 else wordOfNat code) (max m x.2.maxTime)) s3)

/-- The status page of a host port (R258, R280): module, health flags, PTIME, dropped writes, aperture messages of the port that
no handler has taken yet, and of each die the clusters that are not in service. How it is laid out is not in the spec. -/
structure StatusPage where
  module : Nat
  health : Nat
  ptime : Nat
  dropped : Nat
  waiting : Nat
  away : List (Nat × Nat)
  deriving DecidableEq, Repr

/-- What a host reads there. -/
def State.statusPage (s : State) (port : Nat) : StatusPage :=
  let mine := fun (p : Packet) => p.msg.sender == portWord s port
  let queued := s.clusters.flatMap (fun c => (c.2.ctxAt 0).chans.flatMap (·.2))
  { module := s.pod.module, health := s.io.health, ptime := s.now, dropped := s.io.droppedWrites
    waiting := (s.pod.net.filter mine).length + (queued.filter mine).length
    away := (List.range 16).map (fun d =>
      (d, (s.clusters.filter (fun c => c.1 / 4096 == d && c.1 % 4096 < 3200 && c.2.hstate != 0)).length)) }

end Sys2Proof.Machine
end

