-- ==== Sys2Proof/Machine/Scalar.lean ====
section
/-! DEFINITION. The scalar instructions of MAJ 0x01 to 0x06 (R314 to R437). -/

namespace Sys2Proof.Machine

/-- A register-to-register operation: read a and b, write d, go on. -/
def scalar2 (f : Word → Word → Word) (d a b : BitVec 5) (s : State) : Out := .next (s.ret d (f (s.x a) (s.x b)))

/-- An operation with an immediate of R288. -/
def scalarImm (f : Word → Word → Word) (d a : BitVec 5) (i : BitVec 16) (s : State) : Out :=
  .next (s.ret d (f (s.x a) (wordOfInt (s.imm i.toNat 16))))

/-- ADD (R314). -/
def execAdd (d a b : BitVec 5) (s : State) : Out := scalar2 (fun x y => x + y) d a b s
/-- SUB (R417). -/
def execSub (d a b : BitVec 5) (s : State) : Out := scalar2 (fun x y => x - y) d a b s
/-- MUL: the low 64 bits (R396). -/
def execMul (d a b : BitVec 5) (s : State) : Out := scalar2 (fun x y => x * y) d a b s
/-- The high half of a signed product (R396). -/
def mulHigh (x y : Word) : Word := wordOfInt (x.toInt * y.toInt / 2 ^ 64)
/-- MULH (R396). -/
def execMulh (d a b : BitVec 5) (s : State) : Out := scalar2 mulHigh d a b s
/-- A signed division or remainder: DIVZERO with the dividend (R340, R403). -/
def divide (f : Int → Int → Int) (d a b : BitVec 5) (s : State) : Out :=
  .next (if s.x b = 0 then trap s 17 (s.x a) else s.ret d (wordOfInt (f (s.x a).toInt (s.x b).toInt)))
/-- DIV truncates toward zero (R340). -/
def execDiv (d a b : BitVec 5) (s : State) : Out := divide Int.tdiv d a b s
/-- REM has the sign of the dividend (R403). -/
def execRem (d a b : BitVec 5) (s : State) : Out := divide Int.tmod d a b s
/-- AND (R321). -/
def execAnd (d a b : BitVec 5) (s : State) : Out := scalar2 (fun x y => x &&& y) d a b s
/-- OR (R398). -/
def execOr (d a b : BitVec 5) (s : State) : Out := scalar2 (fun x y => x ||| y) d a b s
/-- XOR (R437). -/
def execXor (d a b : BitVec 5) (s : State) : Out := scalar2 (fun x y => x ^^^ y) d a b s
/-- SHL by X[b][5:0] (R412). -/
def execShl (d a b : BitVec 5) (s : State) : Out := scalar2 (fun x y => x <<< (y.toNat % 64)) d a b s
/-- SHR by X[b][5:0], zeros entering (R412). -/
def execShr (d a b : BitVec 5) (s : State) : Out := scalar2 (fun x y => x >>> (y.toNat % 64)) d a b s
/-- SHA by X[b][5:0], the sign entering (R412). -/
def execSha (d a b : BitVec 5) (s : State) : Out := scalar2 (fun x y => x.sshiftRight (y.toNat % 64)) d a b s
/-- MIN as I64 (R378). -/
def execMin (d a b : BitVec 5) (s : State) : Out := scalar2 (fun x y => if x.toInt ≤ y.toInt then x else y) d a b s
/-- MAX as I64 (R378). -/
def execMax (d a b : BitVec 5) (s : State) : Out := scalar2 (fun x y => if x.toInt ≥ y.toInt then x else y) d a b s
/-- SEL by bit 0 of X[c] (R411). -/
def execSel (d a b c : BitVec 5) (s : State) : Out :=
  .next (s.ret d (if (s.x c).toNat % 2 = 1 then s.x a else s.x b))
/-- MOV (R387). -/
def execMov (d a : BitVec 5) (s : State) : Out := .next (s.ret d (s.x a))
/-- The number of leading zeros of a word. -/
def leadingZeros (x : Word) : Nat := if x = 0 then 64 else 63 - Nat.log2 x.toNat
/-- CLZ (R333). -/
def execClz (d a : BitVec 5) (s : State) : Out := .next (s.ret d (wordOfNat (leadingZeros (s.x a))))
/-- The number of set bits of a word. -/
def popCount (x : Word) : Nat := (List.range 64).foldl (fun n i => n + b2n (bit x.toNat i)) 0
/-- POPC (R402). -/
def execPopc (d a : BitVec 5) (s : State) : Out := .next (s.ret d (wordOfNat (popCount (s.x a))))
/-- A field extracted by a specification (R323, R325). -/
def extractField (x spec : Word) (signed : Bool) : Word :=
  let l := fld spec.toNat 0 6
  let w := fld spec.toNat 8 7
  let f := fld x.toNat l w
  if signed then wordOfInt (sext f w) else wordOfNat f
/-- BFX (R325). -/
def execBfx (d a b : BitVec 5) (sg : BitVec 1) (s : State) : Out :=
  .next (s.legal (.bfx d a b sg) fun s => s.ret d (extractField (s.x a) (s.x b) (sg == 1)))
/-- A field inserted by a specification (R323, R324). -/
def insertField (old x spec : Word) : Word :=
  wordOfNat (putFld old.toNat (fld spec.toNat 0 6) (fld spec.toNat 8 7) x.toNat)
/-- BFI (R324). -/
def execBfi (d a b : BitVec 5) (s : State) : Out :=
  .next (s.legal (.bfi d a b) fun s => s.ret d (insertField (s.x d) (s.x a) (s.x b)))
/-- LEA (R360). -/
def execLea (d a b sh : BitVec 5) (s : State) : Out := scalar2 (fun x y => x + y <<< sh.toNat) d a b s
/-- CMP writes one result bit (R335). -/
def execCmp (d a b c : BitVec 5) (i : BitVec 6) (s : State) : Out :=
  .next (s.legal (.cmp d a b c i) fun s =>
    s.ret d (setBit (s.x d) i.toNat (condInt c.toNat 64 (s.x a).toNat (s.x b).toNat)))
/-- ADDI (R315). -/
def execAddi (d a : BitVec 5) (i : BitVec 16) (s : State) : Out := scalarImm (fun x y => x + y) d a i s
/-- ANDI (R322). -/
def execAndi (d a : BitVec 5) (i : BitVec 16) (s : State) : Out := scalarImm (fun x y => x &&& y) d a i s
/-- ORI (R398). -/
def execOri (d a : BitVec 5) (i : BitVec 16) (s : State) : Out := scalarImm (fun x y => x ||| y) d a i s
/-- MOVI (R388). -/
def execMovi (d : BitVec 5) (i : BitVec 16) (s : State) : Out := .next (s.ret d (wordOfInt (s.imm i.toNat 16)))

end Sys2Proof.Machine
end

