-- ==== Sys2Proof/Machine/Dispatch.lean ====
section
/-! DEFINITION. One arm for every instruction: the meaning it has. -/

namespace Sys2Proof.Machine

def exec (i : Instr) (s : State) : Host.Outcome State Fault Refusal :=
  match i with
  | .add d a b => Sys2Proof.Machine.execAdd d a b s
  | .sub d a b => Sys2Proof.Machine.execSub d a b s
  | .mul d a b => Sys2Proof.Machine.execMul d a b s
  | .mulh d a b => Sys2Proof.Machine.execMulh d a b s
  | .div d a b => Sys2Proof.Machine.execDiv d a b s
  | .rem d a b => Sys2Proof.Machine.execRem d a b s
  | .and d a b => Sys2Proof.Machine.execAnd d a b s
  | .or d a b => Sys2Proof.Machine.execOr d a b s
  | .xor d a b => Sys2Proof.Machine.execXor d a b s
  | .shl d a b => Sys2Proof.Machine.execShl d a b s
  | .shr d a b => Sys2Proof.Machine.execShr d a b s
  | .sha d a b => Sys2Proof.Machine.execSha d a b s
  | .min d a b => Sys2Proof.Machine.execMin d a b s
  | .max d a b => Sys2Proof.Machine.execMax d a b s
  | .sel d a b c => Sys2Proof.Machine.execSel d a b c s
  | .mov d a => Sys2Proof.Machine.execMov d a s
  | .clz d a => Sys2Proof.Machine.execClz d a s
  | .popc d a => Sys2Proof.Machine.execPopc d a s
  | .bfx d a b st => Sys2Proof.Machine.execBfx d a b st s
  | .bfi d a b => Sys2Proof.Machine.execBfi d a b s
  | .lea d a b st => Sys2Proof.Machine.execLea d a b st s
  | .cmp d a b c im => Sys2Proof.Machine.execCmp d a b c im s
  | .addi d a im => Sys2Proof.Machine.execAddi d a im s
  | .andi d a im => Sys2Proof.Machine.execAndi d a im s
  | .ori d a im => Sys2Proof.Machine.execOri d a im s
  | .movi d im => Sys2Proof.Machine.execMovi d im s
  | .br r im st d => Sys2Proof.Machine.execBr r im st d s
  | .jmp d => Sys2Proof.Machine.execJmp d s
  | .jmpi a => Sys2Proof.Machine.execJmpi a s
  | .call k d => Sys2Proof.Machine.execCall k d s
  | .ret a => Sys2Proof.Machine.execRet a s
  | .yield n => Sys2Proof.Machine.execYield n s
  | .halt a => Sys2Proof.Machine.execHalt a s
  | .haltR d a => Sys2Proof.Machine.execHaltR d a s
  | .spawn f a d => Sys2Proof.Machine.execSpawn f a d s
  | .touch d a v => Sys2Proof.Machine.execTouch d a v s
  | .resolve d a b k => Sys2Proof.Machine.execResolve d a b k s
  | .poison d a b k => Sys2Proof.Machine.execPoison d a b k s
  | .cancel d a => Sys2Proof.Machine.execCancel d a s
  | .launch d a => Sys2Proof.Machine.execLaunch d a s
  | .gang c => Sys2Proof.Machine.execGang c s
  | .disband => Sys2Proof.Machine.execDisband s
  | .depdec d a => Sys2Proof.Machine.execDepdec d a s
  | .reside d => Sys2Proof.Machine.execReside d s
  | .bind d a b n => Sys2Proof.Machine.execBind d a b n s
  | .hold d a => Sys2Proof.Machine.execHold d a s
  | .fspill d a => Sys2Proof.Machine.execFspill d a s
  | .ffill d a => Sys2Proof.Machine.execFfill d a s
  | .ld t b st o => Sys2Proof.Machine.execLd t b st o s
  | .st t b st o => Sys2Proof.Machine.execSt t b st o s
  | .ldv t b o => Sys2Proof.Machine.execLdv t b o s
  | .stv t b o => Sys2Proof.Machine.execStv t b o s
  | .ldm t b o => Sys2Proof.Machine.execLdm t b o s
  | .stm t b o => Sys2Proof.Machine.execStm t b o s
  | .gath d a im t => Sys2Proof.Machine.execGath d a im t s
  | .scat st a im t => Sys2Proof.Machine.execScat st a im t s
  | .amo d a st u z o => Sys2Proof.Machine.execAmo d a st u z o s
  | .cas d a u z => Sys2Proof.Machine.execCas d a u z s
  | .fence e => Sys2Proof.Machine.execFence e s
  | .adv q e c => Sys2Proof.Machine.execAdv q e c s
  | .permit d a b => Sys2Proof.Machine.execPermit d a b s
  | .cpy st r d => Sys2Proof.Machine.execCpy st r d s
  | .cpyQ st r q => Sys2Proof.Machine.execCpyQ st r q s
  | .amsg d a b => Sys2Proof.Machine.execAmsg d a b s
  | .amsgP d a b => Sys2Proof.Machine.execAmsgP d a b s
  | .rstv st g n v => Sys2Proof.Machine.execRstv st g n v s
  | .rstvLaneRange st g l n v => Sys2Proof.Machine.execRstvLaneRange st g l n v s
  | .vadd d a b t => Sys2Proof.Machine.execVadd d a b t s
  | .vsub d a b t => Sys2Proof.Machine.execVsub d a b t s
  | .vmul d a b t => Sys2Proof.Machine.execVmul d a b t s
  | .vfma d a b t => Sys2Proof.Machine.execVfma d a b t s
  | .vmin d a b t => Sys2Proof.Machine.execVmin d a b t s
  | .vmax d a b t => Sys2Proof.Machine.execVmax d a b t s
  | .vabs d a t => Sys2Proof.Machine.execVabs d a t s
  | .vsel d a b t => Sys2Proof.Machine.execVsel d a b t s
  | .vmov d a t => Sys2Proof.Machine.execVmov d a t s
  | .vbit d a b t => Sys2Proof.Machine.execVbit d a b t s
  | .vperm d a b t => Sys2Proof.Machine.execVperm d a b t s
  | .vtrn d a t => Sys2Proof.Machine.execVtrn d a t s
  | .vbcast d a t => Sys2Proof.Machine.execVbcast d a t s
  | .vidx d a t => Sys2Proof.Machine.execVidx d a t s
  | .vred d a t => Sys2Proof.Machine.execVred d a t s
  | .vdot d a b t => Sys2Proof.Machine.execVdot d a b t s
  | .vcvt d a e st => Sys2Proof.Machine.execVcvt d a e st s
  | .vcmp d a b x c y z t => Sys2Proof.Machine.execVcmp d a b x c y z t s
  | .vrcp d a t => Sys2Proof.Machine.execVrcp d a t s
  | .vrsq d a t => Sys2Proof.Machine.execVrsq d a t s
  | .vexp2 d a t => Sys2Proof.Machine.execVexp2 d a t s
  | .vlog2 d a t => Sys2Proof.Machine.execVlog2 d a t s
  | .vsin d a t => Sys2Proof.Machine.execVsin d a t s
  | .vtanh d a t => Sys2Proof.Machine.execVtanh d a t s
  | .madd d a b t => Sys2Proof.Machine.execMadd d a b t s
  | .msub d a b t => Sys2Proof.Machine.execMsub d a b t s
  | .mmul d a b t => Sys2Proof.Machine.execMmul d a b t s
  | .mfma d a b t => Sys2Proof.Machine.execMfma d a b t s
  | .mscl d a b t => Sys2Proof.Machine.execMscl d a b t s
  | .msq d a t => Sys2Proof.Machine.execMsq d a t s
  | .mrelu d a t => Sys2Proof.Machine.execMrelu d a t s
  | .mexp d a t => Sys2Proof.Machine.execMexp d a t s
  | .msigm d a t => Sys2Proof.Machine.execMsigm d a t s
  | .mset d a b t => Sys2Proof.Machine.execMset d a b t s
  | .mcoll d a f k t => Sys2Proof.Machine.execMcoll d a f k t s
  | .lmbind st r g f t => Sys2Proof.Machine.execLmbind st r g f t s
  | .lmbindUnbind st r g f t => Sys2Proof.Machine.execLmbindUnbind st r g f t s
  | .lmrun st r g t => Sys2Proof.Machine.execLmrun st r g t s
  | .lmmom st r g => Sys2Proof.Machine.execLmmom st r g s
  | .lmzero st r g t => Sys2Proof.Machine.execLmzero st r g t s
  | .lmdrn st r g e t => Sys2Proof.Machine.execLmdrn st r g e t s
  | .lmdrnV st r g e => Sys2Proof.Machine.execLmdrnV st r g e s
  | .lmsclOn st r g t => Sys2Proof.Machine.execLmsclOn st r g t s
  | .lmsclOff st r g t => Sys2Proof.Machine.execLmsclOff st r g t s
  | .lmchk st r g t => Sys2Proof.Machine.execLmchk st r g t s
  | .lmcb st r g t => Sys2Proof.Machine.execLmcb st r g t s
  | .lmwt st r g t => Sys2Proof.Machine.execLmwt st r g t s
  | .lmfrzOn st r g t => Sys2Proof.Machine.execLmfrzOn st r g t s
  | .lmfrzOff st r g t => Sys2Proof.Machine.execLmfrzOff st r g t s
  | .ckacc d a => Sys2Proof.Machine.execCkacc d a s
  | .cktst x y b => Sys2Proof.Machine.execCktst x y b s
  | .mfs d n => Sys2Proof.Machine.execMfs d n s
  | .mts a n => Sys2Proof.Machine.execMts a n s
  | .trap a => Sys2Proof.Machine.execTrap a s
  | .eret => Sys2Proof.Machine.execEret s
  | .xinv a b v => Sys2Proof.Machine.execXinv a b v s
  | .cmoI => Sys2Proof.Machine.execCmoI s
  | .cmoDrop a => Sys2Proof.Machine.execCmoDrop a s
  | .cmoPf a => Sys2Proof.Machine.execCmoPf a s
  | .nop => Sys2Proof.Machine.execNop s
  | .spillWriteAck ck => Sys2Proof.Machine.execSpillWriteAck ck s
  | .lateWriteLands k => Sys2Proof.Machine.execLateWriteLands k s
  | .translationDone ck space va => Sys2Proof.Machine.execTranslationDone ck space va s
  | .hbmFillReturn pa ddom eligible streaming => Sys2Proof.Machine.execHbmFillReturn pa ddom eligible streaming s
  | .combinerFlush k => Sys2Proof.Machine.execCombinerFlush k s
  | .comBatchApply key => Sys2Proof.Machine.execComBatchApply key s
  | .ptsTick ck c => Sys2Proof.Machine.execPtsTick ck c s
  | .wcntIdleTick ck c => Sys2Proof.Machine.execWcntIdleTick ck c s
  | .overlongHoldWait ck c => Sys2Proof.Machine.execOverlongHoldWait ck c s
  | .taskDispatch ck => Sys2Proof.Machine.execTaskDispatch ck s
  | .stagingStart ck => Sys2Proof.Machine.execStagingStart ck s
  | .tilePushLanded ck slot arg => Sys2Proof.Machine.execTilePushLanded ck slot arg s
  | .outputWriteBackDone ck slot => Sys2Proof.Machine.execOutputWriteBackDone ck slot s
  | .wakeWaiters ck slot => Sys2Proof.Machine.execWakeWaiters ck slot s
  | .copyComplete id => Sys2Proof.Machine.execCopyComplete id s
  | .engineJobComplete id => Sys2Proof.Machine.execEngineJobComplete id s
  | .queueSlotLanding id => Sys2Proof.Machine.execQueueSlotLanding id s
  | .loomPieceStart ck => Sys2Proof.Machine.execLoomPieceStart ck s
  | .loomCommandComplete ck c => Sys2Proof.Machine.execLoomCommandComplete ck c s
  | .loomFreezeDone ck => Sys2Proof.Machine.execLoomFreezeDone ck s
  | .placerTask die => Sys2Proof.Machine.execPlacerTask die s
  | .taskPlacement p => Sys2Proof.Machine.execTaskPlacement p s
  | .launchQueueDrain die => Sys2Proof.Machine.execLaunchQueueDrain die s
  | .launchRelease die k => Sys2Proof.Machine.execLaunchRelease die k s
  | .sweepStart die k => Sys2Proof.Machine.execSweepStart die k s
  | .sweep die k => Sys2Proof.Machine.execSweep die k s
  | .sweepResult die k => Sys2Proof.Machine.execSweepResult die k s
  | .phaseBarrierPass die k => Sys2Proof.Machine.execPhaseBarrierPass die k s
  | .keptEntryScan ck => Sys2Proof.Machine.execKeptEntryScan ck s
  | .cancelScanStep ck => Sys2Proof.Machine.execCancelScanStep ck s
  | .balancerCheck die => Sys2Proof.Machine.execBalancerCheck die s
  | .migrationCopyDone ck slot => Sys2Proof.Machine.execMigrationCopyDone ck slot s
  | .forwardingEntryExpiry ck k => Sys2Proof.Machine.execForwardingEntryExpiry ck k s
  | .remoteLoad p => Sys2Proof.Machine.execRemoteLoad p s
  | .remoteStore p => Sys2Proof.Machine.execRemoteStore p s
  | .remoteAmo p => Sys2Proof.Machine.execRemoteAmo p s
  | .remoteCas p => Sys2Proof.Machine.execRemoteCas p s
  | .answer p => Sys2Proof.Machine.execAnswer p s
  | .remoteTouch p => Sys2Proof.Machine.execRemoteTouch p s
  | .remoteResolve p => Sys2Proof.Machine.execRemoteResolve p s
  | .remotePoison p => Sys2Proof.Machine.execRemotePoison p s
  | .remoteCancel p => Sys2Proof.Machine.execRemoteCancel p s
  | .remoteDepdec p => Sys2Proof.Machine.execRemoteDepdec p s
  | .remoteFspill p => Sys2Proof.Machine.execRemoteFspill p s
  | .remoteFfill p => Sys2Proof.Machine.execRemoteFfill p s
  | .remoteWake p => Sys2Proof.Machine.execRemoteWake p s
  | .rstvStore p => Sys2Proof.Machine.execRstvStore p s
  | .channelDelivery p => Sys2Proof.Machine.execChannelDelivery p s
  | .activationCreate ck space ch => Sys2Proof.Machine.execActivationCreate ck space ch s
  | .entryAddressMessage p => Sys2Proof.Machine.execEntryAddressMessage p s
  | .lcmdCreateJob die lca lcb => Sys2Proof.Machine.execLcmdCreateJob die lca lcb s
  | .lcmdOpenPhase die lca lcb => Sys2Proof.Machine.execLcmdOpenPhase die lca lcb s
  | .lcmdCloseJob die lca lcb => Sys2Proof.Machine.execLcmdCloseJob die lca lcb s
  | .asplitWrite ck v => Sys2Proof.Machine.execAsplitWrite ck v s
  | .asplitApply ck => Sys2Proof.Machine.execAsplitApply ck s
  | .lpoolWrite ck v => Sys2Proof.Machine.execLpoolWrite ck v s
  | .ebstatClear bank v => Sys2Proof.Machine.execEbstatClear bank v s
  | .l2CounterClear die off v => Sys2Proof.Machine.execL2CounterClear die off v s
  | .deviceRegisterWrite pa v => Sys2Proof.Machine.execDeviceRegisterWrite pa v s
  | .msixVectorSend io vec v => Sys2Proof.Machine.execMsixVectorSend io vec v s
  | .booteWrite v => Sys2Proof.Machine.execBooteWrite v s
  | .filterConsumerWrite io f v => Sys2Proof.Machine.execFilterConsumerWrite io f v s
  | .hostMessageWrite port off len data => Sys2Proof.Machine.execHostMessageWrite port off len data s
  | .hostMemoryAccess port va len write data => Sys2Proof.Machine.execHostMemoryAccess port va len write data s
  | .chronographFrame port fcs bytes sec ns => Sys2Proof.Machine.execChronographFrame port fcs bytes sec ns s
  | .ptpMessage port ns => Sys2Proof.Machine.execPtpMessage port ns s
  | .fabricHeaderError k => Sys2Proof.Machine.execFabricHeaderError k s
  | .endToEndTimeout k => Sys2Proof.Machine.execEndToEndTimeout k s
  | .linkMarginLoss port low high => Sys2Proof.Machine.execLinkMarginLoss port low high s
  | .moduleFailureMark m => Sys2Proof.Machine.execModuleFailureMark m s
  | .correctedErrorWindow ck errors => Sys2Proof.Machine.execCorrectedErrorWindow ck errors s
  | .patrolScrub pa uncorrectable => Sys2Proof.Machine.execPatrolScrub pa uncorrectable s
  | .clusterRetest ck state volts => Sys2Proof.Machine.execClusterRetest ck state volts s
  | .powerOn imageOk => Sys2Proof.Machine.execPowerOn imageOk s
  | .resetRequest imageOk => Sys2Proof.Machine.execResetRequest imageOk s
  | .unassignedInstructionWord w => Sys2Proof.Machine.execUnassignedInstructionWord w s
  | .killMessage space code => Sys2Proof.Machine.execKillMessage space code s
  | .qntQuantumWrite loc quantum => Sys2Proof.Machine.execQntQuantumWrite loc quantum s
  | .jobReadPassDone id => Sys2Proof.Machine.execJobReadPassDone id s
  | .contextSwitch ck c space => Sys2Proof.Machine.execContextSwitch ck c space s

end Sys2Proof.Machine
end

