-- ==== Sys2Proof/Machine/Schedule.lean ====
section
/-! DEFINITION. What moves when the schedule names nothing: the events that are due, in one fixed order (log entry
10). An event is due where it would change the state. -/

namespace Sys2Proof.Machine

/-- An event with its meaning. -/
structure Due where
  event : Instr
  run : State → Out

/-- Whether an event would change the state. -/
def Due.moves (d : Due) (s : State) : Bool :=
  match d.run s with
  | .next t => t != s
  | _ => false

/-- The event that takes a packet from the mesh at its target (R244, R245). -/
def packetEvent (p : Packet) : Due :=
  match p.msg.handler with
  | 1 => ⟨.remoteLoad p, execRemoteLoad p⟩
  | 2 => ⟨.remoteStore p, execRemoteStore p⟩
  | 3 => ⟨.remoteAmo p, execRemoteAmo p⟩
  | 4 => ⟨.remoteCas p, execRemoteCas p⟩
  | 7 => ⟨.answer p, execAnswer p⟩
  | 8 => ⟨.remoteTouch p, execRemoteTouch p⟩
  | 9 => ⟨.remoteResolve p, execRemoteResolve p⟩
  | 10 => ⟨.remotePoison p, execRemotePoison p⟩
  | 11 => ⟨.remoteCancel p, execRemoteCancel p⟩
  | 12 => ⟨.remoteDepdec p, execRemoteDepdec p⟩
  | 13 => ⟨.remoteFspill p, execRemoteFspill p⟩
  | 14 => ⟨.remoteFfill p, execRemoteFfill p⟩
  | 15 => ⟨.remoteWake p, execRemoteWake p⟩
  | 16 => ⟨.rstvStore p, execRstvStore p⟩
  | 24 => ⟨.taskPlacement p, execTaskPlacement p⟩
  | h => if h < 256 then ⟨.channelDelivery p, execChannelDelivery p⟩
    else ⟨.entryAddressMessage p, execEntryAddressMessage p⟩

/-- The events of engine jobs. -/
def jobEvents (j : Job) : List Due :=
  [⟨.jobReadPassDone j.id, execJobReadPassDone j.id⟩, ⟨.queueSlotLanding j.id, execQueueSlotLanding j.id⟩,
   ⟨.copyComplete j.id, execCopyComplete j.id⟩, ⟨.engineJobComplete j.id, execEngineJobComplete j.id⟩]

/-- The events of a cluster. -/
def clusterEvents (x : Nat × Cluster) : List Due :=
  let ck := x.1
  let c := x.2
  let when := fun (b : Bool) (d : Due) => if b then [d] else []
  when c.heddle.spilling.isSome ⟨.spillWriteAck ck, execSpillWriteAck ck⟩ ++
  (c.entries.filter (fun e => !e.2.toWake.isEmpty || !e.2.refill.isEmpty)).map (fun e => ⟨.wakeWaiters ck e.1, execWakeWaiters ck e.1⟩) ++
  c.tasks.flatMap (fun t =>
    (t.2.tiles.filter (fun y => t.2.staged && !y.done)).map
      (fun y => ⟨.tilePushLanded ck t.1 y.arg, execTilePushLanded ck t.1 y.arg⟩) ++
    when (t.2.st == .ending) ⟨.outputWriteBackDone ck t.1, execOutputWriteBackDone ck t.1⟩) ++
  c.ctxs.flatMap (fun y => (y.2.chans.filter (fun q => !q.2.isEmpty)).map
    (fun q => ⟨.activationCreate ck y.1 q.1, execActivationCreate ck y.1 q.1⟩)) ++
  when (c.tasks.any (fun t => t.2.st == .staging)) ⟨.stagingStart ck, execStagingStart ck⟩ ++
  when (c.tasks.any (fun t => t.2.st == .ready || t.2.st == .parkedPre)) ⟨.taskDispatch ck, execTaskDispatch ck⟩ ++
  c.incoming.map (fun m => ⟨.migrationCopyDone ck m.1, execMigrationCopyDone ck m.1⟩) ++
  when (!c.heddle.scans.isEmpty) ⟨.cancelScanStep ck, execCancelScanStep ck⟩ ++
  when (!c.heddle.kept.isEmpty) ⟨.keptEntryScan ck, execKeptEntryScan ck⟩ ++
  when c.asplitNext.isSome ⟨.asplitApply ck, execAsplitApply ck⟩

/-- The events of a cluster's loom. -/
def loomEvents (s : State) (ck : Nat) : List Due :=
  if (s.queuedCommands ck).isEmpty && (s.clusterAt ck).loom.freezing.isEmpty then []
  else
    (List.range 8).map (fun c => (⟨.loomCommandComplete ck c, execLoomCommandComplete ck c⟩ : Due)) ++
      [⟨.loomPieceStart ck, execLoomPieceStart ck⟩, ⟨.loomFreezeDone ck, execLoomFreezeDone ck⟩]

/-- The events of a die's queue and placer, and of sweeps under way. -/
def dieEvents (x : Nat × Die) : List Due :=
  let when := fun (b : Bool) (d : Due) => if b then [d] else []
  (x.2.launchQ.filter (·.held)).map (fun q => ⟨.launchRelease x.1 (hCluster q.handle), execLaunchRelease x.1 (hCluster q.handle)⟩) ++
  when (!x.2.launchQ.isEmpty) ⟨.placerTask x.1, execPlacerTask x.1⟩ ++
  x.2.waitingTasks.map (fun p => ⟨.taskPlacement p, execTaskPlacement p⟩) ++
  when (!x.2.spilled.isEmpty) ⟨.launchQueueDrain x.1, execLaunchQueueDrain x.1⟩ ++
  (x.2.ladder.filter (·.2.sweeping)).flatMap (fun r =>
    [⟨.sweep x.1 r.1, execSweep x.1 r.1⟩, ⟨.sweepResult x.1 r.1, execSweepResult x.1 r.1⟩]) ++
  (x.2.ladder.filter (fun r => r.2.kind == .phase && r.2.entered && !r.2.ended && r.2.modules == 1)).map (fun r =>
    ⟨.phaseBarrierPass x.1 r.1, execPhaseBarrierPass x.1 r.1⟩)

/-- Overlong hold-waits: cores that wait with no budget left (R104). -/
def waitEvents (s : State) : List Due :=
  let one := fun (k : Nat) (c : Core) => if c.running.isSome && c.waiting && c.wcnt == 0 then
    [(⟨.overlongHoldWait (k / 8) (k % 8), execOverlongHoldWait (k / 8) (k % 8)⟩ : Due)] else []
  one s.cur s.core ++ (s.cores.filter (fun c => c.1 != s.cur)).flatMap (fun c => one c.1 c.2)

/-- The cores that run a task, by number. -/
def State.runningCores (s : State) : List Nat :=
  let others := (s.cores.filter (fun c => c.1 != s.cur && c.2.running.isSome)).map (·.1)
  others.filter (· < s.cur) ++ (if s.core.running.isSome then [s.cur] else []) ++ others.filter (s.cur < ·)

/-- The one of a list whose turn it is. -/
def inTurns {α : Type} (n : Nat) (l : List α) : List α := ((l.drop (n % l.length)).take 1)

/-- What the passing of time brings, by the count of steps: sweeps, the balancers' checks, the end of forwarding entries,
the count of a wait (R102, R109, R111, R114). -/
def timedEvents (s : State) : List Due :=
  let at' := fun (n : Nat) => s.cycle / 8 % 128 == n % 128
  let waits := (s.runningCores.filter (fun k => (s.coreAt k).waiting)).map fun k =>
    (⟨.wcntIdleTick (k / 8) (k % 8), execWcntIdleTick (k / 8) (k % 8)⟩ : Due)
  s.clusters.flatMap (fun c => (c.2.fwd.filter (fun f => decide (f.2.since + 18000 ≤ s.cycle))).map
    (fun f => ⟨.forwardingEntryExpiry c.1 f.1, execForwardingEntryExpiry c.1 f.1⟩)) ++
  s.dies.flatMap (fun d => (d.2.ladder.filter (fun r => r.2.kind == .launch && !r.2.ended && !r.2.standing && at' r.1)).map
    (fun r => ⟨.sweepStart d.1 r.1, execSweepStart d.1 r.1⟩)) ++
  ((List.range 16).filter (fun d => at' (112 + d))).map (fun d => ⟨.balancerCheck d, execBalancerCheck d⟩) ++
  inTurns (s.cycle / 8) waits

/-- The agents whose logical time goes on by itself: cores that run a task, heddles that have one, placers and the ports
(R161, R162), as PTS_TICK names them. -/
def State.agents (s : State) : List (Nat × Nat) :=
  s.runningCores.map (fun k => (k / 8, k % 8)) ++
    (s.clusters.filter (fun c => c.2.tasks.any (·.2.st != .free))).map (fun c => (c.1, 8)) ++
    s.dies.map (fun d => (d.1 * 4096 + 4095, 0)) ++
    [(16 * 4096 + 4095, 0), (17 * 4096 + 4095, 1), (16 * 4096 + 4095, 2), (17 * 4096 + 4095, 3)]

/-- Logical time goes on by itself, for one agent after the other, once in 72 steps, so that the turns of other events are not
always those of a tick (R162; log entry 11). -/
def tickEvents (s : State) : List Due :=
  if s.cycle % 72 != 35 then []
  else inTurns (s.cycle / 72) (s.agents.map fun a => (⟨.ptsTick a.1 a.2, execPtsTick a.1 a.2⟩ : Due))

/-- Every event that may be due, in order. -/
def dueEvents (s : State) : List Due :=
  tickEvents s ++ waitEvents s ++
  (s.pod.late.zipIdx.filter (fun l => l.1.ready)).map (fun l => ⟨.lateWriteLands l.2, execLateWriteLands l.2⟩) ++
  (s.pod.net.filter (fun p => !behind s p)).map packetEvent ++
  s.pod.jobs.flatMap jobEvents ++
  [0, 1].flatMap (fun port => if s.io.hostQueue.any (·.1 == port) then
    [(⟨.hostMemoryAccess port 0 0 false 0, execHostMemoryAccess port 0 0 false 0⟩ : Due)] else []) ++
  (let looms := s.clusters.flatMap (fun c => loomEvents s c.1)
   let clusters := s.clusters.flatMap clusterEvents
   let dies := s.dies.flatMap dieEvents
   let heddles := if s.cycle / 64 % 4 = 3 then clusters ++ dies else dies ++ clusters
   if s.cycle / 8 % 2 = 0 then looms ++ heddles else heddles ++ looms) ++
  (s.pod.com.zipIdx.filter (fun p => p.1.held)).map (fun p => ⟨.combinerFlush p.2, execCombinerFlush p.2⟩) ++
  (s.pod.com.filter (fun p => !p.held)).map (fun p => ⟨.comBatchApply p.key, execComBatchApply p.key⟩) ++
  s.pod.qnt.map (fun p => ⟨.qntQuantumWrite p.key p.quantum, execQntQuantumWrite p.key p.quantum⟩) ++
  timedEvents s

/-- The first event that is due. -/
def due (s : State) : Option Instr := ((dueEvents s).find? (fun d => d.moves s)).map (·.event)

end Sys2Proof.Machine
end

