-- ==== Sys2Proof/Machine/Issue.lean ====
section
/-! DEFINITION. How a step goes: a core issues one unit (R102, R122, R267, R285), or something else of the module moves
(log entry 10). The meaning of an instruction is an argument here, so that this file stands before `exec`. -/

namespace Sys2Proof.Machine

/-- Put something behind the next state of an outcome. -/
def afterNext (f : State → State) : Out → Out
  | .next t => .next (f t)
  | o => o

/-- A read of a vector operand reads a filled slot of a queue: the current core's access to that slot's line comes after the
landing (R126, R153, R162). -/
def readSlot (off spec : Nat) (s : State) (k : Nat) : State :=
  let q := (s.coreAt k).q (spec - 24)
  match q.region with
  | some r => if 24 ≤ spec ∧ off < q.n then
      agentGet s (some s.cur) s.ck s.core.space (slotKey (k / 8) r (q.head + off)) 64 else s
  | none => s

/-- The queues that a unit takes its operands from are named by it: their rings are reserved on every member (R127), and the
slots are read; none where the pool is full. -/
def reserveSources (s : State) (i : Instr) : Option State :=
  let heads := match i with
    | .adv q _ _ => [q.toNat]
    | _ => []
  ((s.vectorSources i ++ heads).foldl (fun o q => o.bind (fun s => reserveMembers s q s.members)) (some s)).map fun s =>
    (s.vectorSources i).foldl (fun t q => s.members.foldl (readSlot (headOff s i) q) t) s

/-- Run a unit that is enabled, with no early condition: WDOG, then UE, then its meaning (R267). A unit that waits is
not issued, whatever WCNT holds (R103). -/
def runUnit (ex : Instr → State → Out) (w : Nat) (g : Option Nat) (i : Instr) (s0 : State) : Out :=
  match reserveSources s0 i with
  | none => .next (unissue w s0.wait)
  | some s =>
  let o := afterNext (unissue w) (ex i (handleFails s g i))
  let waits := match o with
    | .next t => t.core.waiting
    | _ => false
  if wdog s i && !waits then .next (takeWdog s)
  else
    match ueOf s g i with
    | some (some k, v) => .next (trapMember s k 16 v)
    | some (none, v) => .next (trap s 16 v)
    | none => o

/-- The current core issues the unit at its pc (R285): its meaning for ILLEGAL and PRIV also under a false guard (R122),
a wait for its registers, under a false guard nothing but the read of the guard (R273), else the unit runs. -/
def issueWith (ex : Instr → State → Out) (s : State) : Out :=
  match fetchUnit s with
  | (.trap c v, s0) => .next (fetchTrap s0 c v)
  | (.unit u g i, s0) =>
    let s1 := issueState s0 u
    if hazard s1 g i then .next (unissue s.core.wcnt s1.wait)
    else if (early i s1).isSome then ex i s1
    else if enabled s1 g then runUnit ex s.core.wcnt g i s1
    else .next (handleFails s1 g .nop).adv

/-- Every core tries again. -/
def clearWaiting (s : State) : State :=
  { s with core := { s.core with waiting := false }
           cores := s.cores.map (fun c => (c.1, { c.2 with waiting := false })) }

/-- A core other than the current one that runs a task and does not wait: the next one in number, in rotation. -/
def nextCore (s : State) : Option Nat :=
  let ok := (s.cores.filter (fun c => c.1 != s.cur && c.2.running.isSome && !c.2.waiting)).map (·.1)
  match ok.find? (fun k => decide (s.cur < k)) with
  | some k => some k
  | none => ok.head?

/-- What moves beside the current core (R102): an event that is due or another core, in turns; else the current core, or
time for its wait. -/
def background (ex : Instr → State → Out) (s : State) : Out :=
  match if s.cycle % 8 < 4 then none else nextCore s with
  | some k => issueWith ex (s.select k)
  | none =>
    match due s with
    | some e => ex e (clearWaiting s)
    | none =>
      match nextCore s with
      | some k => issueWith ex (s.select k)
      | none =>
        if s.core.running.isNone then .next s
        else if s.core.waiting then ex (.wcntIdleTick s.ck (s.cur % 8)) (clearWaiting s)
        else issueWith ex s

/-- Whether an event brings a module up (R282). -/
def isReset : Instr → Bool
  | .powerOn _ | .resetRequest _ => true
  | _ => false

/-- One step of the module: what the schedule names, else a kill on its way (R275), else the current core, and in every
fourth step, or where that core has nothing to issue, what is in the background (log entry 10). A module that is down
takes a reset only (R282). -/
def stepWith (ex : Instr → State → Out) (s : State) : Out :=
  let s1 := { s with cycle := s.cycle + 1 }
  match s1.moves with
  | .event e :: ms => if s.down && !isReset e then .fault .awaitingReset else ex e { s1 with moves := ms }
  | .core k :: ms =>
    let s2 := ({ s1 with moves := ms } : State).select k
    if s.down then .fault .awaitingReset
    else if s2.core.running.isSome then issueWith ex s2
    else .next s2
  | [] =>
    if s.down then .fault .awaitingReset
    else
      match s1.pod.kills with
      | k :: _ => ex (.killMessage k.1 k.2.1) s1
      | [] =>
        if s1.core.running.isSome && !s1.core.waiting && s1.cycle % 4 != 3 then issueWith ex s1 else background ex s1

end Sys2Proof.Machine
end

