-- ==== Sys2Proof/Machine/Step.lean ====
section
/-! DEFINITION. The step of the machine, and the state in which a word is the next instruction. -/

namespace Sys2Proof.Machine

/-- One step of the module. -/
def step (s : State) : Host.Outcome State Fault Refusal := stepWith exec s

/-- A state whose current core runs a task: a core without one is given the first slot's task, in the supervisor's
context and mode, at the first address behind the 4 MiB that R283 keeps clear, as the host's load of an image and its
first message would leave it (R282; log entry 14). -/
def State.withTask (s : State) : State :=
  if s.core.running.isSome then s
  else
    let c := s.cluster
    let e : Entry := { st := .empty, gen := 1, count := 1, task := true }
    let t : Task := { st := .running, entry := 0x400000, pc := 0x400000, cls := 1, started := true, priv := true }
    let cl : Cluster := { c with entries := mput c.entries 0 e, tasks := mput c.tasks 0 t }
    let core : Core := { s.core with running := some 0, priv := true, pc := 0x400000, space := 0, waiting := false }
    { s.putCluster s.ck cl with core := core }

/-- The word stored where the next step fetches, in a state whose schedule names the current core. The table gives every
row 32 bits or none, and no instruction is longer. -/
def State.withFetchWord (s : State) (_nbits w : Nat) : State :=
  let s1 := s.withTask
  let s2 : State := { s1 with moves := [.core s1.cur], down := false, core := { s1.core with oldCode := [] } }
  match (resolve s2 s2.ck s2.core.space s2.core.pc 4 .load).1 with
  | .ok t _ =>
    match t.key? with
    | some k => { s2.writeBytes k (wordBytes w) with bad := s2.bad.filter (fun g => g != k / 8) }
    | none => s2
  | .trap _ _ => s2

end Sys2Proof.Machine
end

