-- ==== Sys2Proof/Safety.lean ====
section
/-! DEFINITION. The words that statements about the machine are made of: what an instruction wrote and what it left
alone, the results of the scalar instructions, what a taken trap leaves, when a handler can be entered. -/

namespace Sys2Proof.Machine

/-- The invariant of a state: the canonical form of memory. -/
abbrev State.memOk (s : State) : Prop := s.mem.wf

/-- A step that stops with neither a fault nor a refusal. -/
def goesOn (s : State) : Prop := ∃ t, step s = .next t

/-- Every byte of memory outside n bytes from key k reads as before. -/
def bytesKeptBut (s t : State) (k n : Nat) : Prop := ∀ j, j < k ∨ k + n ≤ j → t.byteAt j = s.byteAt j

/-- Every byte of memory reads as before. -/
def bytesKept (s t : State) : Prop := ∀ j, t.byteAt j = s.byteAt j

/-- Every logical register but one reads as before. -/
def registersKeptBut (s t : State) (l : Nat) : Prop :=
  ∀ j, j % 128 ≠ l % 128 → t.core.logical j = s.core.logical j

/-- Control goes on behind the unit (R284). -/
def wentOn (s t : State) : Prop := t.core.pc = s.core.unit.here + 4

/-- Two states that differ at most in what caches hold: L1 lines, line times and error banks of clusters, translations, L2
lines and error banks of dies. -/
structure Calm (s t : State) : Prop where
  eq : t = { s with clusters := t.clusters, dies := t.dies }
  clusters : ∀ k, t.clusterAt k = { s.clusterAt k with
    l1 := (t.clusterAt k).l1, times := (t.clusterAt k).times, bank := (t.clusterAt k).bank }
  dies : ∀ d, t.dieAt d = { s.dieAt d with
    stations := (t.dieAt d).stations, llc := (t.dieAt d).llc, l2 := (t.dieAt d).l2, bank := (t.dieAt d).bank }

/-- What accesses that only read leave: caches, line times and error banks, the logical time of the current core, and the
answers of other homes that its unit had received and used (R142, R151, R154, R162, R168). -/
structure Touched (s t : State) : Prop where
  frame : t = { s with
    core := { s.core with pts := t.core.pts, answers := t.core.answers, asked := t.core.asked }
    clusters := t.clusters, dies := t.dies }
  calm : Calm { s with core := t.core } t

/-- What stores of the current core leave: the same, bytes of memory and their error marks, and the old instruction words
that the cores may still fetch (R165, R242, R284, R334). -/
structure Stored (s t : State) : Prop where
  frame : t = { s with
    core := { s.core with pts := t.core.pts, oldCode := t.core.oldCode }
    cores := t.cores, clusters := t.clusters, dies := t.dies, mem := t.mem, bad := t.bad }
  cores : ∀ k, k ≠ s.cur → t.coreAt k = { s.coreAt k with oldCode := (t.coreAt k).oldCode }
  calm : Calm { s with core := t.core, cores := t.cores, mem := t.mem, bad := t.bad } t

/-- What an instruction whose one effect is to write general register d leaves: the value, the other registers, the pc
behind the unit, the error marks and the failure statuses of the other registers, all of memory, and everything else of
the state. -/
structure WroteGeneral (s t : State) (d : BitVec 5) (v : Word) : Prop where
  value : t.x d = v
  others : registersKeptBut s t (s.core.b + d.toNat)
  pc : wentOn s t
  marks : ∀ p, p ∈ t.core.gmarks ↔ p ∈ s.core.gmarks ∧ p.1 ≠ s.core.b + d.toNat
  fails : t.core.fails = s.core.fails.map fun f => if f.1 = some (s.core.b + d.toNat) then (none, f.2) else f
  bytes : bytesKept s t
  frame : t = { s with core := { s.core with
    regs := t.core.regs, gmarks := t.core.gmarks, fails := t.core.fails, pc := t.core.pc } }

/-- The immediate of a unit: the instruction's field behind the payloads of the WIDE hints before it, sign-extended as
one number (R21, R288). -/
def State.immBits {n : Nat} (s : State) (i : BitVec n) : Word :=
  match s.core.unit.wides with
  | 0 => i.signExtend 64
  | 1 => (BitVec.ofNat 22 s.core.unit.wide ++ i).signExtend 64
  | _ => (BitVec.ofNat 44 s.core.unit.wide ++ i).signExtend 64

/-- The destination and the result of each scalar instruction that only computes (R314, R315, R321, R322, R333, R360,
R378, R387, R388, R396, R398, R402, R411, R412, R417, R437). -/
def scalarResult (s : State) : Instr → Option (BitVec 5 × Word)
  | .add d a b => some (d, s.x a + s.x b)
  | .sub d a b => some (d, s.x a - s.x b)
  | .mul d a b => some (d, s.x a * s.x b)
  | .mulh d a b => some (d, ((s.x a).signExtend 128 * (s.x b).signExtend 128).extractLsb' 64 64)
  | .and d a b => some (d, s.x a &&& s.x b)
  | .or d a b => some (d, s.x a ||| s.x b)
  | .xor d a b => some (d, s.x a ^^^ s.x b)
  | .shl d a b => some (d, s.x a <<< (s.x b).extractLsb' 0 6)
  | .shr d a b => some (d, s.x a >>> (s.x b).extractLsb' 0 6)
  | .sha d a b => some (d, (s.x a).sshiftRight' ((s.x b).extractLsb' 0 6))
  | .min d a b => some (d, if (s.x b).slt (s.x a) then s.x b else s.x a)
  | .max d a b => some (d, if (s.x a).slt (s.x b) then s.x b else s.x a)
  | .sel d a b c => some (d, if (s.x c).getLsbD 0 then s.x a else s.x b)
  | .mov d a => some (d, s.x a)
  | .clz d a => some (d, (s.x a).clz)
  | .popc d a => some (d, (s.x a).cpop)
  | .lea d a b k => some (d, s.x a + (s.x b) * 2 ^ k.toNat)
  | .addi d a i => some (d, s.x a + s.immBits i)
  | .andi d a i => some (d, s.x a &&& s.immBits i)
  | .ori d a i => some (d, s.x a ||| s.immBits i)
  | .movi d i => some (d, s.immBits i)
  | _ => none

/-- The conditions of CMP on two words, by code (R298). -/
def wordCondition (c : BitVec 5) (x y : Word) : Bool :=
  match c.toNat with
  | 0 => x == y
  | 1 => x != y
  | 2 => x.slt y
  | 3 => x.sle y
  | 4 => y.slt x
  | 5 => y.sle x
  | 6 => x.ult y
  | 7 => x.ule y
  | 8 => y.ult x
  | _ => y.ule x

/-- The core stands alone: it leads no gang and has taken no core for one. -/
def State.alone (s : State) : Prop :=
  s.core.gang.standing = false ∧ s.core.gang.save = none ∧ followersOf s s.cur = []

/-- A handler can be entered without a window transfer: TBASE was written and is not 0, and the window has room (R265,
R451). -/
def State.handlerReady (s : State) : Prop :=
  s.core.trap.written = true ∧ s.core.trap.base ≠ 0 ∧ s.core.b + 40 ≤ s.core.f + 128

/-- What taking a trap leaves (R265, R266, R270): TCAUSE, TPC, TVAL, the mode, the window base and the pc; the
registers and memory are kept, and on a core that stands alone everything else. -/
structure TookTrap (s t : State) (cause : Nat) (tval : Word) : Prop where
  status : t.core.trap.cause = BitVec.ofNat 64 (cause + if s.core.priv then 256 else 0)
  saved : t.core.trap.pc = s.core.unit.base
  value : t.core.trap.value = tval
  mode : t.core.priv = true
  window : t.core.b = s.core.b + 8
  pc : t.core.pc = s.core.trap.base + BitVec.ofNat 64 (64 * cause)
  base : t.core.trap.base = s.core.trap.base
  depth : t.core.trap.depth = s.core.trap.depth + 1
  registers : ∀ l, t.core.logical l = s.core.logical l
  bytes : bytesKept s t
  frame : s.alone → t = { s with core := { s.core with
    trap := t.core.trap, priv := true, b := t.core.b, pc := t.core.pc, wcnt := t.core.wcnt, vectoring := true,
    waiting := false } }

/-- The task in a slot ended with a state, a value and a fill time (R28, R57, R65, R171): its core runs nothing, its slot is
free, and where its EMPTY future is its own, unended and without a refill queue, that is filled, with every byte outside the
cluster's array and the task's record as before. -/
structure EndedTask (s t : State) (slot : Nat) (st : FState) (v : Word) (time : Nat) : Prop where
  left : t.core.running = none
  gone : (t.cluster.task slot).st = .free
  filled : (s.cluster.task slot).visible = true → (s.cluster.task slot).moved = false →
    (s.cluster.entry slot).st = .empty → (s.cluster.entry slot).consumed = false →
    (s.cluster.entry slot).ended = false → (s.cluster.entry slot).refill = [] → (s.cluster.entry slot).ue = false →
    (t.cluster.entry slot).st = st ∧ (t.cluster.entry slot).value = v ∧ (t.cluster.entry slot).fillTime = time ∧
    ∀ k, (k < arrayKey s.ck 0 ∨ arrayKey s.ck 262144 ≤ k) →
      (k < parkKey s s.ck (s.cluster.task slot).space slot ∨ parkKey s s.ck (s.cluster.task slot).space slot + 64 ≤ k) →
      t.byteAt k = s.byteAt k

/-- The mode, window, trap, mode and gang registers of the current core, its loom, its holds and its task stay. -/
structure KeptSpecial (s t : State) : Prop where
  base : t.core.b = s.core.b
  floor : t.core.f = s.core.f
  mode : t.core.priv = s.core.priv
  task : t.core.running = s.core.running
  trap : t.core.trap = s.core.trap
  modes : t.core.modes = s.core.modes
  loom : t.core.loom = s.core.loom
  holds : t.core.holds = s.core.holds
  gang : t.core.gang = s.core.gang

/-- Those, and the vector registers, moment registers and queues of the current core. -/
structure Kept (s t : State) : Prop extends KeptSpecial s t where
  vectors : t.core.vregs = s.core.vregs
  moments : t.core.mregs = s.core.mregs
  queues : t.core.queues = s.core.queues

/-- The state with control at another address, and nothing else changed. -/
def State.at (s : State) (a : Word) : State := { s with core := { s.core with pc := a } }

/-- The value a load of n bytes finds at a home of this module (R165, R166): the bytes of the cluster's L1 copy where one
stands under a lease that covers the load's time, else the bytes at the home. -/
def State.loadValue (s : State) (va key n leaf : Nat) : Nat :=
  match s.l1Hit va key leaf with
  | some x => leNat ((x.data.drop (va % 128)).take n)
  | none => s.readN key n

/-- A load of n bytes meets no uncorrectable error: at its home, or in the L1 copy that it hits (R268, R272). -/
def State.soundFor (s : State) (va key n leaf : Nat) : Prop := s.marked key n = false ∧ s.badCopy va key leaf = false

/-- A .spec atomic meets no uncorrectable error: in the cluster's L1 copy where there is one, else at its home (R181, R272). -/
def State.specSound (s : State) (va key n leaf : Nat) : Prop :=
  (match (if key < 2 ^ 40 && leafL1 leaf then s.cluster.l1? s.core.space va else none) with
    | some x => x.ue
    | none => s.marked key n) = false

/-- The address of a load or store: the base register and the scaled offset (R288). -/
def State.fmAddress (s : State) (b : BitVec 5) (o : BitVec 14) (scale : Nat) : Word :=
  s.x b + BitVec.ofNat 64 scale * s.immBits o

/-- An access of the current core passes its checks and reaches memory of this module at a key (R137, R146, R148). -/
def State.reaches (s s1 : State) (a : Word) (n : Nat) (kind : AccKind) (t : Target) (leaf key : Nat) : Prop :=
  resolve s s.ck s.core.space a n kind = (.ok t leaf, s1) ∧ t.key? = some key

/-- The current task has no access under way at another module that a further one must wait for (R163, R168, R178). -/
def State.ordered (s : State) : Prop := ∀ use ps, orderWaits s use ps = false

/-- A packet left with the next number: over the mesh of the module, or to the fabric, where a copy of it is kept until it
arrives (R252 to R254, R257). -/
def State.left (s t : State) (p : Packet) : Prop :=
  p.seq = s.pod.sent ∧ t.pod.sent = s.pod.sent + 1 ∧
    if p.dstModule = s.pod.module then
      t.pod.net = s.pod.net ++ [p] ∧ t.pod.fabric = s.pod.fabric ∧ t.pod.unacked = s.pod.unacked
    else t.pod.net = s.pod.net ∧ t.pod.unacked = s.pod.unacked ++ [p] ∧ t.pod.fabric = s.launchPacket p

/-- A request of the current task left for another module: its handler, the address and the number of bytes (R168,
R244, R252). -/
def askedFor (s t : State) (handler m va n : Nat) : Prop :=
  ∃ p : Packet, p.msg.handler = handler ∧ p.dstModule = m ∧ p.msg.w0 = BitVec.ofNat 64 va ∧
    p.msg.w1 = BitVec.ofNat 64 n ∧ p.src = s.ck ∧ s.left t p

/-- A value is still to land in register d of the running task (R313). -/
def landsLater (s t : State) (d : BitVec 5) : Prop :=
  ∃ l : Late, t.pod.late = s.pod.late ++ [l] ∧ l.dst.reg = s.core.b + d.toNat ∧ l.ready = false ∧
    some l.dst.slot = s.core.running

/-- A vector destination can be written at once: a register, or on a core that stands alone a queue whose ring is
reserved and has room behind the MODE hint's offset, where no quantum is pending (R124, R127, R180). -/
def State.canWrite (s : State) (spec : BitVec 5) : Prop :=
  spec.toNat < 24 ∨ (s.core.gang.standing = false ∧ (s.core.q (spec.toNat - 24)).region.isSome ∧
    (s.core.q (spec.toNat - 24)).n + s.qoff < 16 ∧ s.pod.qnt = [])

/-- Vector operand r of member j, where it can be read (R50, R124). -/
def State.operand (s : State) (r : BitVec 5) (j : Nat) : Vec :=
  match s.readV r with
  | .inl vs => vs.getD j 0
  | .inr _ => 0

/-- What writing one vector register of each member of the current core leaves: the values, the other vector registers
and their error marks, and nothing else but the pc (R50, R123, R242). -/
structure WroteLanes (s t : State) (n : Nat) (vs : List Vec) : Prop where
  value : ∀ j, j < s.members.length → (t.coreAt (s.members.getD j 0)).v n = vs.getD j 0
  sound : ∀ k ∈ s.members, ∀ p ∈ (t.coreAt k).vmarks, p.1 ≠ n
  others : ∀ k m, m ≠ n → (t.coreAt k).v m = (s.coreAt k).v m
  marks : ∀ k p, p.1 ≠ n → (p ∈ (t.coreAt k).vmarks ↔ p ∈ (s.coreAt k).vmarks)
  outside : ∀ k, k ∉ s.members → k ≠ s.cur → t.coreAt k = s.coreAt k
  pc : wentOn s t
  frame : t = { s with
    core := { s.core with vregs := t.core.vregs, vmarks := t.core.vmarks, pc := t.core.pc }, cores := t.cores }
  cores : ∀ k, k ≠ s.cur → t.coreAt k = { s.coreAt k with
    vregs := (t.coreAt k).vregs, vmarks := (t.coreAt k).vmarks }

/-- What writing the unpublished slot of a queue leaves: the value, every byte outside the slot, the queues but for the
slot's error mark, and nothing else but the pc and what a store leaves of times (R124, R126, R165, R242). -/
structure WroteSlot (s t : State) (q : Nat) (v : Vec) : Prop where
  value : t.slot s.cur q ((s.core.q q).head + (s.core.q q).n + s.qoff) = v
  bytes : ∀ r, (s.core.q q).region = some r →
    bytesKeptBut s t (slotKey s.ck r ((s.core.q q).head + (s.core.q q).n + s.qoff)) 64
  others : ∀ j, j ≠ q → t.core.q j = s.core.q j
  queue : t.core.q q = { s.core.q q with
    marks := mdel (s.core.q q).marks (((s.core.q q).head + (s.core.q q).n + s.qoff) % 16) }
  pc : wentOn s t
  frame : Stored { s with core := { s.core with queues := t.core.queues, pc := t.core.pc } } t

/-- What an instruction leaves whose one effect is to write a vector destination on the members of the current core: a
register of each member, or the unpublished slot of a queue (R50, R123, R124). -/
structure WroteVector (s t : State) (spec : BitVec 5) (vs : List Vec) : Prop where
  lanes : spec.toNat < 24 → WroteLanes s t spec.toNat vs
  slot : 24 ≤ spec.toNat → WroteSlot s t (spec.toNat - 24) (vs.getD 0 0)

/-- An operation on two integer lanes of w bits. -/
def intLane (w : Nat) (f : BitVec w → BitVec w → BitVec w) (x y : Nat) : Nat :=
  (f (BitVec.ofNat w x) (BitVec.ofNat w y)).toNat

/-- The smaller or larger of two integer lanes, signed for the even type codes (R423). -/
def intPick (t : Nat) (larger : Bool) (x y : Nat) : Nat :=
  let w := laneBits t
  let a := BitVec.ofNat w x
  let b := BitVec.ofNat w y
  let below := if t % 2 = 0 then a.slt b else a.ult b
  if below != larger then a.toNat else b.toNat

/-- The vector instructions that work lane by lane (R423, R429, R432): destination, lane width, sources, and the result
lane from the stochastic bits and the source lanes. Integer lanes are written out here; floating lanes are those of the
machine's own arithmetic (R193 to R201). -/
def laneOp (s : State) : Instr → Option (BitVec 5 × Nat × List (BitVec 5) × (Nat → List Nat → Nat))
  | .vadd d a b t => some (d, laneBits t.toNat, [a, b], fun st ls =>
      if t.toNat ≤ 7 then intLane (laneBits t.toNat) (· + ·) (ls.getD 0 0) (ls.getD 1 0)
      else laneAdd t.toNat s.rm st (ls.getD 0 0) (ls.getD 1 0))
  | .vsub d a b t => some (d, laneBits t.toNat, [a, b], fun st ls =>
      if t.toNat ≤ 7 then intLane (laneBits t.toNat) (· - ·) (ls.getD 0 0) (ls.getD 1 0)
      else laneSub t.toNat s.rm st (ls.getD 0 0) (ls.getD 1 0))
  | .vmul d a b t => some (d, laneBits t.toNat, [a, b], fun st ls =>
      if t.toNat ≤ 7 then intLane (laneBits t.toNat) (· * ·) (ls.getD 0 0) (ls.getD 1 0)
      else laneMul t.toNat s.rm st (ls.getD 0 0) (ls.getD 1 0))
  | .vmin d a b t => some (d, laneBits t.toNat, [a, b], fun _ ls =>
      if t.toNat ≤ 7 then intPick t.toNat false (ls.getD 0 0) (ls.getD 1 0)
      else laneMin t.toNat false (ls.getD 0 0) (ls.getD 1 0))
  | .vmax d a b t => some (d, laneBits t.toNat, [a, b], fun _ ls =>
      if t.toNat ≤ 7 then intPick t.toNat true (ls.getD 0 0) (ls.getD 1 0)
      else laneMin t.toNat true (ls.getD 0 0) (ls.getD 1 0))
  | .vabs d a t => some (d, laneBits t.toNat, [a], fun _ ls =>
      if t.toNat ≤ 7 then
        (if t.toNat % 2 = 0 then (BitVec.ofNat (laneBits t.toNat) (ls.getD 0 0)).abs.toNat else ls.getD 0 0)
      else laneAbs t.toNat (ls.getD 0 0))
  | .vfma d a b t => some (d, laneBits t.toNat, [a, b, d], fun st ls =>
      if t.toNat ≤ 7 then
        intLane (laneBits t.toNat) (· + ·) (intLane (laneBits t.toNat) (· * ·) (ls.getD 0 0) (ls.getD 1 0)) (ls.getD 2 0)
      else laneFma t.toNat s.rm st (ls.getD 0 0) (ls.getD 1 0) (ls.getD 2 0))
  | .vsel d a b t => some (d, laneBits t.toNat, [a, b, d], fun _ ls =>
      if (BitVec.ofNat (laneBits t.toNat) (ls.getD 2 0)).msb then ls.getD 0 0 else ls.getD 1 0)
  | .vdot d a b t => some (d, 32, [a, b, d], fun st ls =>
      laneDot t.toNat s.rm st (ls.getD 0 0) (ls.getD 1 0) (ls.getD 2 0))
  | .vrcp d a t => some (d, laneBits t.toNat, [a], fun st ls => specialLane rcp32 t.toNat s.rm st (ls.getD 0 0))
  | .vrsq d a t => some (d, laneBits t.toNat, [a], fun st ls => specialLane rsq32 t.toNat s.rm st (ls.getD 0 0))
  | .vexp2 d a t => some (d, laneBits t.toNat, [a], fun st ls => specialLane exp232 t.toNat s.rm st (ls.getD 0 0))
  | .vlog2 d a t => some (d, laneBits t.toNat, [a], fun st ls => specialLane log232 t.toNat s.rm st (ls.getD 0 0))
  | .vsin d a t => some (d, laneBits t.toNat, [a], fun st ls => specialLane sin32 t.toNat s.rm st (ls.getD 0 0))
  | .vtanh d a t => some (d, laneBits t.toNat, [a], fun st ls => specialLane tanh32 t.toNat s.rm st (ls.getD 0 0))
  | _ => none

/-- The moment instructions (R202 to R205, R376, R391): destination, type, source registers, and the encodings of a result
lane from its number and its sources. -/
def momentOp (s : State) :
    Instr → Option (BitVec 5 × BitVec 1 × List Nat × (Nat → List (Val × Val) → Nat × Nat))
  | .madd d a b t => some (d, t, [a.toNat, b.toNat], fun l xs =>
      momRound s t l (momAdd false s.rm s.cov (srcAt xs 0) (srcAt xs 1)))
  | .msub d a b t => some (d, t, [a.toNat, b.toNat], fun l xs =>
      momRound s t l (momAdd true s.rm s.cov (srcAt xs 0) (srcAt xs 1)))
  | .mmul d a b t => some (d, t, [a.toNat, b.toNat], fun l xs =>
      momRound s t l (momMul s.rm s.cov (srcAt xs 0) (srcAt xs 1)))
  | .mfma d a b t => some (d, t, [a.toNat, b.toNat, d.toNat], fun l xs =>
      momRound s t l (momFma s.rm s.cov (srcAt xs 0) (srcAt xs 1) (srcAt xs 2)))
  | .mscl d a b t =>
    match s.readSpec s.cur b.toNat s.qoff with
    | .inl k => some (d, t, [a.toNat], fun l xs =>
        momRound s t l (momScale s.rm ((momFmt t).dec (laneOf k (momFmt t).width l)) (srcAt xs 0)))
    | .inr _ => none
  | .msq d a t => some (d, t, [a.toNat], fun l xs => momRound s t l (momSquare s.rm (srcAt xs 0)))
  | .mrelu d a t => some (d, t, [a.toNat], fun l xs =>
      momNarrow s t l (momRelu (srcAt xs 0).1 (srcAt xs 0).2))
  | .mexp d a t => some (d, t, [a.toNat], fun l xs => momNarrow s t l (momExp (srcAt xs 0).1 (srcAt xs 0).2))
  | .msigm d a t => some (d, t, [a.toNat], fun l xs => momNarrow s t l (momSigm (srcAt xs 0).1 (srcAt xs 0).2))
  | .mset d a b t =>
    match s.readSpec s.cur a.toNat s.qoff, s.readSpec s.cur b.toNat s.qoff with
    | .inl x, .inl y => some (d, t, [], fun l _ =>
        let f := momFmt t
        (f.arith 0 0 (f.dec (laneOf x f.width l)), f.arith 0 0 (f.dec (laneOf y f.width l))))
    | _, _ => none
  | _ => none

/-- The encodings of the mean and the variance of lane l of a moment register (R129). -/
def momentLane (t : BitVec 1) (m : Mom) (l : Nat) : Nat × Nat :=
  let w := (momFmt t).width
  (fld m.toNat (2 * w * l) w, fld m.toNat (2 * w * l + w) w)

/-- The key of an access that reached memory of this module. -/
def Part.key (p : Part) : Nat := (p.target.key?).getD 0

/-- An access that reached HBM or an array of this module. -/
def Part.atHome (p : Part) : Prop := (∃ pa, p.target = .hbm pa) ∨ ∃ ck off, p.target = .array ck off

/-- The L1 never holds the line of an access: an array, or a page without L1 allocation (R142). -/
def Part.uncached (p : Part) : Prop := 2 ^ 40 ≤ p.key ∨ leafL1 p.leaf = false

/-- The accesses of an instruction all pass their checks and reach memory of this module (R137, R146, R148, R359). -/
def State.reachesAll (s s1 : State) (k : AccKind) (l : List (Word × Nat)) (ps : List Part) : Prop :=
  resolveAll k s 0 l = (.inl ps, s1) ∧ ∀ p ∈ ps, p.atHome

/-- Every byte of memory outside the accesses reads as before. -/
def bytesKeptParts (s t : State) (ps : List Part) : Prop :=
  ∀ j, (∀ p ∈ ps, j < p.key ∨ p.key + p.n ≤ j) → t.byteAt j = s.byteAt j

/-- The instructions on one future whose home may be another cluster (R244): destination, handle, handler. -/
def futureOp (s : State) : Instr → Option (BitVec 5 × Word × Nat)
  | .resolve d a _ _ => some (d, s.x a, 9)
  | .poison d a _ _ => some (d, s.x a, 10)
  | .cancel d a => some (d, s.x a, 11)
  | .depdec d a => some (d, s.x a, 12)
  | .fspill d a => some (d, s.x a, 13)
  | .ffill d a => some (d, s.x a, 14)
  | _ => none

/-- A well-formed future handle of a populated module (R16, R19). -/
structure FutureHandle (s : State) (h : Word) : Prop where
  form : badForm h = false
  kind : hKind h = 1
  module : s.pod.populated.contains (hModule h) = true

/-- A future handle homed in the current core's cluster, whose slot no spill write or wake sequence holds (R16, R72, R85,
R87). -/
structure HomedHere (s : State) (h : Word) : Prop extends FutureHandle s h where
  here : hModule h = s.pod.module ∧ hCk h = s.ck
  unspilling : s.cluster.busy (hSlot h) = false

/-- A handle of this cluster whose entry is resident (R76). -/
structure ResidentHere (s : State) (h : Word) (e : Entry) : Prop extends HomedHere s h where
  entry : s.cluster.entry (hSlot h) = e
  sound : e.ue = false
  resident : e.resident = true
  gen : e.gen = hGen h
  unconsumed : e.consumed = false
  range : s.cluster.inRange s.core.space (hSlot h) = true

/-- A handle of this cluster whose slot is outside the context's range (R66, R90). -/
structure OutOfRange (s : State) (h : Word) : Prop extends FutureHandle s h where
  here : hModule h = s.pod.module ∧ hCk h = s.ck
  range : s.cluster.inRange s.core.space (hSlot h) = false

/-- A handle of this cluster's context whose slot holds no resident entry (R76). -/
structure AwayHere (s : State) (h : Word) : Prop extends HomedHere s h where
  away : (s.cluster.entry (hSlot h)).resident = false
  sound : (s.cluster.entry (hSlot h)).ue = false
  range : s.cluster.inRange s.core.space (hSlot h) = true

/-- A message of the current task about a future left for its home, and the answer is to land in register d (R85, R244,
R373). -/
structure AskedHome (s t : State) (handler : Nat) (h : Word) (d : BitVec 5) : Prop where
  sent : ∃ p : Packet, p.msg.handler = handler ∧ p.target = h ∧ p.msg.w0 = h ∧ p.dstModule = hModule h ∧
    p.dst = hCk h ∧ p.src = s.ck ∧ p.msg.time = s.core.pts ∧ s.left t p
  lands : landsLater s t d
  registers : ∀ l, t.core.logical l = s.core.logical l
  pc : wentOn s t
  bytes : bytesKept s t
  frame : t = { s with pod := t.pod, core := { s.core with pc := t.core.pc } }

/-- The register d is written with a status and entries of the almanac change, with memory and the rest of the state as
they were (R80). -/
structure WroteStatus (s t : State) (d : BitVec 5) (v : Word) : Prop where
  value : t.x d = v
  others : registersKeptBut s t (s.core.b + d.toNat)
  pc : wentOn s t
  bytes : bytesKept s t
  kept : Kept s t

/-- An engine job of the current core was issued at pts + 1 (R173): it joins the jobs in flight, and nothing else
changes but the pc. -/
structure IssuedJob (s t : State) (j : Job) : Prop where
  joined : t.pod.jobs = s.pod.jobs ++ [j]
  cluster : j.ck = s.ck
  core : j.core = s.cur % 8
  space : j.space = s.core.space
  issued : j.ti = s.core.pts + 1
  pts : t.core.pts = s.core.pts + 1
  pc : wentOn s t
  bytes : bytesKept s t
  registers : ∀ l, t.core.logical l = s.core.logical l
  vectors : t.core.vregs = s.core.vregs
  moments : t.core.mregs = s.core.mregs
  kept : KeptSpecial s t

/-- A queue of the current core that a job can land in: its ring is reserved, or the pool has room for it (R127). -/
def State.canReserve (s : State) (q : Nat) : Prop :=
  (s.core.q q).region.isSome ∨ (s.cluster.reserve 1152 (s.core.running.getD 4096) 1).isSome

/-- The SPACE of a message's target as the sender's station has it: a place word's is the sender's; what a handle or a group
name stands for on another module is free (R245, R249; log entry 2). -/
def State.spaceOf (s : State) (target : Word) (place : Bool) : Nat :=
  if place then s.core.space
  else if hModule target = s.pod.module then targetSpace s (hCk target) target false s.core.space
  else if Config.freeNat s.free % 2 = 0 then s.core.space else Config.freeNat s.free / 2 % 65536

/-- The sender's station lets a message through: same SPACE, or a cross-space register of its die (R249). -/
def State.passes (s : State) (target : Word) (place : Bool) (kind : Nat) : Prop :=
  s.spaceOf target place = s.core.space ∨
    crossing (s.dieAt (s.ck / 4096)) s.core.space (s.spaceOf target place) kind = true

/-- A packet left: over the mesh of the module or to the fabric (R252). -/
def State.sent (s t : State) (p : Packet) : Prop := p.src = s.ck ∧ p.srcModule = s.pod.module ∧ s.left t p

/-- The result of MCOLL in lane l before its last rounding: of the mean, of the square root of the variance, and of the
sums of the bound and sample forms, with NaNs first (R206, R379). -/
def State.collapsed (s : State) (a : BitVec 5) (f : BitVec 2) (k : BitVec 3) (t : BitVec 1) (l : Nat) : Val :=
  collapse f.toNat s.rm (clampLane (momLane t (s.core.m a.toNat) l))
    ((momFmt t).dec (laneOf (s.core.v k.toNat) (momFmt t).width l))

/-- The loom commands (R361): status destination, function, type field, flags, region register and second register. -/
def loomOp : Instr → Option (BitVec 5 × Nat × Nat × Nat × BitVec 5 × BitVec 5)
  | .lmbind st r g f t => some (st, 0, t.toNat, f.toNat, r, g)
  | .lmbindUnbind st r g f t => some (st, 0, t.toNat, 2 + f.toNat, r, g)
  | .lmrun st r g t => some (st, 1, t.toNat, 0, r, g)
  | .lmmom st r g => some (st, 2, 17, 0, r, g)
  | .lmzero st r g t => some (st, 3, t.toNat, 0, r, g)
  | .lmdrn st r g e t => some (st, 4, t.toNat, 2 * e.toNat, r, g)
  | .lmdrnV st r g e => some (st, 4, 8, 1 + 2 * e.toNat, r, g)
  | .lmsclOn st r g t => some (st, 5, t.toNat, 1, r, g)
  | .lmsclOff st r g t => some (st, 5, t.toNat, 0, r, g)
  | .lmchk st r g t => some (st, 6, t.toNat, 0, r, g)
  | .lmcb st r g t => some (st, 7, t.toNat, 0, r, g)
  | .lmwt st r g t => some (st, 8, t.toNat, 0, r, g)
  | .lmfrzOn st r g t => some (st, 9, t.toNat, 1, r, g)
  | .lmfrzOff st r g t => some (st, 9, t.toNat, 0, r, g)
  | _ => none

/-- A loom command of a function, type, flags, region and second register (R361, R362). -/
def loomCommand (s : State) (st : BitVec 5) (fn type flags : Nat) (r g : BitVec 5) : LCmd :=
  { fn := fn, control := fn + 16 * type + 512 * flags, region := s.x r, second := (s.x g).toNat % 2 ^ 32,
    dest := s.core.b + st.toNat }

/-- The parts of the loom that only privileged code may use (R361): unbinding any slot, a drain or a weight of another
core, freezing. -/
def loomPrivileged (fn flags : Nat) (g : Word) : Bool :=
  (fn == 0 && flags == 3) || ((fn == 4 || fn == 8) && g.getLsbD 27) || fn == 9

/-- What the issue of a loom command may leave beside its own effect: the save region of a task of the cluster, reserved in its
pool, and what translating scales leaves in caches, line times and error banks (R134, R151, R173). -/
structure SavedLoom (s t : State) : Prop where
  task : ∀ i, t.cluster.task i = { s.cluster.task i with saveRegion := (t.cluster.task i).saveRegion }
  here : t.cluster = { s.cluster with
    tasks := t.cluster.tasks, regions := t.cluster.regions, placed := t.cluster.placed
    l1 := t.cluster.l1, times := t.cluster.times, bank := t.cluster.bank }
  clusters : ∀ k, k ≠ s.ck → t.clusterAt k = { s.clusterAt k with
    l1 := (t.clusterAt k).l1, times := (t.clusterAt k).times, bank := (t.clusterAt k).bank }
  dies : ∀ d, t.dieAt d = { s.dieAt d with
    stations := (t.dieAt d).stations, llc := (t.dieAt d).llc, l2 := (t.dieAt d).l2, bank := (t.dieAt d).bank }

/-- The task has its loom save region, or the pool has room for it (R134). -/
def State.savesLoom (s : State) : Prop :=
  s.core.running = none ∨ s.task.saveRegion.isSome ∨ (s.cluster.reserve 16512 (s.core.running.getD 0) 2).isSome

/-- A core runs the task in a slot, and no core before it in its cluster does. -/
def State.runsIn (s : State) (ck slot k : Nat) : Prop :=
  (coreKeys ck).find? (fun k => (s.coreAt k).running == some slot) = some k

/-- An answer to a request left for the one that asked, and the request is gone from the mesh (R85, R168, R244). Of the current
core at most a request for a yield point and the old words that its fetch may still see are new (R107, R334). -/
structure Answered (s t : State) (p : Packet) (value time : Nat) (flag : Word) : Prop where
  sent : ∃ q : Packet, q.msg.handler = 7 ∧ q.target = p.target ∧ q.dstModule = p.srcModule ∧ q.dst = p.src ∧
    q.reply = p.reply ∧ q.form = value ∧ q.msg.time = time ∧ q.msg.w3 = flag ∧ (s.arrive p).left t q
  core : t.core = { s.core with preempt := t.core.preempt, oldCode := t.core.oldCode }

/-- A message came back to its sender with a reason; one from a port is dropped (R250). -/
structure Bounced (s t : State) (p : Packet) (reason : Nat) : Prop where
  notice : p.src % 4096 < 3200 → ∃ q : Packet, q.msg.handler = 0x2F ∧ q.msg.w0 = p.target ∧
    q.msg.w1 = BitVec.ofNat 64 reason ∧ q.form = 2 ^ 32 ∧ q.dst = p.src ∧ q.dstModule = p.srcModule ∧
    (s.arrive p).left t q
  dropped : 3200 ≤ p.src % 4096 → t.pod.net = s.pod.net.erase p ∧ t.pod.fabric = s.pod.fabric
  core : t.core = s.core
  cores : t.cores = s.cores
  bytes : bytesKept s t

/-- The future that a message is about is resident in the cluster the message goes to (R76, R85). -/
structure AtHome (s : State) (p : Packet) (e : Entry) : Prop where
  entry : (s.clusterAt p.dst).entry (hSlot p.target) = e
  resident : e.resident = true
  gen : e.gen = hGen p.target
  unconsumed : e.consumed = false
  range : (s.clusterAt p.dst).inRange p.msg.space (hSlot p.target) = true
  unspilling : (s.clusterAt p.dst).busy (hSlot p.target) = false
  sound : e.ue = false

/-- A task without a failure was created in an allocated slot: its record, its EMPTY future, and the record's bytes in the
park area (R30, R31, R35, R63). -/
structure MadeTask (s t : State) (ck slot gen : Nat) (task : Task) (time : Nat) : Prop where
  record : (t.clusterAt ck).task slot = { task with
    home := futureHandle s.pod.module ck slot gen, pts := time, st := ((t.clusterAt ck).task slot).st,
    born := ((t.clusterAt ck).task slot).born, since := ((t.clusterAt ck).task slot).since,
    bin := ((t.clusterAt ck).task slot).bin }
  state : ((t.clusterAt ck).task slot).st = if task.deps ≠ 0 then .waiting else if task.tiles = [] then .ready else .staging
  empty : ((t.clusterAt ck).entry slot).st = .empty ∧ ((t.clusterAt ck).entry slot).gen = gen
  bytes : bytesKeptBut s t (parkKey s ck task.space slot) 64

/-- The future of a handle stands resident, EMPTY and alone in its slot: nothing waits for the slot (R62, R76). -/
structure Fillable (s : State) (space : Nat) (h : Word) : Prop where
  some : h ≠ 0
  resident : ((s.clusterAt (hCk h)).entry (hSlot h)).st = .empty
  gen : ((s.clusterAt (hCk h)).entry (hSlot h)).gen = hGen h
  unconsumed : ((s.clusterAt (hCk h)).entry (hSlot h)).consumed = false
  range : (s.clusterAt (hCk h)).inRange space (hSlot h) = true
  unspilling : (s.clusterAt (hCk h)).busy (hSlot h) = false
  sound : ((s.clusterAt (hCk h)).entry (hSlot h)).ue = false

/-- The future of a handle was filled with a state, a value and a time (R65, R171). -/
def filled (t : State) (h : Word) (st : FState) (v : Word) (time : Nat) : Prop :=
  ((t.clusterAt (hCk h)).entry (hSlot h)).st = st ∧ ((t.clusterAt (hCk h)).entry (hSlot h)).value = v ∧
    ((t.clusterAt (hCk h)).entry (hSlot h)).fillTime = time

/-- The instructions whose words have a field, bits 15 to 11, that the hardware ignores: the queue form of CPY and the whole
form of RSTV (R235, R336, R407). -/
def ignoresField : Instr → Bool
  | .cpyQ _ _ _ | .rstv _ _ _ _ => true
  | _ => false

/-- A ladder record of a die. -/
def State.record (s : State) (die k : Nat) : Ladder := mget (fun _ => ({} : Ladder)) (s.dieAt die).ladder k

/-- A place of a die's ladder table whose handle names it (R16, R17). -/
def State.named (s : State) (die k : Nat) : Prop :=
  s.pod.module < 1024 ∧ die < 16 ∧ k < 4096 ∧ (s.record die k).gen < 16777216

end Sys2Proof.Machine
end

