-- ==== Sys2Proof/WellFormed.lean ====
section
/-! DEFINITION. Well-formed instructions: the fields are ones the instruction accepts (`Machine.accepted`), a word that
is no instruction is really unassigned, and an event names units that exist (R5, R15). -/

namespace Sys2Proof

/-- A key of a cluster of the module (R15). -/
def clusterOk (ck : Nat) : Bool := ck < 65536 && ck % 4096 < 3200

/-- Whether an instruction or event is well-formed. -/
def wellFormed : Instr → Bool
  | .unassignedInstructionWord w =>
    match decodeNat w.toNat with
    | .reject _ _ => true
    | _ => false
  | .spillWriteAck ck | .taskDispatch ck | .stagingStart ck | .loomPieceStart ck | .loomFreezeDone ck
  | .keptEntryScan ck | .cancelScanStep ck | .asplitWrite ck _ | .asplitApply ck | .lpoolWrite ck _ => clusterOk ck
  | .ptsTick ck c => (clusterOk ck && c < 9) || (ck % 4096 == 4095 && ck / 4096 < 18 && c < 5)
  | .wcntIdleTick ck c | .overlongHoldWait ck c | .loomCommandComplete ck c | .contextSwitch ck c _ =>
    clusterOk ck && c < 8
  | .tilePushLanded ck slot arg => clusterOk ck && slot < 4096 && arg < 4
  | .outputWriteBackDone ck slot | .wakeWaiters ck slot | .migrationCopyDone ck slot => clusterOk ck && slot < 4096
  | .placerTask d | .launchQueueDrain d | .balancerCheck d => d < 16
  | .activationCreate ck _ ch => clusterOk ck && ch < 16
  | .hostMessageWrite p _ _ _ | .hostMemoryAccess p _ _ _ _ | .chronographFrame p _ _ _ _ | .ptpMessage p _ => p < 2
  | .linkMarginLoss p _ _ => p < 8
  | .moduleFailureMark m => m < 1024
  | .clusterRetest ck st v => clusterOk ck && st < 4 && v < 4
  | i => Machine.accepted i

end Sys2Proof
end

