-- ==== Sys2Proof/Certificates/Slice0/Obligations.lean ====
section
/-! DEFINITION. The statements about the model, for the provers. -/

open Sys2Proof Sys2Proof.Machine

/-- R314, R315, R321, R322, R333, R360, R378, R387, R388, R396, R398, R402, R411, R412, R417, R437: each scalar
instruction that only computes (ADD, SUB, MUL, MULH, AND, OR, XOR, SHL, SHR, SHA, MIN, MAX, SEL, MOV, CLZ, POPC, LEA, ADDI,
ANDI, ORI and MOVI) completes in every state, writes its result, and changes nothing else. -/
def Obligations.ScalarResults : Prop :=
  ∀ (i : Instr) (s : State) (d : BitVec 5) (v : Word), s.core.unit.wides ≤ 2 → scalarResult s i = some (d, v) →
    ∃ t, exec i s = .next t ∧ WroteGeneral s t d v

/-- R121, R298, R323 to R325, R335, R340, R403: DIV, REM, BFX, BFI and CMP. DIV and REM complete on every divisor but
0, with the quotient toward zero and the dividend's sign in the remainder; on 0 they take DIVZERO with the dividend in
TVAL. BFX and BFI read a field specification of position l = X[b][5:0] and width w = X[b][14:8]; with 0 < w and l + w
≤ 64 they complete: BFX delivers the field with zeros or copies of its top bit above it, BFI replaces the field of
X[d] by the low w bits of X[a]; any other specification takes ILLEGAL with the specification in TVAL. CMP with a
condition code below 10 completes and writes bit i of X[d] with the condition on X[a] and X[b]; another code takes
ILLEGAL with the word. -/
def Obligations.PartialScalarResults : Prop :=
  ∀ (d a b : BitVec 5) (s : State),
    (s.x b ≠ 0 → ∃ t, exec (.div d a b) s = .next t ∧ WroteGeneral s t d ((s.x a).sdiv (s.x b))) ∧
    (s.x b ≠ 0 → ∃ t, exec (.rem d a b) s = .next t ∧ WroteGeneral s t d ((s.x a).srem (s.x b))) ∧
    (s.x b = 0 → s.handlerReady →
      (∃ t, exec (.div d a b) s = .next t ∧ TookTrap s t 0x11 (s.x a)) ∧
      ∃ t, exec (.rem d a b) s = .next t ∧ TookTrap s t 0x11 (s.x a)) ∧
    (∀ signed : BitVec 1,
      let l := ((s.x b).extractLsb' 0 6).toNat
      let w := ((s.x b).extractLsb' 8 7).toNat
      (0 < w ∧ l + w ≤ 64 →
        (∃ t v, exec (.bfx d a b signed) s = .next t ∧ WroteGeneral s t d v ∧ ∀ i, i < 64 →
          v.getLsbD i = if i < w then (s.x a).getLsbD (l + i) else signed == 1 && (s.x a).getLsbD (l + w - 1)) ∧
        ∃ t v, exec (.bfi d a b) s = .next t ∧ WroteGeneral s t d v ∧ ∀ i, i < 64 →
          v.getLsbD i = if l ≤ i ∧ i < l + w then (s.x a).getLsbD (i - l) else (s.x d).getLsbD i) ∧
      (w = 0 ∨ 64 < l + w → s.handlerReady →
        (∃ t, exec (.bfx d a b signed) s = .next t ∧ TookTrap s t 1 (s.x b)) ∧
        ∃ t, exec (.bfi d a b) s = .next t ∧ TookTrap s t 1 (s.x b))) ∧
    ∀ (c : BitVec 5) (i : BitVec 6),
      (c.toNat < 10 → ∃ t v, exec (.cmp d a b c i) s = .next t ∧ WroteGeneral s t d v ∧
        ∀ j, j < 64 → v.getLsbD j = if j = i.toNat then wordCondition c (s.x a) (s.x b) else (s.x d).getLsbD j) ∧
      (10 ≤ c.toNat → s.handlerReady → ∃ t, exec (.cmp d a b c i) s = .next t ∧ TookTrap s t 1 s.wordVal)

/-- R284, R288, R327, R353, R354, R397: BR, JMP, JMPI and NOP change the pc and nothing else. BR is taken when bit i of
X[r], inverted by the sense, is 1; displacements count words from the last word of the unit; JMPI to an address that is
not word-aligned takes ALIGN with that address. -/
def Obligations.ControlTransfers : Prop :=
  ∀ s : State, s.core.unit.wides ≤ 2 →
    (∀ (r : BitVec 5) (i : BitVec 6) (sense : BitVec 1) (d : BitVec 14), exec (.br r i sense d) s =
      .next (s.at (if (s.x r).getLsbD i.toNat != (sense == 1) then s.core.unit.here + 4 * s.immBits d
                   else s.core.unit.here + 4))) ∧
    (∀ d : BitVec 26, exec (.jmp d) s = .next (s.at (s.core.unit.here + 4 * d.signExtend 64))) ∧
    (∀ a : BitVec 5, (s.x a).extractLsb' 0 2 = 0 → exec (.jmpi a) s = .next (s.at (s.x a))) ∧
    (∀ a : BitVec 5, (s.x a).extractLsb' 0 2 ≠ 0 → s.handlerReady →
      ∃ t, exec (.jmpi a) s = .next t ∧ TookTrap s t 3 (s.x a)) ∧
    exec .nop s = .next (s.at (s.core.unit.here + 4))

/-- R118, R119, R328, R406: a CALL with advance code k that finds room completes: the link word in the callee's a31, the
base 8 k higher, the pc at the target, every other register and error mark as it was, so that the caller's a(8 k) to a31
are the callee's a0 upward. One that finds none takes WSPILL: logical registers f to f + 31 went to the task's stack
region at its depth, which is 256 more, f is 32 higher, and TVAL is the address, or 0 with nothing written where the
region is full. A RET through a link word of code k that stays above the floor completes: the base 8 k lower, the pc at
the link with bits [1:0] clear, every register as it was. One that would come below the floor takes WFILL: up to 32
registers below f came back, depth and f are lower by them, and TVAL is the address read. Code 0, and a RET below
register 0, take ILLEGAL with the word. -/
def Obligations.CallAndReturn : Prop :=
  ∀ s : State,
    (∀ (k : BitVec 2) (d : BitVec 24), k ≠ 0 → s.core.b + 8 * k.toNat + 32 ≤ s.core.f + 128 →
      ∃ t, exec (.call k d) s = .next t ∧ t.core.b = s.core.b + 8 * k.toNat ∧
        t.core.pc = s.core.unit.here + 4 * d.signExtend 64 ∧
        t.x 31 = s.core.unit.here + 4 + k.setWidth 64 ∧
        registersKeptBut s t (s.core.b + 8 * k.toNat + 31) ∧
        (∀ n, n < 32 - 8 * k.toNat → t.core.x n = s.core.x (8 * k.toNat + n)) ∧ bytesKept s t ∧
        (∀ p, p ∈ t.core.gmarks ↔ p ∈ s.core.gmarks ∧ p.1 ≠ s.core.b + 8 * k.toNat + 31) ∧
        t.core.fails = s.core.fails.map (fun x => if x.1 = some (s.core.b + 8 * k.toNat + 31) then (none, x.2) else x) ∧
        t = { s with core := { s.core with
          b := t.core.b, pc := t.core.pc, regs := t.core.regs, gmarks := t.core.gmarks, fails := t.core.fails } }) ∧
    (∀ slot depth s0, s.core.running = some slot → stackDepth s s.ck s.core.space slot = .ok (depth, false, s0) →
      (∀ (k : BitVec 2) (d : BitVec 24), k ≠ 0 → s.core.f + 128 < s.core.b + 8 * k.toNat + 32 →
        (12736 < depth + 256 → s.handlerReady → ∃ t, exec (.call k d) s = .next t ∧ TookTrap s t 6 0) ∧
        (depth + 256 ≤ 12736 → ∀ s1 s2, stackWrite s.ck s.core.space slot s0 (3648 + depth)
            ((List.range 32).map fun i => s.core.logical (s.core.f + i)) = .ok s1 →
          stackWrite s.ck s.core.space slot s1 0 [BitVec.ofNat 64 (depth + 256)] = .ok s2 →
          let u := { s2 with core := { s2.core with f := s.core.f + 32 } }
          u.handlerReady → ∃ t, exec (.call k d) s = .next t ∧
            TookTrap u t 6 (BitVec.ofNat 64 (stackVa s s.ck s.core.space slot (3648 + depth))))) ∧
      ∀ a : BitVec 5, let k := ((s.x a).extractLsb' 0 2).toNat
        let n := min 32 (depth / 8)
        k ≠ 0 → 8 * k ≤ s.core.b → s.core.b < s.core.f + 8 * k → ∀ ws s1 s2,
          stackRead s.ck s.core.space slot s0 (3648 + depth - 8 * n) n = .ok (ws, false, s1) →
          stackWrite s.ck s.core.space slot s1 0 [BitVec.ofNat 64 (depth - 8 * n)] = .ok s2 →
          let u := { s2 with core := { s2.core.refill (s.core.f - n) ws with f := s.core.f - n } }
          u.handlerReady → ∃ t, exec (.ret a) s = .next t ∧
            TookTrap u t 7 (BitVec.ofNat 64 (stackVa s s.ck s.core.space slot (3648 + depth - 8 * n)))) ∧
    (∀ a : BitVec 5, let k := ((s.x a).extractLsb' 0 2).toNat
      k ≠ 0 → s.core.f + 8 * k ≤ s.core.b → exec (.ret a) s =
        .next { s with core := { s.core with b := s.core.b - 8 * k, pc := s.x a &&& ~~~3 } }) ∧
    (s.handlerReady → ∀ d : BitVec 24, ∃ t, exec (.call 0 d) s = .next t ∧ TookTrap s t 1 s.wordVal) ∧
    (s.handlerReady → ∀ a : BitVec 5, let k := ((s.x a).extractLsb' 0 2).toNat
      k = 0 ∨ s.core.b < 8 * k → ∃ t, exec (.ret a) s = .next t ∧ TookTrap s t 1 s.wordVal)

/-- R106, R265, R266, R271, R282, R297, R341, R342, R420, R451: the entry to a handler and the return from it. Where a
handler can be entered without a window transfer, TRAP enters the handler of cause 0x1F with X[a] in TVAL, and a word that
is no instruction that of ILLEGAL with the word in TVAL. Before TBASE was written a trap leaves the core as it is, and the
module waits for a reset; while it is 0, a TRAP ends its task POISONED with the cause. An ERET of privileged code that no
kill flag and no cancellation ends, whose TPC is aligned, completes: the base 8 lower, the mode of TCAUSE bit 8, the pc at
TPC, one handler fewer, and nothing else changed, but for the registers that come back first where the window would pass
its floor. The kill flag of WDOG ends the task POISONED with 0x0A, a cancellation CANCELLED; a TPC that is not aligned
takes ALIGN with it, a base below 8 ILLEGAL, unprivileged code PRIV. A trap and the ERET of its handler cancel out on a
core that stands alone: base, mode, count of handlers and every register are back, with the pc at the trapped unit. -/
def Obligations.TrapsAndReturns : Prop :=
  ∀ s : State,
    (s.handlerReady →
      (∀ a : BitVec 5, ∃ t, exec (.trap a) s = .next t ∧ TookTrap s t 0x1F (s.x a)) ∧
      ∀ w : IWord, ∃ t, exec (.unassignedInstructionWord w) s = .next t ∧ TookTrap s t 1 (w.setWidth 64)) ∧
    (s.core.trap.written = false → ∀ a : BitVec 5, ∃ t, exec (.trap a) s = .next t ∧ t.down = true ∧
      t.core = s.core ∧ t.cores = s.cores ∧ bytesKept s t) ∧
    (∀ slot, s.core.running = some slot →
      (s.core.trap.written = true → s.core.trap.base = 0 → ∀ a : BitVec 5, ∃ t, exec (.trap a) s = .next t ∧
        EndedTask s t slot .poisoned 0x1F s.endTime) ∧
      (s.core.priv = true → s.core.trap.kill = 1 → ∃ t, exec .eret s = .next t ∧
        EndedTask s t slot .poisoned 0x0A s.endTime) ∧
      (s.core.priv = true → s.core.trap.kill = 0 → s.task.cancel = true → ∃ t, exec .eret s = .next t ∧
        EndedTask s t slot .cancelled 0 s.endTime)) ∧
    (s.core.priv = true → s.core.trap.kill = 0 → s.task.cancel = false → 8 ≤ s.core.b →
      s.core.trap.pc.extractLsb' 0 2 ≠ 0 → s.handlerReady →
      ∃ t, exec .eret s = .next t ∧ TookTrap s t 3 s.core.trap.pc) ∧
    (s.core.priv = true → s.core.trap.kill = 0 → s.task.cancel = false → 8 ≤ s.core.b → s.core.b < s.core.f + 8 →
      s.core.trap.pc.extractLsb' 0 2 = 0 → ∀ u a, fillWindow s = .moved u a →
      exec .eret s = .next { u with core := { u.core with
        b := u.core.b - 8, priv := u.core.trap.cause.getLsbD 8, pc := u.core.trap.pc,
        trap := { u.core.trap with depth := u.core.trap.depth - 1 } } }) ∧
    (s.core.priv = true → s.core.trap.kill = 0 → s.task.cancel = false → 8 ≤ s.core.b → s.core.f + 8 ≤ s.core.b →
      s.core.trap.pc.extractLsb' 0 2 = 0 →
      exec .eret s = .next { s with core := { s.core with
        b := s.core.b - 8, priv := s.core.trap.cause.getLsbD 8, pc := s.core.trap.pc,
        trap := { s.core.trap with depth := s.core.trap.depth - 1 } } }) ∧
    (s.handlerReady → s.core.priv = true → s.core.trap.kill = 0 → s.task.cancel = false → s.core.b < 8 →
      ∃ t, exec .eret s = .next t ∧ TookTrap s t 1 s.wordVal) ∧
    (s.handlerReady → s.core.priv = false → ∃ t, exec .eret s = .next t ∧ TookTrap s t 2 s.wordVal) ∧
    ∀ (a : BitVec 5) (t : State), s.handlerReady → s.alone → s.core.f ≤ s.core.b →
      s.core.unit.base.extractLsb' 0 2 = 0 → s.core.trap.kill = 0 → s.task.cancel = false → exec (.trap a) s = .next t →
      ∃ u, exec .eret t = .next u ∧ u.core.b = s.core.b ∧ u.core.f = s.core.f ∧ u.core.priv = s.core.priv ∧
        u.core.pc = s.core.unit.base ∧ u.core.trap.depth = s.core.trap.depth ∧
        (∀ l, u.core.logical l = s.core.logical l) ∧ bytesKept s u

/-- R104, R105, R438: a YIELD of privileged code only goes on. One of unprivileged code whose task is not cancelled and
whose core has no request goes on with WCNT reloaded: n if 1 to YLIM, else YLIM. Everything else stays. A cancelled task
ends; one whose core has a request is parked where its window and registers can be saved, to resume behind the YIELD: its
record has the base, the modes, the count of handlers, the queues, holds, marks, failures and loom commands of the core, the
park record a0 to a31, and the stack region the vector and moment registers (R108, R119, R133, R229). -/
def Obligations.YieldReloads : Prop :=
  ∀ (n : BitVec 16) (s : State),
    (s.core.priv = true → exec (.yield n) s = .next (s.at (s.core.unit.here + 4))) ∧
    (s.core.priv = false → s.task.cancel = false → s.core.preempt = false →
      exec (.yield n) s = .next { s with core := { s.core with
        pc := s.core.unit.here + 4, waiting := false,
        wcnt := if 1 ≤ n.toNat ∧ n.toNat ≤ s.ctx.ylim then n.toNat else s.ctx.ylim } }) ∧
    ∀ slot, s.core.priv = false → s.core.running = some slot →
      (s.task.cancel = true → ∃ t, exec (.yield n) s = .next t ∧ t.core.running = none ∧
        (t.cluster.task slot).st = .free) ∧
      (s.task.cancel = false → s.core.preempt = true → (∃ u, parkPreempt s (s.core.unit.here + 4) = .done u) →
        ∃ t, exec (.yield n) s = .next t ∧ t.core.running = none ∧ (t.cluster.task slot).st = .parkedPre ∧
          (t.cluster.task slot).pc = s.core.unit.here + 4) ∧
      (s.task.cancel = false → s.core.preempt = true → s.core.gang.standing = false → s.core.gang.save = none →
        ∀ s1 depth s2, saveWindow s slot = (.done s1, depth) →
        let c := s.core
        let words := (List.range 192).map (fun i => (c.v (i / 8)).extractLsb' (64 * (i % 8)) 64) ++
          (List.range 256).map fun i => (c.m (i / 16)).extractLsb' (64 * (i % 16)) 64
        stackWrite s.ck c.space slot s1 64 words = .ok s2 →
        ∃ t, exec (.yield n) s = .next t ∧ t.core.running = none ∧
          let x := t.cluster.task slot
          x.st = .parkedPre ∧ x.image = true ∧ x.gang = 0 ∧ x.pc = c.unit.here + 4 ∧ x.base = c.b ∧ x.depth = depth ∧
          x.handlers = c.trap.depth ∧ x.priv = c.priv ∧ x.fpmode = c.modes.fpmode ∧ x.covmode = c.modes.covmode ∧
          x.parked.scbase = c.modes.scbase ∧ x.parked.scshift = c.modes.scshift ∧ x.parked.kill = c.trap.kill ∧
          x.parked.queues = c.queues ∧ x.parked.holds = c.holds ∧ x.parked.vmarks = c.vmarks ∧
          x.parked.gmarks = c.gmarks ∧ x.parked.mmarks = c.mmarks ∧ x.parked.fails = c.fails ∧
          x.parked.usedTime = c.usedTime ∧ x.parked.loom.queue = c.loom.queue ∧ x.parked.loom.inUse = c.loom.inUse ∧
          x.parked.loom.zero = c.loom.zero ∧ x.parked.loom.weight = c.loom.weight ∧
          ∀ i, i < 32 → s1.readN (parkKey s s.ck c.space slot + 64 + 8 * i) 8 = (c.x i).toNat)

/-- R137, R146, R148, R150, R165, R166, R267, R357, R358: LD of 1, 2, 4 or 8 bytes. Where the access reaches memory of this
module that has no error mark, no access of the task at another module is under way and no quantum is pending, it
completes: the value its home or its cluster's L1 holds, zero-extended, in X[t], and nothing else changes but the pc,
caches, line times and the core's logical time. Where it reaches another module it goes on, its request sent and its value
still to land. From a host it gets the next free value, at pts + 1, which is the model's choice (log entries 3 and 5), from
a device the value that the device's register reads as. A misaligned address takes ALIGN with the address; any other check
that fails takes the trap that the check names. -/
def Obligations.LoadGeneral : Prop :=
  ∀ (t b : BitVec 5) (sz : BitVec 2) (o : BitVec 14) (s : State), s.core.unit.wides ≤ 2 →
    let n := 2 ^ sz.toNat
    let a := s.fmAddress b o n
    (∀ s1 tgt leaf k, s.reaches s1 a n .load tgt leaf k → s.ordered → s.pod.qnt = [] → s1.soundFor a.toNat k n leaf →
      ∃ s2 u, exec (.ld t b sz o) s = .next u ∧ Touched s s2 ∧
        WroteGeneral s2 u t (BitVec.ofNat 64 (s1.loadValue a.toNat k n leaf))) ∧
    (∀ s1 m va leaf, resolve s s.ck s.core.space a n .load = (.ok (.remote m va) leaf, s1) → s.ordered → s.core.running.isSome →
      ∃ u, exec (.ld t b sz o) s = .next u ∧ askedFor s u 1 m va n ∧ landsLater s u t ∧ wentOn s u ∧
        bytesKept s u ∧ Kept s u ∧ ∀ l, u.core.logical l = s.core.logical l) ∧
    (∀ s1 port x leaf, resolve s s.ck s.core.space a n .load = (.ok (.host port x) leaf, s1) → s.ordered →
      ∃ u, exec (.ld t b sz o) s = .next u ∧ u.x t = BitVec.ofNat 64 (Config.freeNat s.free % 2 ^ (8 * n)) ∧
        u.free = s.free + 1 ∧ u.core.pts = s.core.pts + 1 ∧ registersKeptBut s u (s.core.b + t.toNat) ∧ wentOn s u ∧ bytesKept s u ∧ Kept s u) ∧
    (∀ s1 pa leaf, resolve s s.ck s.core.space a n .load = (.ok (.device pa) leaf, s1) → s.ordered →
      ∃ u, exec (.ld t b sz o) s = .next u ∧ u.x t = BitVec.ofNat 64 (devRead s1 pa) ∧
        u.core.pts = s.core.pts + 1 ∧ registersKeptBut s u (s.core.b + t.toNat) ∧ wentOn s u ∧ bytesKept s u ∧ Kept s u) ∧
    (a.toNat % n ≠ 0 → s.handlerReady → ∃ u, exec (.ld t b sz o) s = .next u ∧ TookTrap s u 3 a) ∧
    (∀ s1 c v, resolve s s.ck s.core.space a n .load = (.trap c v, s1) → s.handlerReady →
      ∃ u, exec (.ld t b sz o) s = .next u ∧ TookTrap s1 u c v)

/-- R137, R146, R148, R150, R173, R267, R284, R414, R415: ST of 1, 2, 4 or 8 bytes. Where the access reaches memory of this
module, no access of the task at another module is under way, no job holds the write back and no quantum is pending, it
completes: the low bytes of X[t] stand at the home, every byte outside them is as it was, and nothing else changes but the
pc, what a store leaves of times, marks and caches, and the words the cores may still fetch there. One that a job holds
back waits. Where it reaches another module it goes on with its request sent; where it reaches a host the write is posted;
a device's register takes it once the device does. Failing checks trap as for a load. -/
def Obligations.StoreGeneral : Prop :=
  ∀ (t b : BitVec 5) (sz : BitVec 2) (o : BitVec 14) (s : State), s.core.unit.wides ≤ 2 →
    let n := 2 ^ sz.toNat
    let a := s.fmAddress b o n
    (∀ s1 tgt leaf k, s.reaches s1 a n .store tgt leaf k → (∀ p x, tgt ≠ .landing p x) → s.ordered → s.pod.qnt = [] →
      (beforeWrite s1 k n = some s1 →
        ∃ u, exec (.st t b sz o) s = .next (u.at (s.core.unit.here + 4)) ∧ Stored s u ∧
          u.readN k n = (s.x t).toNat % 256 ^ n ∧ bytesKeptBut s u k n) ∧
      (beforeWrite s1 k n = none →
        exec (.st t b sz o) s = .next { s1 with core := { s1.core with waiting := true } })) ∧
    (∀ s1 m va leaf, resolve s s.ck s.core.space a n .store = (.ok (.remote m va) leaf, s1) → s.ordered →
      ∃ u, exec (.st t b sz o) s = .next u ∧ askedFor s u 2 m va n ∧ wentOn s u ∧ bytesKept s u ∧ Kept s u ∧
        ∀ l, u.core.logical l = s.core.logical l) ∧
    (∀ s1 port x leaf, resolve s s.ck s.core.space a n .store = (.ok (.host port x) leaf, s1) → s.ordered →
      ∃ u, exec (.st t b sz o) s = .next u ∧
        u.pod.hostOut = s.pod.hostOut ++ [(port, x, leBytes n (s.x t).toNat)] ∧ wentOn s u ∧ bytesKept s u ∧
        Kept s u ∧ ∀ l, u.core.logical l = s.core.logical l) ∧
    (∀ s1 pa leaf, resolve s s.ck s.core.space a n .store = (.ok (.device pa) leaf, s1) → s.ordered →
      (devWaits s1 pa (s.x t) = false → exec (.st t b sz o) s = .next (devWrite s1.strong pa (s.x t)).adv) ∧
      (devWaits s1 pa (s.x t) = true →
        exec (.st t b sz o) s = .next { s1 with core := { s1.core with waiting := true } })) ∧
    (a.toNat % n ≠ 0 → s.handlerReady → ∃ u, exec (.st t b sz o) s = .next u ∧ TookTrap s u 3 a) ∧
    (∀ s1 c v, resolve s s.ck s.core.space a n .store = (.trap c v, s1) → s.handlerReady →
      ∃ u, exec (.st t b sz o) s = .next u ∧ TookTrap s1 u c v)

/-- R50, R124, R185, R193 to R201, R421 to R425, R429, R430, R432, R433: the vector instructions that work lane by lane:
VADD, VSUB, VMUL, VMIN, VMAX, VABS, VFMA, VSEL, VDOT, VRCP, VRSQ, VEXP2, VLOG2, VSIN and VTANH.
With an accepted type, readable sources and a destination that can be written, each completes on every member of the
core's gang: every lane of the destination is the result of the lanes of the sources, and nothing else changes but
the pc, and for a slot of a queue what a store leaves of times. Lanes of the special functions VRCP to VTANH are those
of the model's own functions, which keep the rules' bounds (log entry 7). A first source that names a queue without the
element takes QUNDER. -/
def Obligations.VectorLaneResults : Prop :=
  ∀ (i : Instr) (s : State) (d : BitVec 5) (w : Nat) (srcs : List (BitVec 5)) (f : Nat → List Nat → Nat),
    accepted i = true → laneOp s i = some (d, w, srcs, f) →
    (s.canWrite d → (∀ r ∈ srcs, ∃ vs, s.readV r = .inl vs) →
      ∃ t vs, exec i s = .next t ∧ WroteVector s t d vs ∧ vs.length = s.members.length ∧
        ∀ j, j < s.members.length → ∀ l, l < 512 / w →
          laneOf (vs.getD j 0) w l =
            f (stochBits s (s.members.getD j 0) l) (srcs.map fun r => laneOf (s.operand r j) w l) % 2 ^ w) ∧
    (∀ r m v, srcs.head? = some r → s.readV r = .inr (m, v) → s.handlerReady →
      ∃ t, exec i s = .next t ∧ TookTrap s t 0x0F v)

/-- R50, R421, R426, R430, R431, R434: the instructions that move lanes, on every member of the core's gang. VMOV
copies; VBIT takes bits of its first source where the old destination has ones and of the second elsewhere; VPERM
picks any lane of any member by index; VBCAST repeats the leader's lane 0; VIDX counts upward from it through the
members; VRED leaves the sum of all lanes in the leader's destination and zeros in the others; VTRN transposes blocks
of eight registers. -/
def Obligations.VectorMovers : Prop :=
  ∀ (d a b t : BitVec 5) (s : State) (xs : List Vec), s.readV a = .inl xs → s.canWrite d →
    let w := laneBits t.toNat
    (t.toNat ≤ 13 → ∃ u, exec (.vmov d a t) s = .next u ∧ WroteVector s u d xs) ∧
    (t.toNat ≤ 13 → d.toNat < 24 → ∀ ys, s.readV b = .inl ys → ∃ u vs, exec (.vbit d a b t) s = .next u ∧
      WroteVector s u d vs ∧ ∀ j, j < s.members.length → ∀ i, i < 512 → (vs.getD j 0).getLsbD i =
        if (s.operand d j).getLsbD i then (s.operand a j).getLsbD i else (s.operand b j).getLsbD i) ∧
    (t.toNat ≤ 12 → ∀ ys, s.readV b = .inl ys → ∃ u vs, exec (.vperm d a b t) s = .next u ∧ WroteVector s u d vs ∧
      ∀ j, j < s.members.length → ∀ l, l < 512 / w → laneOf (vs.getD j 0) w l =
        (allLanes xs w).getD (laneOf (s.operand b j) w l % (512 / w * s.members.length)) 0) ∧
    (t.toNat ≤ 12 → ∃ u vs, exec (.vbcast d a t) s = .next u ∧ WroteVector s u d vs ∧
      ∀ j, j < s.members.length → ∀ l, l < 512 / w → laneOf (vs.getD j 0) w l = laneOf (s.operand a 0) w 0) ∧
    (t.toNat ≤ 7 → ∃ u vs, exec (.vidx d a t) s = .next u ∧ WroteVector s u d vs ∧
      ∀ j, j < s.members.length → ∀ l, l < 512 / w →
        laneOf (vs.getD j 0) w l = (laneOf (s.operand a 0) w 0 + 512 / w * j + l) % 2 ^ w) ∧
    (t.toNat ≤ 10 → ∃ u vs, exec (.vred d a t) s = .next u ∧ WroteVector s u d vs ∧
      ∀ j, j < s.members.length → vs.getD j 0 = if j = 0 then
        BitVec.ofNat 512 (laneSum t.toNat s.rm (stochBits s s.cur 0) (allLanes xs w)) else 0) ∧
    (t.toNat ≤ 12 → d.toNat ≤ 16 → a.toNat ≤ 16 → ∃ u, exec (.vtrn d a t) s = .next u ∧ wentOn s u ∧ bytesKept s u ∧
      u = { s with
        core := { s.core with vregs := u.core.vregs, vmarks := u.core.vmarks, pc := u.core.pc }, cores := u.cores } ∧
      (∀ k, k ≠ s.cur → u.coreAt k = { s.coreAt k with vregs := (u.coreAt k).vregs, vmarks := (u.coreAt k).vmarks }) ∧
      (∀ k, k ∈ s.members → ∀ i l, i < 8 → l < 512 / w → laneOf ((u.coreAt k).v (d.toNat + i)) w l =
        laneOf ((s.coreAt k).v (a.toNat + l % 8)) w (l / 8 * 8 + i)) ∧
      ∀ k m, k ∉ s.members ∨ m < d.toNat ∨ d.toNat + 8 ≤ m → (u.coreAt k).v m = (s.coreAt k).v m)

/-- R50, R51, R197, R298, R427, R428: VCVT converts lane by lane between any two of the types 0 to 13, filling the lanes of
the destination that the source has, with zeros above; where a conversion overflows and overflow traps, it takes CVTOVF
with the type and the number of the first such lane, counted through the members of the gang. VCMP writes the conditions of
one group of 64 lanes into the low bits of a general register, one bit a lane, and keeps the bits that have no lane. -/
def Obligations.ConversionsAndCompares : Prop :=
  ∀ (d a : BitVec 5) (s : State) (xs : List Vec), s.readV a = .inl xs →
    (∀ e t : BitVec 5, e.toNat ≤ 13 → t.toNat ≤ 13 → s.canWrite d →
      let conv := fun (j l : Nat) => convType e.toNat s.rm (stochBits s (s.members.getD j 0) l) s.ovf
        (decType t.toNat (laneOf (s.operand a j) (laneBits t.toNat) l))
      let n := min (512 / laneBits t.toNat) (512 / laneBits e.toNat)
      ((∀ j, j < s.members.length → ∀ l, l < n → (conv j l).2 = false) →
        ∃ u vs, exec (.vcvt d a e t) s = .next u ∧ WroteVector s u d vs ∧ ∀ j, j < s.members.length →
          ∀ l, l < 512 / laneBits e.toNat → laneOf (vs.getD j 0) (laneBits e.toNat) l =
            if l < n then (conv j l).1 % 2 ^ laneBits e.toNat else 0) ∧
      (∀ j l, j < s.members.length → l < n → (conv j l).2 = true → (∀ i, i < l → (conv j i).2 = false) →
        (∀ m, m < j → ∀ i, i < n → (conv m i).2 = false) → s.handlerReady →
        ∃ u, exec (.vcvt d a e t) s = .next u ∧
          TookTrap s u 0x0C (BitVec.ofNat 64 (512 / laneBits e.toNat * j + l + 1024 * e.toNat)))) ∧
    ∀ (b : BitVec 5) (x y z : BitVec 1) (c t : BitVec 4) (ys : List Vec), s.readV b = .inl ys →
      c.toNat < 10 → t.toNat ≤ 10 → (c.toNat < 6 ∨ t.toNat < 8) →
      let w := laneBits t.toNat
      let g := 64 * (y.toNat + 2 * z.toNat + 4 * x.toNat)
      ∃ u v, exec (.vcmp d a b x c y z t) s = .next u ∧ WroteGeneral s u d v ∧ ∀ i, i < 64 →
        v.getLsbD i = if g + i < 512 / w * s.members.length then
            laneCond t.toNat c.toNat ((allLanes xs w).getD (g + i) 0) ((allLanes ys w).getD (g + i) 0)
          else (s.x d).getLsbD i

/-- R129, R202 to R205, R207, R376, R377, R380, R381, R385, R389 to R394: the moment instructions MADD, MSUB, MMUL,
MFMA, MSCL, MSQ, MRELU, MEXP, MSIGM and MSET. Where no variance
of a source or of the result is negative, or negative variances are taken as zero, each completes: every lane of the
destination is the rule's result with a negative or −0 variance written as +0, and nothing else changes but the pc.
Where a source has a negative variance and they are not taken as zero it takes NEGVAR. -/
def Obligations.MomentResults : Prop :=
  ∀ (i : Instr) (s : State) (d : BitVec 5) (t : BitVec 1) (srcs : List Nat) (f : Nat → List (Val × Val) → Nat × Nat),
    accepted i = true → momentOp s i = some (d, t, srcs, f) →
    let lane := fun (l : Nat) => f l (srcs.map fun r => clampLane (momLane t (s.core.m r) l))
    let clear := fun (v : Nat) => if encNegative (momFmt t) v || v == (momFmt t).signBit true then 0 else v
    (s.clamps = true ∨ (negSource (momSources s t srcs) = none ∧
        ∀ l, l < momLanes t → encNegative (momFmt t) (lane l).2 = false) →
      ∃ u, exec i s = .next u ∧ wentOn s u ∧ bytesKept s u ∧
        (∀ l, l < momLanes t → momentLane t (u.core.m d.toNat) l =
          ((lane l).1 % 2 ^ (momFmt t).width, clear (lane l).2 % 2 ^ (momFmt t).width)) ∧
        u = { s with core := { s.core with mregs := u.core.mregs, mmarks := u.core.mmarks, pc := u.core.pc } } ∧
        ∀ m, m ≠ d.toNat → u.core.m m = s.core.m m) ∧
    (∀ v, s.clamps = false → negSource (momSources s t srcs) = some v → s.handlerReady →
      ∃ u, exec i s = .next u ∧ TookTrap s u 0x0B (BitVec.ofNat 64 v))

/-- R137, R165, R166, R267, R357 to R359: the loads of 64 and 128 bytes. LDV loads 64 bytes for each member of the
gang, the next address for the next member; LDM loads a moment register. Where every access reaches HBM or an array of
this module and meets no error, nothing of the task is under way at another module and no quantum is pending, they
complete: a line the L1 cannot hold comes from its home, and a core without a gang gets what its home or its L1 holds;
nothing else changes but the destination and its error marks, for a slot of a queue what a store leaves of times, the pc,
caches, line times and the core's logical time. A failing check takes its trap; a queue slot that cannot be written takes
QUNDER, and an LDM of no moment register ILLEGAL. -/
def Obligations.WideLoads : Prop :=
  ∀ (t b : BitVec 5) (o : BitVec 14) (s : State), s.core.unit.wides ≤ 2 →
    (let l := memberAccesses s (s.fmAddress b o 64);
      (∀ s1 ps, s.reachesAll s1 .load l ps → s.ordered → s.canWrite t → s.pod.qnt = [] →
        (∀ p ∈ ps, s.marked p.key p.n = false) → (∀ x ∈ s1.cluster.l1, x.ue = false) →
        ∃ s2 u vs, exec (.ldv t b o) s = .next u ∧ Touched s s2 ∧ WroteVector s2 u t vs ∧
          vs.length = s.members.length ∧
          (∀ j p, ps[j]? = some p → p.uncached → vs.getD j 0 = BitVec.ofNat 512 (s.readN p.key 64)) ∧
          (s.core.gang.standing = false → ∀ p, ps = [p] →
            vs.getD 0 0 = BitVec.ofNat 512 (s1.loadValue p.addr.toNat p.key 64 p.leaf))) ∧
      (∀ s1 j c v, resolveAll .load s 0 l = (.inr (j, c, v), s1) → s.destUnder t = none → s.handlerReady →
        ∃ u, exec (.ldv t b o) s = .next u ∧ TookTrap s1 u c v) ∧
      (∀ m v, s.destUnder t = some (m, v) → s.handlerReady →
        ∃ u, exec (.ldv t b o) s = .next u ∧ TookTrap s u 0x0F v)) ∧
    (let l := [(s.fmAddress b o 128, 128)];
      (∀ s1 p, s.reachesAll s1 .load l [p] → s.ordered → t.toNat < 16 → s.pod.qnt = [] →
        s1.soundFor p.addr.toNat p.key 128 p.leaf →
        ∃ s2 u, exec (.ldm t b o) s = .next u ∧ Touched s s2 ∧ wentOn s u ∧ bytesKept s u ∧
          u = { s2 with core := { s2.core with mregs := u.core.mregs, mmarks := u.core.mmarks, pc := u.core.pc } } ∧
          u.core.m t.toNat = BitVec.ofNat 1024 (s1.loadValue p.addr.toNat p.key 128 p.leaf) ∧
          (∀ m, m ≠ t.toNat → u.core.m m = s.core.m m) ∧
          ∀ x, x ∈ u.core.mmarks ↔ x ∈ s.core.mmarks ∧ x.1 ≠ t.toNat) ∧
      (∀ s1 j c v, resolveAll .load s 0 l = (.inr (j, c, v), s1) → t.toNat < 16 → s.handlerReady →
        ∃ u, exec (.ldm t b o) s = .next u ∧ TookTrap s1 u c v) ∧
      (16 ≤ t.toNat → s.handlerReady → ∃ u, exec (.ldm t b o) s = .next u ∧ TookTrap s u 1 s.wordVal))

/-- R137, R165, R267, R414 to R416: the stores of 64 and 128 bytes. STV stores 64 bytes of each member of the gang,
the next address for the next member; STM stores a moment register. Where every access reaches HBM or an array of this
module, nothing of the task is under way at another module, no job or frozen command holds the writes back and no
quantum is pending, they complete: the bytes of each access are the register's unless a later member's access covers
them, every other byte is as it was, and nothing else changes but the pc and what stores leave of times, marks, caches and
the words the cores may still fetch. Failing checks trap; a source slot without an element takes QUNDER, and an STM of no
moment register ILLEGAL. -/
def Obligations.WideStores : Prop :=
  ∀ (t b : BitVec 5) (o : BitVec 14) (s : State), s.core.unit.wides ≤ 2 →
    (let l := memberAccesses s (s.fmAddress b o 64);
      ∀ vs, s.readV t = .inl vs →
        (∀ s1 ps, s.reachesAll s1 .store l ps → s.ordered → s.pod.qnt = [] → beforeParts s1 ps = some s1 →
          ∃ u, exec (.stv t b o) s = .next (u.at (s.core.unit.here + 4)) ∧ Stored s u ∧ bytesKeptParts s u ps ∧
            ∀ j p, ps[j]? = some p → (∀ i q, j < i → ps[i]? = some q → meets p.key 64 q.key 64 = false) →
              u.readN p.key 64 = (vs.getD j 0).toNat) ∧
        (∀ s1 j c v, resolveAll .store s 0 l = (.inr (j, c, v), s1) → s.handlerReady →
          ∃ u, exec (.stv t b o) s = .next u ∧ TookTrap s1 u c v)) ∧
    (∀ m v, s.readV t = .inr (m, v) → s.handlerReady → ∃ u, exec (.stv t b o) s = .next u ∧ TookTrap s u 0x0F v) ∧
    (let l := [(s.fmAddress b o 128, 128)];
      (∀ s1 p, s.reachesAll s1 .store l [p] → s.ordered → t.toNat < 16 → s.pod.qnt = [] →
        beforeParts s1 [p] = some s1 →
        ∃ u, exec (.stm t b o) s = .next (u.at (s.core.unit.here + 4)) ∧ Stored s u ∧ bytesKeptBut s u p.key 128 ∧
          u.readN p.key 128 = (s.core.m t.toNat).toNat) ∧
      (∀ s1 j c v, resolveAll .store s 0 l = (.inr (j, c, v), s1) → t.toNat < 16 → s.handlerReady →
        ∃ u, exec (.stm t b o) s = .next u ∧ TookTrap s1 u c v) ∧
      (16 ≤ t.toNat → s.handlerReady → ∃ u, exec (.stm t b o) s = .next u ∧ TookTrap s u 1 s.wordVal))

/-- R154, R178 to R181, R267, R317 to R319, R330: AMO and CAS of 4 or 8 bytes that meet no error, at a home of this
module that nothing holds back, and that wait for no access at another module. With no use, .unp and .nord they
complete: the register has the old value, the home the operation's result (for CAS the new value where the old one is
the expected one), every other byte and register stays. A .com update goes to its combiner and a .qnt update joins the
pending ones, with memory as it was; .spec writes nothing. To another module the request leaves and the value lands
later. -/
def Obligations.AtomicResults : Prop :=
  ∀ (d a : BitVec 5) (sc : BitVec 2) (u : BitVec 3) (z : BitVec 1) (o : BitVec 4) (s : State),
    let n := if z = 0 then 8 else 4
    let bits := 8 * n
    let old := fun (k : Nat) => s.readN k n
    let x := (s.x d).toNat % 2 ^ bits
    let amo := exec (.amo d a sc u z o) s
    let cas := exec (.cas d a u z) s
    (amoAccepted u sc z o = true →
      (∀ s1 tgt leaf k, s.reaches s1 (s.x a) n .atomic tgt leaf k → s.ordered → (u ≠ 5 → s.marked k n = false) →
        (u = 0 ∨ u = 1 ∨ u = 3 → s.pod.qnt = [] → beforeWrite s1 k n = some s1 →
          ∃ t, amo = .next t ∧ t.x d = BitVec.ofNat 64 (old k) ∧ t.readN k n = amoOp o.toNat bits (old k) x % 2 ^ bits ∧
            bytesKeptBut s t k n ∧ registersKeptBut s t (s.core.b + d.toNat) ∧ wentOn s t ∧ Kept s t) ∧
        (u = 2 → ∃ t, amo = .next t ∧ t.x d = 0 ∧ bytesKept s t ∧ registersKeptBut s t (s.core.b + d.toNat) ∧
          wentOn s t ∧ Kept s t ∧ ∃ p : Pending, t.pod.com = s.pod.com ++ [p] ∧ p.key = k ∧ p.n = n ∧
            p.op = o.toNat ∧ p.operand = BitVec.ofNat 64 x ∧ p.scope = sc.toNat ∧ p.held = true) ∧
        (u = 4 → qntFull s1 k = false → ∃ t, amo = .next t ∧ bytesKept s t ∧
          registersKeptBut s t (s.core.b + d.toNat) ∧ wentOn s t ∧ Kept s t ∧
          (s.pod.qntDone.find? (fun y => y.1 == k) = none → t.x d = BitVec.ofNat 64 (old k)) ∧
          ∃ p : Pending, t.pod.qnt = s.pod.qnt ++ [p] ∧ p.key = k ∧ p.n = n ∧ p.op = o.toNat ∧
            p.operand = BitVec.ofNat 64 x ∧ s.core.pts / 64 ≤ p.quantum) ∧
        (u = 5 → s1.specSound (s.x a).toNat k n leaf → ∃ t, amo = .next t ∧ t.x d = BitVec.ofNat 64 (specValue s1 (s.x a).toNat k n leaf) ∧ bytesKept s t ∧
          registersKeptBut s t (s.core.b + d.toNat) ∧ wentOn s t ∧ Kept s t)) ∧
      (∀ s1 m va leaf, resolve s s.ck s.core.space (s.x a) n .atomic = (.ok (.remote m va) leaf, s1) →
        s.ordered → s.core.running.isSome → ∃ t, amo = .next t ∧ askedFor s t 3 m va n ∧ landsLater s t d ∧ wentOn s t ∧
          bytesKept s t ∧ Kept s t ∧ ∀ l, t.core.logical l = s.core.logical l) ∧
      (∀ s1 c v, resolve s s.ck s.core.space (s.x a) n .atomic = (.trap c v, s1) → s.handlerReady →
        ∃ t, amo = .next t ∧ TookTrap s1 t c v)) ∧
    (amoAccepted u sc z o = false → s.handlerReady → ∃ t, amo = .next t ∧ TookTrap s t 1 s.wordVal) ∧
    (d ≠ 31 → u = 0 ∨ u = 1 ∨ u = 3 ∨ u = 5 →
      (∀ s1 tgt leaf k, s.reaches s1 (s.x a) n .atomic tgt leaf k → s.ordered → (u ≠ 5 → s.marked k n = false) →
        (u ≠ 5 → s.pod.qnt = [] → beforeWrite s1 k n = some s1 →
          ∃ t, cas = .next t ∧ t.x d = BitVec.ofNat 64 (old k) ∧
            t.readN k n = (if old k = x then (s.core.x (d.toNat + 1)).toNat % 2 ^ bits else old k) ∧
            bytesKeptBut s t k n ∧ registersKeptBut s t (s.core.b + d.toNat) ∧ wentOn s t ∧ Kept s t) ∧
        (u = 5 → s1.specSound (s.x a).toNat k n leaf → ∃ t, cas = .next t ∧ t.x d = BitVec.ofNat 64 (specValue s1 (s.x a).toNat k n leaf) ∧ bytesKept s t ∧
          registersKeptBut s t (s.core.b + d.toNat) ∧ wentOn s t ∧ Kept s t)) ∧
      (∀ s1 m va leaf, resolve s s.ck s.core.space (s.x a) n .atomic = (.ok (.remote m va) leaf, s1) →
        s.ordered → s.core.running.isSome → ∃ t, cas = .next t ∧ askedFor s t 4 m va n ∧ landsLater s t d ∧ wentOn s t ∧
          bytesKept s t ∧ Kept s t ∧ ∀ l, t.core.logical l = s.core.logical l) ∧
      (∀ s1 c v, resolve s s.ck s.core.space (s.x a) n .atomic = (.trap c v, s1) → s.handlerReady →
        ∃ t, cas = .next t ∧ TookTrap s1 t c v)) ∧
    (d = 31 ∨ ¬ (u = 0 ∨ u = 1 ∨ u = 3 ∨ u = 5) → s.handlerReady →
      ∃ t, cas = .next t ∧ TookTrap s t 1 s.wordVal)

/-- R182, R343: a FENCE completes where no use-annotated atomic of the task is under way or unanswered and, with .e, no
engine job, loom command or freezing of a loom of it: pts rises to the largest time of those operations and nothing else changes but the
pc. Until then it waits. -/
def Obligations.FenceOrders : Prop :=
  ∀ (e : BitVec 1) (s : State),
    let busy := usedPending s || answersPending s || (e == 1 && jobsPending s)
    (busy = false → exec (.fence e) s = .next { s with core := { s.core with
      pts := max s.core.pts s.core.usedTime, pc := s.core.unit.here + 4 } }) ∧
    (busy = true → exec (.fence e) s = .next { s with core := { s.core with waiting := true } })

/-- R19, R85, R244, R329, R338, R344, R373, R400: RESOLVE, POISON, CANCEL, DEPDEC, FSPILL and FFILL of a future. A
handle of bad form, and for all but CANCEL one of another kind, takes ILLEGAL with the handle, a module that is not
populated XFAULT. For a home in another cluster, with no access unacknowledged, no earlier message of the task to that
future under way in its cluster, and no cancellation, they complete: the message leaves with the handle and the issuer's
time, and the status lands later. While an access is unacknowledged they wait, a cancelled issuer too. -/
def Obligations.FutureOperands : Prop :=
  ∀ (i : Instr) (s : State) (d : BitVec 5) (h : Word) (code : Nat), futureOp s i = some (d, h, code) →
    (badForm h = true ∨ hKind h = 3 ∨ (hKind h = 2 ∧ code ≠ 11) → s.handlerReady →
      ∃ t, exec i s = .next t ∧ TookTrap s t 1 h) ∧
    (badForm h = false → hKind h = 1 → s.pod.populated.contains (hModule h) = false → s.handlerReady →
      ∃ t, exec i s = .next t ∧ TookTrap s t 4 h) ∧
    (FutureHandle s h → hModule h ≠ s.pod.module ∨ hCk h ≠ s.ck → unacked s = false → behindOwn s h = false →
      s.task.cancel = false → s.core.running.isSome → ∃ t, exec i s = .next t ∧ AskedHome s t code h d) ∧
    (FutureHandle s h → hModule h ≠ s.pod.module ∨ hCk h ≠ s.ck → unacked s = true →
      exec i s = .next { s with core := { s.core with waiting := true } })

/-- R44, R45, R65, R79, R80, R84, R171, R400: RESOLVE and POISON of a future of this cluster. A resident EMPTY future
that is no completion future is filled: FULL with X[b], or POISONED with the low 16 bits of X[b], at the issuer's
time, kept for .k, its waiters to be woken in order, and the status is 1; nothing else changes but the pc. A
completion future gives 16, a filled one 2, a handle outside the range 4, a cancelled issuer 8, and these change
nothing. All of this comes behind the wait for the task's accesses at other homes, and behind its earlier messages to that
future (R111, R168, R254). -/
def Obligations.ResolveAndPoison : Prop :=
  ∀ (d a b : BitVec 5) (k : BitVec 1) (s : State) (i : Instr) (st : FState) (v : Word),
    (i = .resolve d a b k ∧ st = .full ∧ v = s.x b) ∨
    (i = .poison d a b k ∧ st = .poisoned ∧ v = ((s.x b).setWidth 16).setWidth 64) →
    let h := s.x a
    (FutureHandle s h → unacked s = true → exec i s = .next { s with core := { s.core with waiting := true } }) ∧
    (FutureHandle s h → unacked s = false → behindOwn s h = false → s.task.cancel = true →
      ∃ t, exec i s = .next t ∧ WroteGeneral s t d 8) ∧
    (s.task.cancel = false → unacked s = false → behindOwn s h = false →
      (OutOfRange s h → ∃ t, exec i s = .next t ∧ WroteGeneral s t d 4) ∧
      (∀ e, ResidentHere s h e →
        (e.owner ≠ 0 → ∃ t, exec i s = .next t ∧ WroteGeneral s t d 16) ∧
        (e.owner = 0 → e.st ≠ .empty → ∃ t, exec i s = .next t ∧ WroteGeneral s t d 2) ∧
        (e.owner = 0 → e.st = .empty → ∃ t, exec i s = .next t ∧ WroteStatus s t d 1 ∧
          t.cluster.entry (hSlot h) = { e with
            st := st, value := v, fillTime := s.core.pts, age := s.cycle, toWake := e.waiters,
            keep := k == 1 || e.keep } ∧
          (∀ j, j ≠ hSlot h → t.cluster.entry j = s.cluster.entry j) ∧
          t = { s with clusters := t.clusters, core := { s.core with
            regs := t.core.regs, gmarks := t.core.gmarks, fails := t.core.fails, pc := t.core.pc } })))

/-- R41, R43, R65, R76 to R78, R84, R171, R418, R419: TOUCH of a future of this cluster. A filled one completes,
except under .p where it is not FULL: X[d] gets the word of its state, pts reaches its fill time, and the entry is
freed unless the variant is .k, it is kept, another task waits, a scan holds it or its task lives. Under .p a word
that is no FULL value takes POISONED with the handle. An EMPTY one gives 0x302 to its own task and 0x304 to privileged
code; a handle outside the range gives 0x301. The task's record has lost before what an earlier answer of another home
marked there (s for s0). -/
def Obligations.TouchDelivers : Prop :=
  ∀ (d a v : BitVec 5) (s0 : State), v.toNat ≤ 2 →
    let s := clearPoison s0
    let h := s.x a
    let own := s.task.visible = true ∧ s.task.home = h
    (∀ e, ResidentHere s h e → e.st ≠ .empty →
      (v ≠ 2 ∨ e.st = .full → ∃ t, exec (.touch d a v) s0 = .next t ∧ t.x d = touchWord e.st e.value ∧
        registersKeptBut s t (s.core.b + d.toNat) ∧ wentOn s t ∧ Kept s t ∧
        t.core.pts = max s.core.pts e.fillTime ∧
        (e.refill = [] → bytesKept s t) ∧
        (e.refill = [] → e.ended = false → v = 1 ∨ e.keep = true →
          (t.cluster.entry (hSlot h)).st = e.st ∧ (t.cluster.entry (hSlot h)).value = e.value) ∧
        (e.refill = [] → e.ended = false → v ≠ 1 → e.keep = false → e.scan0 = false → e.task = false →
          (∀ w, w ∈ e.waiters → some w = s.core.running) → (t.cluster.entry (hSlot h)).st = .free)) ∧
      (v = 2 → e.st ≠ .full → s.handlerReady → ∃ t, exec (.touch d a v) s0 = .next t ∧ TookTrap s t 0x0D h)) ∧
    (∀ e w, ResidentHere s h e → e.st = .empty →
      (own ∧ w = 0x8000000000000302) ∨ (¬ own ∧ s.core.priv = true ∧ w = 0x8000000000000304) →
      (v ≠ 2 → ∃ t, exec (.touch d a v) s0 = .next t ∧ WroteGeneral s t d w) ∧
      (v = 2 → s.handlerReady → ∃ t, exec (.touch d a v) s0 = .next t ∧ TookTrap s t 0x0D h)) ∧
    (OutOfRange s h →
      (v ≠ 2 → ∃ t, exec (.touch d a v) s0 = .next t ∧ t.x d = 0x8000000000000301 ∧
        registersKeptBut s t (s.core.b + d.toNat) ∧ wentOn s t ∧ Kept s t ∧
        ((∀ w, s.core.running = some w → (s.cluster.entry (hSlot (s.cluster.task w).touch)).refill = []) →
          bytesKept s t) ∧
        ((∀ w, s.core.running = some w → leaveList s s.ck w = s) → WroteGeneral s t d 0x8000000000000301)) ∧
      (v = 2 → s.handlerReady → ∃ t, exec (.touch d a v) s0 = .next t ∧ TookTrap s t 0x0D h)) ∧
    (badForm h = true ∨ hKind h ≠ 1 → s0.handlerReady → ∃ t, exec (.touch d a v) s0 = .next t ∧ TookTrap s0 t 1 h)

/-- R41, R47, R76, R418: a TOUCH of unprivileged code that finds another task's EMPTY future in its own cluster parks,
once the core has no loom command, gather or queue copy outstanding: the task is PARKED-TOUCH with the handle and the
address of the TOUCH, it stands once in the future's waiter list, and the core runs nothing. -/
def Obligations.TouchParks : Prop :=
  ∀ (d a v : BitVec 5) (s0 s1 : State) (e : Entry) (slot : Nat), v.toNat ≤ 2 →
    let s := clearPoison s0
    let h := s.x a
    ResidentHere s h e → e.st = .empty → s.core.priv = false → ¬ (s.task.visible = true ∧ s.task.home = h) →
    s.core.running = some slot → parkWaits s = false → parkTouch s h s.core.unit.base = .done s1 →
    ∃ t, exec (.touch d a v) s0 = .next t ∧ t.core.running = none ∧
      (t.cluster.task slot).st = .parkedTouch ∧ (t.cluster.task slot).touch = h ∧
      (t.cluster.task slot).pc = s.core.unit.base ∧
      (t.cluster.entry (hSlot h)).waiters = if e.waiters.contains slot then e.waiters else e.waiters ++ [slot]

/-- R35, R46, R57, R61, R82, R110, R170, R329, R338: DEPDEC and CANCEL of a task's future of this cluster, its entry
resident. DEPDEC takes one dependence, of the task where it is now: status 0 while more are left, 1 where it was the last,
and then the task stages its tiles or is ready; a count of 0 gives 2; no task, a cancelled one or a completion future gives
8. CANCEL ends a waiting, staging or ready task with status 1 and its future CANCELLED; a running or parked one is marked,
not to end before the canceller's time, with status 2; a future that is filled gives 4 and a handle outside the range 8.
An EMPTY completion future of a job takes PRIV of unprivileged code. -/
def Obligations.DependenceAndCancel : Prop :=
  ∀ (d a : BitVec 5) (s : State),
    let h := s.x a
    let slot := hSlot h
    let task := s.cluster.task slot
    let record := parkKey s s.ck task.space slot
    unacked s = false → behindOwn s h = false →
    (∀ e, ResidentHere s h e →
      (∀ k i, (k, i) = (if task.st = .free then (s.movedTask h).getD (s.ck, slot) else (s.ck, slot)) →
        let task := (s.clusterAt k).task i
        let record := parkKey s k task.space i
        (e.owner = 0 ∧ e.task = true ∧ task.st ≠ .free ∧ task.cancel = false →
          (task.deps = 0 → ∃ t, exec (.depdec d a) s = .next t ∧ WroteStatus s t d 2) ∧
          (1 < task.deps → ∃ t, exec (.depdec d a) s = .next t ∧ WroteStatus { s with mem := t.mem } t d 0 ∧
            bytesKeptBut s t record 64 ∧
            (t.clusterAt k).task i = { task with deps := task.deps - 1, pts := max task.pts s.core.pts }) ∧
          (task.deps = 1 → ∃ t, exec (.depdec d a) s = .next t ∧ t.x d = 1 ∧ wentOn s t ∧
            registersKeptBut s t (s.core.b + d.toNat) ∧ bytesKeptBut s t record 64 ∧
            ((t.clusterAt k).task i).deps = 0 ∧
            ((t.clusterAt k).task i).st = if task.tiles = [] then .ready else .staging)) ∧
        (e.owner ≠ 0 ∨ e.task = false ∨ task.st = .free ∨ task.cancel = true →
          ∃ t, exec (.depdec d a) s = .next t ∧ WroteGeneral s t d 8)) ∧
      (e.owner = 0 → e.st = .empty → task.st = .waiting ∨ task.st = .staging ∨ task.st = .ready →
        ∃ t, exec (.cancel d a) s = .next t ∧ t.x d = 1 ∧ wentOn s t ∧
          registersKeptBut s t (s.core.b + d.toNat) ∧ (t.cluster.task slot).st = .free ∧
          (e.task = true → task.visible = true → task.moved = false → e.ended = false → e.refill = [] →
            (t.cluster.entry slot).st = .cancelled)) ∧
      (e.owner = 0 → e.st = .empty → task.st = .running ∨ task.st = .parkedTouch ∨ task.st = .parkedPre →
        ∃ t, exec (.cancel d a) s = .next t ∧ WroteStatus { s with mem := t.mem } t d 2 ∧ bytesKeptBut s t record 64 ∧
          t.cluster.task slot = { task with cancel := true, pts := max task.pts s.core.pts }) ∧
      (e.st = .empty → hSub e.owner = 4 → s.core.priv = false → s.handlerReady →
        ∃ t, exec (.cancel d a) s = .next t ∧ TookTrap s t 2 s.wordVal) ∧
      (e.st ≠ .empty → ∃ t, exec (.cancel d a) s = .next t ∧ WroteGeneral s t d 4)) ∧
    (OutOfRange s h → (∃ t, exec (.cancel d a) s = .next t ∧ WroteGeneral s t d 8) ∧
      ∃ t, exec (.depdec d a) s = .next t ∧ WroteGeneral s t d 4)

/-- R64, R72 to R76, R86, R344: FSPILL and FFILL in this cluster. FSPILL of a resident entry that is not pinned writes
its record, with value, parent, owner, state and keep flag, into the first clear place of its window and the slot is
SPILLED, with status 1; a window without a clear place gives 16, a pinned entry 2, while no quantum is pending. FFILL of a
spilled future brings back its state, value, parent, owner and keep flag and clears its record, with status 1; a resident
one gives 8, and one that has no record 4. A handle outside the range gives 4 for both. -/
def Obligations.SpillAndRefill : Prop :=
  ∀ (d a : BitVec 5) (s : State), unacked s = false → behindOwn s (s.x a) = false → s.pod.qnt = [] →
    let h := s.x a
    let slot := hSlot h
    let window := fun space gen => spillWindow (s.heddleAt s.ck s.core.pts) s.ck space slot gen
    (∀ e, ResidentHere s h e →
      (∃ t, exec (.ffill d a) s = .next t ∧ WroteGeneral s t d 8) ∧
      (e.pinned = true → ∃ t, exec (.fspill d a) s = .next t ∧ WroteGeneral s t d 2) ∧
      (e.pinned = false → ∀ ks s1, window e.space e.gen = (some ks, s1) →
        (∀ k, ks.find? (fun k => !recValid s1 k) = some k →
          ∃ t, exec (.fspill d a) s = .next t ∧ WroteStatus { s with mem := t.mem } t d 1 ∧ bytesKeptBut s t k.key 64 ∧
            t.readN k.key 8 = h.toNat ∧ t.readN (k.key + 8) 8 = e.value.toNat ∧ recValid t k = true ∧
            t.readN (k.key + 16) 8 = e.parent.toNat ∧ t.readN (k.key + 24) 8 = e.owner.toNat ∧
            (t.readN (k.key + 32) 1).testBit 3 = e.keep ∧
            FState.ofCode (t.readN (k.key + 32) 1 % 8) = e.st ∧ (t.cluster.entry slot).st = .spilled) ∧
        (ks.find? (fun k => !recValid s1 k) = none → ∃ t, exec (.fspill d a) s = .next t ∧ WroteStatus s t d 16))) ∧
    (AwayHere s h → ∀ ks s1, window s.core.space (hGen h) = (some ks, s1) →
      (∀ k, ks.find? (recOf s1 h) = some k → ∃ t, exec (.ffill d a) s = .next t ∧
        WroteStatus { s with mem := t.mem } t d 1 ∧ bytesKeptBut s t (k.key + 32) 1 ∧ recValid t k = false ∧
        (t.cluster.entry slot).st = .ofCode (s.readN (k.key + 32) 1 % 8) ∧ (t.cluster.entry slot).gen = hGen h ∧
        (t.cluster.entry slot).value = BitVec.ofNat 64 (s.readN (k.key + 8) 8) ∧
        (t.cluster.entry slot).parent = BitVec.ofNat 64 (s.readN (k.key + 16) 8) ∧
        (t.cluster.entry slot).owner = BitVec.ofNat 64 (s.readN (k.key + 24) 8) ∧
        (t.cluster.entry slot).keep = (s.readN (k.key + 32) 1).testBit 3) ∧
      (ks.find? (recOf s1 h) = none → ∃ t, exec (.ffill d a) s = .next t ∧ WroteStatus s t d 4)) ∧
    (OutOfRange s h → (∃ t, exec (.fspill d a) s = .next t ∧ WroteGeneral s t d 4) ∧
      ∃ t, exec (.ffill d a) s = .next t ∧ WroteGeneral s t d 4)

/-- R28, R37, R44, R47, R48, R57, R170, R171, R226, R273, R350, R351, R451: HALT once the task's jobs, loom commands and use-annotated
atomics are performed. The core runs nothing any more. A cancelled task's future is CANCELLED; one that halts inside a
handler is poisoned with TCAUSE[7:0], one with a failed copy, gather or scatter or loom command with 0x100 + its code;
else it is FULL with X[a], after the write-back of output tiles; each at a time no earlier than the task's and than what it
waited for. HALT.r takes ILLEGAL for a successor that is 0, not
aligned or too high. -/
def Obligations.HaltEndsTheTask : Prop :=
  ∀ (a d : BitVec 5) (s : State) (slot : Nat) (i : Instr), i = .halt a ∨ (i = .haltR d a ∧ s.x d ≠ 0 ∧
      (s.x d).extractLsb' 0 5 = 0 ∧ (s.x d).toNat < 2 ^ 40) →
    s.core.running = some slot → jobsPending s = false → usedPending s = false →
    let task := s.cluster.task slot
    let core := s.core
    let outs := task.tiles.any (fun x => x.kind != 1)
    let record := parkKey s s.ck task.space slot
    let apart := fun (k : Nat) => (k < arrayKey s.ck 0 ∨ arrayKey s.ck 262144 ≤ k) ∧ (k < record ∨ record + 64 ≤ k)
    let ends := fun (st : FState) (v : Word) => ∃ t, exec i s = .next t ∧
      EndedTask s t slot st v (max (max core.pts task.pts) core.usedTime)
    (task.cancel = true → ends .cancelled 0) ∧
    (task.cancel = false → 0 < core.trap.depth → ends .poisoned ((core.trap.cause.extractLsb' 0 8).setWidth 64)) ∧
    (task.cancel = false → core.trap.depth = 0 → ∀ l c fs, core.fails = (l, c) :: fs →
      ends .poisoned (BitVec.ofNat 64 ((256 + c) % 65536))) ∧
    (task.cancel = false → core.trap.depth = 0 → core.fails = [] → core.loom.firstFail ≠ 0 →
      ends .poisoned (BitVec.ofNat 64 ((256 + core.loom.firstFail) % 65536))) ∧
    (task.cancel = false → core.trap.depth = 0 → core.fails = [] → core.loom.firstFail = 0 →
      (outs = false → ends .full (s.x a)) ∧
      (outs = true → ∃ t, exec i s = .next t ∧ t.core.running = none ∧ (t.cluster.task slot).st = .ending ∧
        (t.cluster.task slot).result = s.x a ∧ (t.cluster.task slot).pts = max (max core.pts task.pts) core.usedTime ∧
        ∀ k, apart k → t.byteAt k = s.byteAt k)) ∧
    (s.handlerReady → s.x d = 0 ∨ (s.x d).extractLsb' 0 5 ≠ 0 ∨ 2 ^ 40 ≤ (s.x d).toNat →
      ∃ t, exec (.haltR d a) s = .next t ∧ TookTrap s t 1 (s.x d))

/-- R25 to R28, R30, R31, R35, R38, R63, R69, R71, R413: SPAWN of an aligned entry whose descriptor reads without error,
with no access unacknowledged. Where the almanac gives a slot it completes with the child's handle. Where the descriptor
is faultless and the parent is not cancelled, the child has the entry, the arguments, the handle and the launch of R31,
its future is EMPTY with the parent link, and it waits, stages its tiles or is ready. A full almanac takes FTFULL. -/
def Obligations.SpawnCreatesATask : Prop :=
  ∀ (f a : BitVec 5) (d : BitVec 16) (s : State), s.core.unit.wides ≤ 2 → a.toNat ≤ 28 →
    let e := s.core.unit.here + 4 * s.immBits d
    (e.extractLsb' 0 5 = 0 → ∀ s1 p, s.reachesAll s1 .load [(e - 32, 32)] [p] → s1.soundFor (e - 32).toNat p.key 32 p.leaf →
      s.ordered → s.pod.qnt = [] → unacked s = false → s.core.answers = [] → s.core.asked = 0 →
      let s2 := (loadMem s1 (e - 32).toNat p.key 32 p.leaf).2
      let desc := descOf (leBytes 32 (s1.loadValue (e - 32).toNat p.key 32 p.leaf))
      let args := (List.range 4).map fun j => s.core.x (a.toNat + j)
      let tiles := tilesOf desc args
      (∀ slot gen s3, allocateAt s2 s.ck s.core.space s2.core.pts = (.got slot gen, s3) →
        let h := futureHandle s.pod.module s.ck slot gen
        ∃ t, exec (.spawn f a d) s = .next t ∧ t.x f = h ∧ wentOn s t ∧
          registersKeptBut s t (s.core.b + f.toNat) ∧
          (descFail desc tiles s3.cluster.poolBytes = 0 → parentCancelled s3 (parentLink s.task) = false →
            let c := t.cluster.task slot
            c.entry = e ∧ [c.a0, c.a1, c.a2, c.a3] = args ∧ c.a4 = h ∧ c.launch = s.task.launch ∧
            c.cls = childClass desc s.task.cls ∧ c.deadline = s.task.deadline ∧ c.deps = desc.deps ∧
            c.pts = t.core.pts ∧ c.visible = true ∧
            c.st = (if desc.deps ≠ 0 then .waiting else if tiles = [] then .ready else .staging) ∧
            (t.cluster.entry slot).st = .empty ∧ (t.cluster.entry slot).gen = gen ∧
            (t.cluster.entry slot).parent = parentLink s.task ∧
            bytesKeptBut s t (parkKey s s.ck s.core.space slot) 64)) ∧
      (∀ v s3, allocateAt s2 s.ck s.core.space s2.core.pts = (.full v, s3) → s.handlerReady →
        ∃ t, exec (.spawn f a d) s = .next t ∧ TookTrap s3 t 8 (BitVec.ofNat 64 v))) ∧
    (e.extractLsb' 0 5 ≠ 0 → s.handlerReady → ∃ t, exec (.spawn f a d) s = .next t ∧ TookTrap s t 1 e)

/-- R33, R54, R55, R69, R88, R308, R309, R355: LAUNCH of an aligned record in memory of this module whose handle field
can be written, while the die's queue has room and the ladder table and the almanac give a record and a slot, and for
the first launch of a graph a second of each for the graph and its completion future, and neither its phase nor its
graph was cancelled. It completes with the completion future's handle in X[d]; the launch's handle stands in bytes 8
to 15 of the record and every other byte stays; the record joins the end of the die's queue, and the launch has its
ladder record. A record that is not aligned to 64 takes ALIGN; where it must spill and the area is full, LQFULL with
the capacity; where the ladder table has no free record, LQFULL with its size (the model's choice, log entry 20). That a
handle has the generation behind its record's is the model's choice too (log entry 51). -/
def Obligations.LaunchQueues : Prop :=
  ∀ (d a : BitVec 5) (s : State),
    let q := s.x a
    let die := s.ck / 4096
    (q.extractLsb' 0 6 = 0 → ∀ s1 s2 ps p, s.reachesAll s1 .load [(q, 64), (q + 64, 64)] ps →
      s1.reachesAll s2 .store [(q + 8, 8)] [p] → unacked s = false → beforeParts s2 [p] = some s2 →
      s.ordered → s.core.answers = [] → s.core.asked = 0 → s.pod.qnt = [] →
      ∀ lo hi s4, loadAll s2 ps [] = ([(lo, none), (hi, none)], s4) →
      let words := (List.range 16).map fun j => BitVec.ofNat 64 ((lo + hi * 2 ^ 512) >>> (64 * j))
      let tag := ((words.getD 13 0).extractLsb' 0 32).toNat
      let phase := ((jobOf s4 s.core.space).map (·.2.current)).getD 0
      (∀ i slot gen s6, mustSpill s4 = false → freeLadder s4 die = some i →
        allocateAt s4 s.ck s.core.space s4.core.pts = (.got slot gen, s6) → parentCancelled s4 phase = false →
        (∀ g, tag ≠ 0 → graphOf s4 s.core.space tag = some g → parentCancelled s4 g = false) →
        (tag = 0 ∨ (graphOf s4 s.core.space tag).isSome ∨
          (freeLadderBut s4 die (some i)).isSome ∧
          ∃ i2 gen2 s7, allocateAt (s6.newEntry s.ck s.core.space slot gen 0 0 0 true) s.ck s.core.space s4.core.pts =
            (.got i2 gen2, s7)) →
        let fut := futureHandle s.pod.module s.ck slot gen
        let made := ((mget (fun _ => ({} : Ladder)) (s.dieAt die).ladder i).gen + 1) % 16777216
        let h := ladderHandle s.pod.module die i 1 made
        ∃ t, exec (.launch d a) s = .next t ∧ t.x d = fut ∧ wentOn s t ∧
          registersKeptBut s t (s.core.b + d.toNat) ∧ t.readN p.key 8 = h.toNat ∧ bytesKeptBut s t p.key 8 ∧
          (∃ r : QLaunch, (t.dieAt die).launchQ = (s.dieAt die).launchQ ++ [r] ∧ r.words = words.set 1 h ∧
            r.handle = h ∧ r.space = s.core.space ∧ (recordFault words ≠ 0 → r.refused = 0x207)) ∧
          (mget (fun _ => ({} : Ladder)) (t.dieAt die).ladder i).kind = .launch ∧
          (mget (fun _ => ({} : Ladder)) (t.dieAt die).ladder i).future = fut ∧
          (t.cluster.entry slot).st = .empty ∧ (t.cluster.entry slot).owner = h) ∧
      (mustSpill s4 = false → freeLadder s4 die = none → s.handlerReady →
        ∃ t, exec (.launch d a) s = .next t ∧ TookTrap s4 t 9 4096) ∧
      (∀ hp s5, mustSpill s4 = true → lspillHeader (s4.heddleAt s.ck s4.core.pts) s.ck s.core.space = (some hp, s5) →
        s5.readN (hp.key + 12) 4 = s5.readN hp.key 4 → s.handlerReady →
        ∃ t, exec (.launch d a) s = .next t ∧ TookTrap s5 t 9 (BitVec.ofNat 64 (s5.readN hp.key 4)))) ∧
    (q.extractLsb' 0 6 ≠ 0 → s.handlerReady → ∃ t, exec (.launch d a) s = .next t ∧ TookTrap s t 3 q)

/-- R49 to R51, R134, R339, R345: GANG of size 2, 4 or 8 outside a gang, its save region reserved or with room in the
pool, the other cores of the block free and of the core's context: it completes, the gang stands with the core as
leader, and every other core of the block follows it with empty queues and vector registers that read as 0. DISBAND of
a standing gang with no job that is to land in a follower completes: no core follows any more, the size code is 0, and
the leader's registers stay. GANG in a gang or with size code 0, and DISBAND outside one, take GANG with the word. -/
def Obligations.Gangs : Prop :=
  ∀ (c : BitVec 2) (s : State),
    let others := (blockOf (s.cur % 8) (gangSize c.toNat)).drop 1
    (s.core.gang.standing = false → c ≠ 0 →
      s.core.gang.save.isSome ∨
        (s.cluster.reserve (1536 * (gangSize c.toNat - 1)) (s.core.running.getD 4096) 3).isSome →
      (∀ m ∈ others, (s.coreAt (s.ck * 8 + m)).running = none ∧ (s.coreAt (s.ck * 8 + m)).gang.follows = none ∧
        (s.coreAt (s.ck * 8 + m)).space = s.core.space) →
      ∃ t, exec (.gang c) s = .next t ∧ t.core.gang.standing = true ∧ t.core.gang.code = c.toNat ∧
        t.core.gang.leader = s.cur % 8 ∧ t.core.gang.save.isSome ∧ wentOn s t ∧ bytesKept s t ∧
        (∀ l, t.core.logical l = s.core.logical l) ∧ (∀ m, t.core.v m = s.core.v m) ∧
        ∀ m ∈ others, (t.coreAt (s.ck * 8 + m)).gang.follows = some (s.cur % 8) ∧
          (∀ n, (t.coreAt (s.ck * 8 + m)).v n = 0) ∧ (t.coreAt (s.ck * 8 + m)).queues = []) ∧
    (s.core.gang.standing = true ∨ c = 0 → s.handlerReady →
      ∃ t, exec (.gang c) s = .next t ∧ TookTrap s t 0x13 s.wordVal) ∧
    (s.core.gang.standing = true → s.core.gang.follows = none →
      s.pod.jobs.any (fun j => j.ck == s.ck && j.core == s.cur % 8 && !j.dead && 1 < j.members) = false →
      ∃ t, exec .disband s = .next t ∧ t.core.gang = { s.core.gang with standing := false, code := 0, save := none, forming := 0 } ∧
        followersOf t t.cur = [] ∧ wentOn s t ∧ bytesKept s t ∧ (∀ l, t.core.logical l = s.core.logical l) ∧
        (∀ m, t.core.v m = s.core.v m) ∧ t.core.queues = s.core.queues) ∧
    (s.core.gang.standing = false → s.handlerReady →
      ∃ t, exec .disband s = .next t ∧ TookTrap s t 0x13 s.wordVal)

/-- R53, R132, R247, R251, R326, R352, R404: RESIDE, HOLD and BIND. RESIDE of a task without a name, its core's name
record free, completes with a name of that core and the record's generation, and the task belongs to the job's
standing launch; a task with a name gets it again, and where another group holds the record X[d] gets 0. HOLD with no
hold standing sets the expected count less the arrivals, waits while one stands, and refuses a count above 65535. BIND
writes the channel's binding field by field, at no class above the issuer's, and returns the old one. -/
def Obligations.NamesHoldsAndBindings : Prop :=
  ∀ (d a b : BitVec 5) (n : BitVec 4) (s : State),
    (∀ slot, s.core.running = some slot →
      let r := mget (fun _ => ({} : NameRec)) s.cluster.names (s.cur % 8)
      (s.task.name ≠ 0 → ∃ t, exec (.reside d) s = .next t ∧ WroteGeneral s t d s.task.name) ∧
      (s.task.name = 0 → r.slot.isSome ∨ r.moved = true → ∃ t, exec (.reside d) s = .next t ∧ WroteGeneral s t d 0) ∧
      (s.task.name = 0 → r.slot = none → r.moved = false →
        let code := if s.core.gang.standing then s.core.gang.code else 0
        let name := groupName s.pod.module s.ck (s.cur % 8) code r.gen
        ∃ t, exec (.reside d) s = .next t ∧ t.x d = name ∧ wentOn s t ∧
          registersKeptBut s t (s.core.b + d.toNat) ∧ Kept s t ∧
          bytesKeptBut s t (parkKey s s.ck s.task.space slot) 64 ∧ (t.cluster.task slot).name = name ∧
          (t.cluster.task slot).launch = standingLaunch s s.core.space ∧
          mget (fun _ => ({} : NameRec)) t.cluster.names (s.cur % 8) = { r with slot := some slot, code := code })) ∧
    (let h := mget (fun _ => ({} : Hold)) s.core.holds d.toNat;
      (d.toNat < 24 → (s.x a).toNat < 65536 →
        (h.cnt = 0 → exec (.hold d a) s = .next { s with core := { s.core with
          holds := mput s.core.holds d.toNat { cnt := (s.x a).toNat - h.arrivals, arrivals := 0 },
          pc := s.core.unit.here + 4 } }) ∧
        (h.cnt ≠ 0 → exec (.hold d a) s = .next { s with core := { s.core with waiting := true } })) ∧
      (d.toNat < 24 → 65536 ≤ (s.x a).toNat → s.handlerReady →
        ∃ t, exec (.hold d a) s = .next t ∧ TookTrap s t 1 (s.x a)) ∧
      (24 ≤ d.toNat → s.handlerReady → ∃ t, exec (.hold d a) s = .next t ∧ TookTrap s t 1 s.wordVal)) ∧
    (let cfg := s.x b;
      let old := mget (fun _ => (0 : Word)) s.ctx.chb n.toNat;
      (cfg.toNat < 8192 → (s.x a).extractLsb' 0 5 = 0 → (s.x a).toNat < 2 ^ 40 → s.task.cls < 4 →
        s.x a = 0 ∨ old.extractLsb' 0 35 ≠ 0 ∨ (s.cluster.reserve 8192 4096 4).isSome →
        ∃ t w, exec (.bind d a b n) s = .next t ∧ t.x d = old ∧ wentOn s t ∧ bytesKept s t ∧ Kept s t ∧
          registersKeptBut s t (s.core.b + d.toNat) ∧ w = mget (fun _ => (0 : Word)) t.ctx.chb n.toNat ∧
          (s.x a = 0 → w = 0) ∧
          (s.x a ≠ 0 → w.extractLsb' 0 35 = (s.x a).extractLsb' 5 35 ∧ w.extractLsb' 35 4 = cfg.extractLsb' 9 4 ∧
            w.extractLsb' 39 3 = cfg.extractLsb' 6 3 ∧ w.extractLsb' 42 1 = cfg.extractLsb' 5 1 ∧
            w.extractLsb' 45 3 = cfg.extractLsb' 0 3 ∧ w.extractLsb' 48 16 = 0 ∧
            (w.extractLsb' 43 2).toNat = if s.core.priv then (cfg.extractLsb' 3 2).toNat
              else max (cfg.extractLsb' 3 2).toNat s.task.cls)) ∧
      (8192 ≤ cfg.toNat → s.handlerReady → ∃ t, exec (.bind d a b n) s = .next t ∧ TookTrap s t 1 cfg) ∧
      (cfg.toNat < 8192 → (s.x a).extractLsb' 0 5 ≠ 0 ∨ 2 ^ 40 ≤ (s.x a).toNat → s.handlerReady →
        ∃ t, exec (.bind d a b n) s = .next t ∧ TookTrap s t 1 (s.x a)))

/-- R173, R235 to R238, R241, R242, R267, R336, R347, R409: CPY, CPY to a queue, GATH and SCAT with fewer than 96 jobs
of the core outstanding and no access unacknowledged. They complete at pts + 1 with their job in flight: its
addresses, length, footprints and status destination, or for a copy the failure of one of its addresses. A copy above
16 MiB takes ILLEGAL with the length, one to a queue that is no multiple of 64 ALIGN; a misaligned element takes ALIGN
before another element takes XFAULT. -/
def Obligations.EngineJobsIssue : Prop :=
  ∀ (a r d i : BitVec 5) (q : BitVec 3) (ty : BitVec 5) (s : State), unacked s = false → outstanding s < 96 →
    ((s.x a).toNat ≤ 2 ^ 24 → ∃ t j, exec (.cpy a r d) s = .next t ∧ IssuedJob s t j ∧ j.kind = .copy ∧
      j.src = s.x r ∧ j.dst = s.x d ∧ j.len = (s.x a).toNat ∧ j.dest = s.core.b + a.toNat ∧ j.queue = none ∧
      (∀ rs s1, segments s s.ck s.core.space (s.x r) (s.x a).toNat false = (.ok rs, s1) →
        (∀ ws s2, segments s1 s.ck s.core.space (s.x d) (s.x a).toNat true = (.ok ws, s2) →
          j.rsegs = rs ∧ j.wsegs = ws ∧ j.code = 0) ∧
        (∀ c e s2, segments s1 s.ck s.core.space (s.x d) (s.x a).toNat true = (.bad c e, s2) →
          j.code = c ∧ j.reason = e)) ∧
      ∀ c e s1, segments s s.ck s.core.space (s.x r) (s.x a).toNat false = (.bad c e, s1) →
        (j.code = c ∧ j.reason = e) ∨ ∃ s2, segments s1 s.ck s.core.space (s.x d) (s.x a).toNat true = (.bad j.code j.reason, s2)) ∧
    ((s.x a).toNat ≤ 2 ^ 24 → (s.x a).toNat % 64 = 0 → s.canReserve q.toNat →
      ∃ t j, exec (.cpyQ a r q) s = .next t ∧ IssuedJob s t j ∧ j.kind = .copy ∧ j.src = s.x r ∧
        j.len = (s.x a).toNat ∧ j.dest = s.core.b + a.toNat ∧ j.queue = some q.toNat ∧
        (t.core.q q.toNat).region.isSome) ∧
    (2 ^ 24 < (s.x a).toNat → s.handlerReady → (∃ t, exec (.cpy a r d) s = .next t ∧ TookTrap s t 1 (s.x a)) ∧
      ∃ t, exec (.cpyQ a r q) s = .next t ∧ TookTrap s t 1 (s.x a)) ∧
    ((s.x a).toNat ≤ 2 ^ 24 → (s.x a).toNat % 64 ≠ 0 → s.handlerReady →
      ∃ t, exec (.cpyQ a r q) s = .next t ∧ TookTrap s t 3 (s.x a)) ∧
    (moveType ty = true → ∀ idx, headV s i = .inl idx →
      let w := laneBits ty.toNat
      let addrs := elementAddrs (s.x a) idx ty.toNat
      (∀ gs s1, elementSegs .gather (w / 8) 0 s addrs = (gs, none, none, s1) →
        d.toNat < 24 ∨ (s.core.gang.standing = false ∧ s.canReserve (d.toNat - 24)) →
        ∃ t j, exec (.gath d a i ty) s = .next t ∧ IssuedJob s t j ∧ j.kind = .gather ∧ j.dest = d.toNat ∧
          j.queue = (if d.toNat < 24 then none else some (d.toNat - 24)) ∧ j.rsegs = gs ∧ j.width = w / 8 ∧
          j.members = s.members.length) ∧
      (∀ gs l c v x s1, elementSegs .gather (w / 8) 0 s addrs = (gs, some (l, c, v), x, s1) → s.handlerReady →
        ∃ t, exec (.gath d a i ty) s = .next t ∧ TookTrap s1 t c v) ∧
      (∀ gs l c v s1, elementSegs .gather (w / 8) 0 s addrs = (gs, none, some (l, c, v), s1) → s.handlerReady →
        ∃ t, exec (.gath d a i ty) s = .next t ∧ TookTrap s1 t c v) ∧
      ∀ vs, headV s d = .inl vs →
        (∀ gs s1, elementSegs .scatter (w / 8) 0 s addrs = (gs, none, none, s1) →
          ∃ t j, exec (.scat d a i ty) s = .next t ∧ IssuedJob s t j ∧ j.kind = .scatter ∧ j.wsegs = gs ∧
            j.width = w / 8 ∧ j.readDone = true ∧
            j.data = vs.flatMap fun v => (lanes v w).take (if w = 64 then 8 else 16)) ∧
        (∀ gs l c v x s1, elementSegs .scatter (w / 8) 0 s addrs = (gs, some (l, c, v), x, s1) → s.handlerReady →
          ∃ t, exec (.scat d a i ty) s = .next t ∧ TookTrap s1 t c v) ∧
        ∀ gs l c v s1, elementSegs .scatter (w / 8) 0 s addrs = (gs, none, some (l, c, v), s1) → s.handlerReady →
          ∃ t, exec (.scat d a i ty) s = .next t ∧ TookTrap s1 t c v)

/-- R50, R124, R125, R127, R316: ADV by c + 1 on a queue. Where every member of the gang has room for that many slots,
or that many elements, and its ring is reserved or the pool has room for it, ADV completes: the tail form publishes
the slots, the head form frees them, and no other queue, register or byte of memory changes. While the pool is full it
waits. A member that has not the room or the elements takes QUNDER with its queue, its form and the count. -/
def Obligations.QueueAdvance : Prop :=
  ∀ (q : BitVec 5) (e : BitVec 1) (c : BitVec 4) (s : State), 24 ≤ q.toNat →
    let m := q.toNat - 24
    let n := c.toNat + 1
    let fits := fun (k : Nat) => if e = 1 then decide (((s.coreAt k).q m).n + n ≤ 16) else decide (n ≤ ((s.coreAt k).q m).n)
    (s.members.all fits = true → (reserveMembers s q.toNat s.members).isSome →
      ∃ t, exec (.adv q e c) s = .next t ∧ wentOn s t ∧ bytesKept s t ∧ (∀ l, t.core.logical l = s.core.logical l) ∧
        t.core.vregs = s.core.vregs ∧ t.core.mregs = s.core.mregs ∧ KeptSpecial s t ∧
        ∀ k ∈ s.members, ((t.coreAt k).q m).region.isSome ∧ ∀ j, (t.coreAt k).q j =
          if j ≠ m then (s.coreAt k).q j else
            let x := { (s.coreAt k).q m with region := ((t.coreAt k).q m).region }
            if e = 1 then { x with n := x.n + n } else { x with head := (x.head + n) % 16, n := x.n - n }) ∧
    (s.members.all fits = true → reserveMembers s q.toNat s.members = none →
      exec (.adv q e c) s = .next { s with core := { s.core with waiting := true } }) ∧
    (s.members.all fits = false → s.handlerReady → ∃ t, exec (.adv q e c) s = .next t ∧
      TookTrap s t 0x0F (BitVec.ofNat 64 (m + 8 * e.toNat + 16 * n)))

/-- R137, R239, R240, R267, R399: PERMIT. A base or a length that is no multiple of 128 takes ALIGN, a base that is no
local address, a length above 229376, a range beyond the scratchpad or one in the park area XFAULT with its reason, in
that order. Otherwise PERMIT completes: a range that is not the task's own gives 2, one more than 32 permits 1, else
the permit is granted under the lowest free number n, which is the model's choice (log entry 69), and the status is 256 n.
Length 0 revokes the task's permits that cover the offset and gives the lowest of their numbers times 256, or 2 where there
is none. -/
def Obligations.Permits : Prop :=
  ∀ (d a b : BitVec 5) (s : State),
    let base := s.x a
    let len := (s.x b).toNat
    let aligned := base.extractLsb' 0 7 = 0 ∧ (s.x b).extractLsb' 0 7 = 0
    let free := firstBelow 32 (fun i => !s.cluster.permits.any (fun p => p.1 == i))
    (∀ off, aligned → formOf base = .near off → 0 < len → len ≤ 229376 → off + len ≤ s.cluster.spad →
      s.cluster.inPark off len = false →
      (ownRange s off len = false → ∃ t, exec (.permit d a b) s = .next t ∧ WroteGeneral s t d 2) ∧
      (ownRange s off len = true → free = none → ∃ t, exec (.permit d a b) s = .next t ∧ WroteGeneral s t d 1) ∧
      (ownRange s off len = true → ∀ i, free = some i →
        ∃ t p, exec (.permit d a b) s = .next t ∧ WroteStatus s t d (BitVec.ofNat 64 (256 * i)) ∧
          t.cluster.permits = mput s.cluster.permits i p ∧ p.off = off ∧ p.len = len ∧ p.space = s.core.space ∧
          p.slot = s.core.running.getD 4096)) ∧
    (∀ off, aligned → formOf base = .near off → len = 0 →
      let mine := fun (p : Nat × Permit) => s.core.running == some p.2.slot && decide (p.2.off ≤ off) &&
        decide (off < p.2.off + p.2.len)
      ((∀ p ∈ s.cluster.permits, mine p = false) → ∃ t, exec (.permit d a b) s = .next t ∧ WroteGeneral s t d 2) ∧
      ∀ p ∈ s.cluster.permits, mine p = true → (∀ q ∈ s.cluster.permits, mine q = true → p.1 ≤ q.1) →
        ∃ t, exec (.permit d a b) s = .next t ∧ WroteStatus s t d (BitVec.ofNat 64 (256 * p.1)) ∧
        t.cluster.permits = s.cluster.permits.filter (fun p => !mine p)) ∧
    (s.handlerReady →
      (¬ aligned → ∃ t, exec (.permit d a b) s = .next t ∧ TookTrap s t 3 base) ∧
      (aligned → (∀ off, formOf base ≠ .near off) →
        ∃ t, exec (.permit d a b) s = .next t ∧ TookTrap s t 4 (xval base 6)) ∧
      ∀ off, aligned → formOf base = .near off → 0 < len →
        (229376 < len ∨ s.cluster.spad < off + len →
          ∃ t, exec (.permit d a b) s = .next t ∧ TookTrap s t 4 (xval base 7)) ∧
        (len ≤ 229376 → off + len ≤ s.cluster.spad → s.cluster.inPark off len = true →
          ∃ t, exec (.permit d a b) s = .next t ∧ TookTrap s t 4 (xval base 9)))

/-- R168, R243 to R246, R249, R320: AMSG and AMSG.p. With a register block up to 27, a handler a program may name, a
well-formed target of a populated module, no access unacknowledged and a free output slot at the station they
complete: the message leaves with the handler, the four words, the issuer's time and sender word, and the status tells
0, or 8 where the target's SPACE differs and no cross-space register lets it through; then nothing leaves. What SPACE a
target on another module has is free (log entry 2). While an access is unacknowledged or no slot is free they wait. The conditions take ILLEGAL with the block number, the handler
or the target, a module that is not populated XFAULT. -/
def Obligations.MessagesLeave : Prop :=
  ∀ (d a b : BitVec 5) (s : State) (place : Bool) (i : Instr),
    (place = false ∧ i = .amsg d a b) ∨ (place = true ∧ i = .amsgP d a b) →
    let target := s.x a
    let formed := if place then badPlace target = false else badForm target = false ∧ hKind target ≠ 2
    (b.toNat ≤ 27 → goodHandler (s.x b) = true → formed → s.pod.populated.contains (hModule target) = true →
      (unacked s = false → stationFull s = false →
        (s.passes target place 34 → ∃ t p, exec i s = .next t ∧ WroteStatus s t d (statusWord 0 0 0 14) ∧ s.sent t p ∧
          p.target = target ∧ p.dstModule = hModule target ∧ p.dst = hCk target ∧ p.msg.handler = (s.x b).toNat ∧
          p.msg.w0 = s.core.x (b.toNat + 1) ∧ p.msg.w1 = s.core.x (b.toNat + 2) ∧ p.msg.w2 = s.core.x (b.toNat + 3) ∧
          p.msg.w3 = s.core.x (b.toNat + 4) ∧ p.msg.time = s.core.pts ∧ p.msg.space = s.core.space ∧
          p.msg.sender = senderWord s.task ∧ p.msg.cls = s.task.cls) ∧
        (¬ s.passes target place 34 → ∃ t, exec i s = .next t ∧
          WroteGeneral { s with free := t.free } t d (statusWord 8 0 0 14) ∧ s.free ≤ t.free)) ∧
      (unacked s = true ∨ stationFull s = true →
        exec i s = .next { s with core := { s.core with waiting := true } })) ∧
    (s.handlerReady →
      (27 < b.toNat → ∃ t, exec i s = .next t ∧ TookTrap s t 1 (b.setWidth 64)) ∧
      (b.toNat ≤ 27 → goodHandler (s.x b) = false → ∃ t, exec i s = .next t ∧ TookTrap s t 1 (s.x b)) ∧
      (b.toNat ≤ 27 → goodHandler (s.x b) = true → ¬ formed → ∃ t, exec i s = .next t ∧ TookTrap s t 1 target) ∧
      (b.toNat ≤ 27 → goodHandler (s.x b) = true → formed → s.pod.populated.contains (hModule target) = false →
        ∃ t, exec i s = .next t ∧ TookTrap s t 4 target))

/-- R168, R243 to R246, R248, R249, R407: RSTV of all 16 lanes and RSTV of a range of lanes, with a valid range, to a
group name of a populated module, with no access unacknowledged and a free output slot at the station. They complete:
the store leaves with the register number, the first lane, the count and that many lanes of the leader's vector, at
the issuer's time, and the status tells 0, or 8 where the target's SPACE (free on another module, log entry 2) differs and
no cross-space register lets it through; then nothing leaves. Until then they wait; a target that is no group name takes ILLEGAL with it. -/
def Obligations.GroupStoresLeave : Prop :=
  ∀ (st g l n v : BitVec 5) (s : State) (f cnt : Nat) (i : Instr),
    (i = .rstv st g n v ∧ f = 0 ∧ cnt = 16) ∨
    (i = .rstvLaneRange st g l n v ∧ f = ((s.x l).extractLsb' 0 7).toNat ∧ cnt = ((s.x l).extractLsb' 8 7).toNat ∧
      (s.x l).getLsbD 7 = false ∧ (s.x l).toNat < 32768 ∧ 0 < cnt ∧ cnt ≤ 16) →
    n.toNat < 24 → v.toNat < 24 →
    let target := s.x g
    (badForm target = false → hKind target = 3 → s.pod.populated.contains (hModule target) = true →
      (unacked s = false → stationFull s = false →
        (s.passes target false 33 → ∃ t p, exec i s = .next t ∧ WroteStatus s t st (statusWord 0 0 0 15) ∧ s.sent t p ∧
          p.target = target ∧ p.dstModule = hModule target ∧ p.dst = hCk target ∧ p.msg.handler = 16 ∧
          p.msg.time = s.core.pts ∧ fld p.form 5 5 = n.toNat ∧ fld p.form 11 7 = f ∧ fld p.form 18 5 = cnt ∧
          ∀ j, j < cnt → laneOf p.payload 32 j = laneOf (s.core.v v.toNat) 32 j) ∧
        (¬ s.passes target false 33 → ∃ t, exec i s = .next t ∧
          WroteGeneral { s with free := t.free } t st (statusWord 8 0 0 15) ∧ s.free ≤ t.free)) ∧
      (unacked s = true ∨ stationFull s = true →
        exec i s = .next { s with core := { s.core with waiting := true } })) ∧
    (s.handlerReady → badForm target = true ∨ hKind target ≠ 3 → ∃ t, exec i s = .next t ∧ TookTrap s t 1 target)

/-- R50, R193, R197, R206, R279, R331, R332, R374, R375, R379: MCOLL, CKACC and CKTST. MCOLL of a moment register
without a negative variance, or with negative variances taken as zero, completes: every lane of the leader's
destination is the mean, the deviation, the bound or the sample of its source lane, rounded once, and CVTOVF is taken
for the first lane whose conversion to BF16 overflows while overflow traps. CKACC adds F32 lanes to nearest even
whatever the modes say. CKTST goes on where no lane of any member fails, else takes CKFAIL with the lowest failing
lane and their number. -/
def Obligations.CollapseAndChecks : Prop :=
  (∀ (d a : BitVec 5) (f : BitVec 2) (k : BitVec 3) (t : BitVec 1) (s : State), a.toNat < 16 → 2 ≤ f.toNat ∨ k = 0 →
    s.core.gang.standing = false → s.canWrite d →
    let x := s.collapsed a f k t
    (s.clamps = true ∨ negSource (momSources s t [a.toNat]) = none →
      (t = 0 → ∃ u v, exec (.mcoll d a f k t) s = .next u ∧ WroteVector s u d [v] ∧ ∀ l, l < 16 →
        laneOf v 32 l = f32.arith s.rm (stochBits s s.cur l) (x l) % 2 ^ 32) ∧
      (t = 1 → let r := fun (l : Nat) => bf16.conv s.rm (stochBits s s.cur l) s.ovf (rnd s.rm (x l))
        ((∀ l, l < 32 → (r l).2 = false) → ∃ u v, exec (.mcoll d a f k t) s = .next u ∧ WroteVector s u d [v] ∧
          ∀ l, l < 32 → laneOf v 16 l = (r l).1 % 2 ^ 16) ∧
        ∀ l, l < 32 → (r l).2 = true → (∀ i, i < l → (r i).2 = false) → s.handlerReady →
          ∃ u, exec (.mcoll d a f k t) s = .next u ∧ TookTrap s u 0x0C (BitVec.ofNat 64 (l + 1024 * 9)))) ∧
    ∀ v, s.clamps = false → negSource (momSources s t [a.toNat]) = some v → s.handlerReady →
      ∃ u, exec (.mcoll d a f k t) s = .next u ∧ TookTrap s u 0x0B (BitVec.ofNat 64 v)) ∧
  (∀ (d a : BitVec 5) (s : State), d.toNat < 24 → a.toNat < 24 →
    ∃ t vs, exec (.ckacc d a) s = .next t ∧ WroteVector s t d vs ∧ ∀ j, j < s.members.length → ∀ l, l < 16 →
      let k := s.members.getD j 0
      laneOf (vs.getD j 0) 32 l =
        fadd32 (laneOf ((s.coreAt k).v d.toNat) 32 l) (laneOf ((s.coreAt k).v a.toNat) 32 l) % 2 ^ 32) ∧
  ∀ (x y b : BitVec 5) (s : State), x.toNat < 24 → y.toNat < 24 →
    let lane := fun (r : BitVec 5) (g : Nat) => laneOf ((s.coreAt (s.members.getD (g / 16) 0)).v r.toNat) 32 (g % 16)
    let fails := fun (g : Nat) => ckFails ((s.x b).toNat % 2 ^ 32) (lane x g) (lane y g)
    let bad := (List.range (16 * s.members.length)).filter fails
    (bad = [] → exec (.cktst x y b) s = .next (s.at (s.core.unit.here + 4))) ∧
    (∀ g gs, bad = g :: gs → s.handlerReady → ∃ t, exec (.cktst x y b) s = .next t ∧
      TookTrap s t 0x0E (BitVec.ofNat 64 (g + 256 * min 127 (gs.length + 1))))

/-- R134, R173, R222 to R225, R228, R361 to R372: every loom command (LMBIND, LMRUN, LMMOM, LMZERO,
LMDRN, LMSCL, LMCHK, LMCB, LMWT and LMFRZ in all their forms) issues by one sequence. With accepted fields, the
mode its parts need, no failing check of R223 and room for the save region, LMWT and LMFRZ act at once, LMWT on the weight
that counts from the next round on, and every other command completes its issue once a place of the queue is free (a drain
that runs ahead needs none) and no access is unacknowledged: it stands at the end of the core's queue with its fields, the
modes and the DDOM of its issue, at pts + 1; until then it waits. Nothing else changes but the pc, the save region of the
task, and what translating an LMRUN's scales leaves in caches. A failing check takes LMFAULT with the function and reason, a
privileged part in unprivileged code PRIV with the word. -/
def Obligations.LoomCommandsIssue : Prop :=
  ∀ (i : Instr) (st : BitVec 5) (fn type flags : Nat) (r g : BitVec 5) (s : State), accepted i = true →
    loomOp i = some (st, fn, type, flags, r, g) →
    let c := loomCommand s st fn type flags r g
    let allowed := s.core.priv = true ∨ loomPrivileged fn flags (s.x g) = false
    (allowed → lmReason s c = 0 → s.savesLoom →
      (fn < 8 →
        (s.core.loom.places < 8 ∨ runsAhead s c = true → unacked s = false → c.vectorDests.any (pendingVec s) = false →
          ∃ t q, exec i s = .next t ∧ q.fn = fn ∧ q.control = c.control ∧ q.region = s.x r ∧ q.second = c.second ∧
            q.dest = c.dest ∧ q.time = s.core.pts + 1 ∧ q.seq = s.pod.jobSeq ∧ q.space = s.core.space ∧
            q.ddom = s.ctx.ddom ∧ q.priv = s.core.priv ∧ q.ahead = runsAhead s c ∧ q.scbase = s.core.modes.scbase ∧
            q.scshift = s.core.modes.scshift ∧ q.clamp = s.clamps ∧ q.piece = 0 ∧ q.finished = false ∧
            t = { s with
              core := { s.core with pts := s.core.pts + 1, pc := s.core.unit.here + 4
                                    loom := { s.core.loom with queue := s.core.loom.queue ++ [q] } }
              pod := { s.pod with jobSeq := s.pod.jobSeq + 1 }, clusters := t.clusters, dies := t.dies } ∧ SavedLoom s t) ∧
        ((8 ≤ s.core.loom.places ∧ runsAhead s c = false) ∨ unacked s = true →
          ∃ t, exec i s = .next t ∧ t = { s with core := { s.core with waiting := true }, clusters := t.clusters } ∧
            SavedLoom s t)) ∧
      (fn = 8 → let k := if (s.x g).getLsbD 27 then s.ck * 8 + ((s.x g).extractLsb' 24 3).toNat else s.cur
        ∃ t, exec i s = .next t ∧
          WroteGeneral { s with core := { s.core with loom := t.core.loom }, cores := t.cores, clusters := t.clusters } t st
            (loomStatus 8 0 0 0) ∧ SavedLoom s t ∧
          (t.coreAt k).loom = { (s.coreAt k).loom with weight := ((s.x g).extractLsb' 0 4).toNat } ∧
          (∀ j, j ≠ k → (t.coreAt j).loom = (s.coreAt j).loom) ∧
          ∀ j, j ≠ s.cur → t.coreAt j = { s.coreAt j with loom := (t.coreAt j).loom }) ∧
      (fn = 9 →
        let l := { s.cluster.loom with
          frozen := flags == 1
          freezing := s.cluster.loom.freezing ++ if flags = 1 ∧ s.cluster.loom.frozen = false then [s.waiter st] else [] }
        ∃ t, exec i s = .next t ∧ SavedLoom (s.putCluster s.ck { s.cluster with loom := l }) t ∧
          (flags = 0 ∨ s.cluster.loom.frozen = true →
            WroteGeneral { s with clusters := t.clusters } t st (loomStatus 9 0 0 0)) ∧
          (flags = 1 → s.cluster.loom.frozen = false →
            t = { s with core := { s.core with pc := s.core.unit.here + 4 }, clusters := t.clusters }))) ∧
    (s.handlerReady → allowed → lmReason s c ≠ 0 →
      ∃ t, exec i s = .next t ∧ TookTrap s t 0x12 (BitVec.ofNat 64 (fn + 256 * lmReason s c))) ∧
    (s.handlerReady → ¬ allowed → ∃ t, exec i s = .next t ∧ TookTrap s t 2 s.wordVal)

/-- R112, R173, R200, R213, R214, R217, R219, R224, R225, R370: LOOM_PIECE_START. The command that the arbitration picks,
no quantum pending, does one piece: it is one piece further or at its end, and no byte of memory changes. A piece of
LMZERO leaves its accumulators zero. LMSCL empties the scale cache and binds it to the base and shift of its issue, or
unbinds it. A step of LMRUN on a slot held for the task, without an error mark, adds the
exact group sum of a row's and a column's 32 products to every element of its accumulator. -/
def Obligations.LoomPieces : Prop :=
  ∀ (ck c slot : Nat) (q : LCmd) (s s1 : State), chooseCore s ck = some (c, s1) →
    let k := ck * 8 + c
    candidate? s1 ck k (s1.clusterAt ck).loom.frozen = some q → (s1.coreAt k).running = some slot → s.pod.qnt = [] →
    ∃ t, exec (.loomPieceStart ck) s = .next t ∧ bytesKept s t ∧
      (∃ p ∈ (t.coreAt k).loom.queue, p.seq = q.seq ∧ (p.piece = q.piece + 1 ∨ p.finished = true)) ∧
      (q.fn = 3 → ∀ j, j < q.m → (t.coreAt k).loom.values (q.a + j) = List.replicate 1024 0) ∧
      (q.fn = 5 → (t.coreAt k).loom.lines = [] ∧
        (t.coreAt k).loom.cache = if q.control.testBit 9 then some (q.scbase, q.scshift) else none) ∧
      (q.fn = 1 → q.begun = true → 0 < q.m →
        let l := (s.clusterAt ck).loom
        let x := (s.coreAt k).loom
        let kb := q.piece / q.m
        let row := q.piece % q.m
        let acc := q.a + row
        let w := l.slot (q.f + kb)
        let raws := blockRaws s ck q row kb
        slotFail l q slot (q.f + kb) = 0 → raws.2 = false → x.ue = 0 →
        ∀ i j, i < 32 → j < 32 → ((t.coreAt k).loom.values acc).getD (32 * i + j) 0 =
          groupSum ((x.values acc).getD (32 * i + j) 0)
            (products ((rowsOf (laneBits q.type) (decType q.type) raws.1).getD i [])
              ((List.range 32).map fun e => l.elem w e j)
              ((factorA x (q.blockOff (32 * row + i) kb)).mul (w.factor j))) % 2 ^ 32)

/-- R173, R174, R210, R211, R216 to R218, R220, R221, R225, R226, R228, R231, R313, R363: LOOM_COMMAND_COMPLETE and
LOOM_FREEZE_DONE. A command at the head of its core's queue whose pieces are done, with nothing that holds its write
back and no quantum pending, completes: it leaves the queue, its status word stands in its destination, and a failure is
counted. A drain or a check writes its bytes and no others, a vector drain its registers, a table load the table. A bind
leaves in each slot its holder, the task or its context, its type, its image and its scales, or scales of 1; unbinding
frees the slots held for the task or its context, the privileged form every named one. Where a park left an LMSCL behind
the command, the scale cache is bound again. A freeze writes its status word. -/
def Obligations.LoomCommandsComplete : Prop :=
  (∀ (ck c slot : Nat) (q : LCmd) (s s1 : State),
    let k := ck * 8 + c
    let segs := if q.code = 0 then q.writeSegs ck else []
    (s.coreAt k).loom.queue.head? = some q → q.finished = true → (∀ p ∈ (s.coreAt k).loom.queue, p.ahead = false) →
    (s.coreAt k).running = some slot → s.runsIn ck slot k → (s.coreAt k).f ≤ q.dest → s1.pod.qnt = [] →
    commandBlocked s ck q = false → beforeSegs s (.ofJob ck q.seq q.key) segs = some s1 → s1.mem = s.mem → q.copies = [] →
    let was := (s1.clusterAt ck).loom.slot
    ∃ t, exec (.loomCommandComplete ck c) s = .next t ∧
      (t.coreAt k).loom.queue = (s1.coreAt k).loom.queue.filter (fun p => p.seq != q.seq) ∧
      (t.coreAt k).logical q.dest = loomStatus q.fn q.code q.reason q.steps ∧
      (∀ l, l % 128 ≠ q.dest % 128 → (t.coreAt k).logical l = (s1.coreAt k).logical l) ∧
      (q.code ≠ 0 → (t.coreAt k).loom.failed = min 255 ((s1.coreAt k).loom.failed + 1)) ∧
      (q.code ≠ 0 ∨ q.writeLen = 0 → bytesKept s t) ∧
      (q.code = 0 → q.out.length = q.writeLen → bytesFrom t.mem (arrayKey ck q.off) q.writeLen = q.out ∧
        bytesKeptBut s t (arrayKey ck q.off) q.writeLen) ∧
      (q.code = 0 → q.fn = 4 → q.toVec = true → ∀ j, j < q.c →
        (t.coreAt k).v (q.d + j) = BitVec.ofNat 512 (leNat ((q.out.drop (64 * j)).take 64))) ∧
      (q.code = 0 → q.fn = 7 → (t.clusterAt ck).loom.lattice = leNat q.out ∧
        (t.clusterAt ck).loom.latticeTag = some q.space) ∧
      (q.fn = 0 → q.flags = 3 → ∀ j ∈ q.slots, ((t.clusterAt ck).loom.slot j).held = 0) ∧
      (q.fn = 0 → q.flags = 2 → ∀ j ∈ q.slots,
        (t.clusterAt ck).loom.slot j = if (was j).heldFor slot q.space then {} else was j) ∧
      (q.fn = 0 → q.flags < 2 → q.code = 0 → ∀ j, j < q.nk → (t.clusterAt ck).loom.slot (q.f + j) =
        { held := if q.second.testBit 16 then 2 else 1, slot := slot, space := q.space, type := q.type
          image := leNat ((q.out.drop (imageBytes q.type * j)).take (imageBytes q.type))
          scales := if q.flags = 1 then leNat ((q.out.drop (imageBytes q.type * q.nk + 32 * j)).take 32)
            else leNat (List.replicate 32 127) }) ∧
      (q.fn = 0 → ∀ j, j ∉ q.slots → (t.clusterAt ck).loom.slot j = was j) ∧
      (∀ n b, (s1.coreAt k).loom.rebinds.find? (fun r => r.1 == q.seq) = some (n, b) →
        (t.coreAt k).loom.lines = [] ∧ (t.coreAt k).loom.cache = some b) ∧
      ((s1.coreAt k).loom.rebinds.find? (fun r => r.1 == q.seq) = none →
        (t.coreAt k).loom.lines = (s1.coreAt k).loom.lines ∧ (t.coreAt k).loom.cache = (s1.coreAt k).loom.cache)) ∧
  ∀ (ck k : Nat) (w : Waiter) (s : State), (s.clusterAt ck).loom.freezing = [w] → s.runsIn w.ck w.slot k →
    ((s.clusterAt w.ck).task w.slot).st ≠ .free → ((s.clusterAt w.ck).entry w.slot).count = w.count →
    (s.coreAt k).f ≤ w.reg →
    ∃ t, exec (.loomFreezeDone ck) s = .next t ∧ (t.clusterAt ck).loom.freezing = [] ∧ bytesKept s t ∧
      (t.coreAt k).logical w.reg = loomStatus 9 0 0 0 ∧
      ∀ l, l % 128 ≠ w.reg % 128 → (t.coreAt k).logical l = (s.coreAt k).logical l

/-- R66, R101, R131, R132, R134, R136, R226, R266, R382, R383: MFS delivers the register that its number names; PTIME never
less than the core read before, and the read of LMSTAT clears its failure code. MTS writes the register, and TBASE counts as
written from then on. That a write of SPACE makes its context live is the model's choice (log entry 32). Numbers
of no register take ILLEGAL with the word, accesses the mode does not allow PRIV with the number, read-only registers
and values that break a check ILLEGAL with the value. -/
def Obligations.SystemRegisters : Prop :=
  ∀ (d a : BitVec 5) (n : BitVec 10) (s : State),
    let c := s.core
    let x := s.ctx
    let w := s.x a
    let num := fun (k : Nat) => BitVec.ofNat 64 k
    let reads : List (Nat × Word) := [(0x00, c.trap.cause), (0x01, c.trap.pc), (0x02, c.trap.value),
      (0x03, c.trap.base), (0x10, num (x.ftLimit + 65536 * x.ftBase)), (0x11, num x.ylim), (0x12, num c.wcnt),
      (0x13, num c.space), (0x14, num x.ddom), (0x15, num x.spilla), (0x16, num x.lspill), (0x17, x.parkb),
      (0x18, num x.stkb), (0x19, num x.tdef), (0x21, num s.task.cls), (0x22, tctrA (launchOf s)),
      (0x23, tctrB (launchOf s)), (0x24, num c.modes.fpmode), (0x25, num c.modes.covmode), (0x26, c.modes.scbase),
      (0x27, num c.modes.scshift), (0x28, num (qstatOf c)), (0x29, num (gstatOf c.gang)), (0x2B, num x.bounce)] ++
      (List.range 16).map fun i => (0x30 + i, mget (fun _ => (0 : Word)) x.chb i)
    let inCtx := fun (x : Ctx) => s.putCluster s.ck (s.cluster.putCtx c.space x)
    let inCore := fun (c : Core) => ({ s with core := c } : State)
    let writes : List (Nat × State) := [
      (0x00, inCore { c with trap := { c.trap with cause := w &&& 0x1FF } }),
      (0x01, inCore { c with trap := { c.trap with pc := w } }), (0x02, inCore { c with trap := { c.trap with value := w } }),
      (0x03, inCore { c with trap := { c.trap with base := w, written := true } }),
      (0x11, inCtx { x with ylim := w.toNat % 65536 }), (0x14, inCtx { x with ddom := w.toNat % 4096 }),
      (0x15, inCtx { x with spilla := w.toNat }), (0x16, inCtx { x with lspill := w.toNat }), (0x17, inCtx { x with parkb := w }),
      (0x18, inCtx { x with stkb := w.toNat }), (0x19, inCtx { x with tdef := w.toNat }),
      (0x24, inCore { c with modes := { c.modes with fpmode := w.toNat } }),
      (0x25, inCore { c with modes := { c.modes with covmode := w.toNat } }),
      (0x2B, inCtx { x with bounce := w.toNat % 2 ^ 32 })]
    (s.core.priv = true ∨ userReads n.toNat = true →
      (∀ v, (n.toNat, v) ∈ reads → ∃ t, exec (.mfs d n) s = .next t ∧ WroteGeneral s t d v) ∧
      (n = 0x20 → ∃ t, exec (.mfs d n) s = .next t ∧
        WroteGeneral (inCore { c with seen := max s.now c.seen }) t d (num (max s.now c.seen))) ∧
      (n = 0x2A → ∃ t, exec (.mfs d n) s = .next t ∧ WroteGeneral (inCore { c with loom := { c.loom with firstFail := 0 } }) t d
        (num (lmstatOf c.loom s.cluster.loom.frozen)))) ∧
    (s.core.priv = true ∨ userWrites n.toNat = true → readOnly n.toNat = false → badValue s n.toNat w = false →
      (∀ u, (n.toNat, u) ∈ writes → exec (.mts a n) s = .next (u.at (c.unit.here + 4))) ∧
      (n = 0x13 → ∃ t, exec (.mts a n) s = .next t ∧ t.core = { c with space := w.toNat % 65536, pc := c.unit.here + 4 } ∧
        t.ctx.live = true ∧ bytesKept s t) ∧
      (n = 0x26 ∨ n = 0x27 → s.savesLoom → ∃ t, exec (.mts a n) s = .next t ∧ bytesKept s t ∧
        t.core = { c with pc := c.unit.here + 4, modes := if n = 0x26 then { c.modes with scbase := w }
          else { c.modes with scshift := w.toNat } }) ∧
      (n = 0x10 → ∃ t, exec (.mts a n) s = .next t ∧ t.core = { c with pc := c.unit.here + 4, oldCode := t.core.oldCode } ∧
        t.ctx.ftLimit = w.toNat % 8192 ∧ t.ctx.ftBase = (w.extractLsb' 16 12).toNat) ∧
      (∀ i : Fin 16, n.toNat = 0x30 + i → (mget (fun _ => (0 : Word)) x.chb i).extractLsb' 0 35 ≠ 0 ∨
          (s.cluster.reserve 8192 4096 4).isSome →
        ∃ t, exec (.mts a n) s = .next t ∧ mget (fun _ => (0 : Word)) t.ctx.chb i = w ∧ bytesKept s t ∧
          t.core = { c with pc := c.unit.here + 4 })) ∧
    (s.handlerReady →
      (sysNumber n.toNat = false → (∃ t, exec (.mfs d n) s = .next t ∧ TookTrap s t 1 s.wordVal) ∧
        ∃ t, exec (.mts a n) s = .next t ∧ TookTrap s t 1 s.wordVal) ∧
      (sysNumber n.toNat = true → s.core.priv = false → userReads n.toNat = false →
        ∃ t, exec (.mfs d n) s = .next t ∧ TookTrap s t 2 (n.setWidth 64)) ∧
      (sysNumber n.toNat = true → s.core.priv = false → userWrites n.toNat = false →
        ∃ t, exec (.mts a n) s = .next t ∧ TookTrap s t 2 (n.setWidth 64)) ∧
      (sysNumber n.toNat = true → s.core.priv = true ∨ userWrites n.toNat = true →
        readOnly n.toNat = true ∨ badValue s n.toNat w = true →
        ∃ t, exec (.mts a n) s = .next t ∧ TookTrap s t 1 w))

/-- R142, R151, R152, R436: XINV. Of privileged code, with no access in flight of the spaces it names, it completes:
no translation and no L1 line is left of all spaces, of one space, or of the pages that cover one address of a space;
the pc goes on, and no register and no byte of memory changes. While such an access is in flight it waits.
Unprivileged code takes PRIV with the word, a space above 65535 or an address of 2^56 and above ILLEGAL with it. -/
def Obligations.TranslationsGo : Prop :=
  ∀ (a b : BitVec 5) (s : State),
    let c := s.core
    let space := (s.x a).toNat
    let va := (s.x b).toNat
    let bits := pageBits s space va
    let went := fun (t : State) (line : L1Line → Prop) (tr : Transl → Prop) =>
      t = { s with dies := t.dies, clusters := t.clusters, core := { c with pc := c.unit.here + 4 } } ∧
      (∀ k ∈ t.clusters, ∀ l ∈ k.2.l1, ¬ line l) ∧
      ∀ k ∈ t.dies, (∀ x ∈ k.2.llc, ¬ tr x) ∧ ∀ st ∈ k.2.stations, ∀ x ∈ st.2, ¬ tr x
    let waits := .next { s with core := { c with waiting := true } }
    (c.priv = true →
      (inFlight s (fun _ => true) = false → ∃ t, exec (.xinv 0 0 0) s = .next t ∧
        went t (fun _ => True) fun _ => True) ∧
      (inFlight s (fun _ => true) = true → exec (.xinv 0 0 0) s = waits) ∧
      (space < 65536 → inFlight s (· == space) = false →
        (∃ t, exec (.xinv a 0 1) s = .next t ∧ went t (fun l => l.space = space) fun x => x.space = space) ∧
        (va < 2 ^ 56 → ∃ t, exec (.xinv a b 2) s = .next t ∧
          went t (fun l => l.space = space ∧ (l.vline * 128 / 2 ^ bits = va / 2 ^ bits ∨
            l.vline * 128 / 2 ^ l.bits = va / 2 ^ l.bits)) fun x => x.covers space va = true)) ∧
      (space < 65536 → inFlight s (· == space) = true → exec (.xinv a 0 1) s = waits ∧
        (va < 2 ^ 56 → exec (.xinv a b 2) s = waits))) ∧
    (s.handlerReady → c.priv = false → ∃ t, exec (.xinv 0 0 0) s = .next t ∧ TookTrap s t 2 s.wordVal) ∧
    (s.handlerReady → 65536 ≤ space → (∃ t, exec (.xinv a 0 1) s = .next t ∧ TookTrap s t 1 (s.x a)) ∧
      ∃ t, exec (.xinv a b 2) s = .next t ∧ TookTrap s t 1 (s.x a)) ∧
    (s.handlerReady → c.priv = true → space < 65536 → 2 ^ 56 ≤ va →
      ∃ t, exec (.xinv a b 2) s = .next t ∧ TookTrap s t 1 (s.x b))

/-- R137, R142, R166, R284, R334: CMO. CMO.I completes once no access is unacknowledged and no loom command or engine
job of the core is outstanding, and forgets every word that stood before its stores; until then it waits. CMO.DROP of
a local or virtual address completes and removes the cluster's L1 copy of its line; of another form it takes XFAULT
with reason 6. Before either it takes ALIGN where the address is no multiple of 128 (that this is its alignment is the
model's reading, log entry 33). CMO.PF completes in every state, whatever its address, with no register but the pc changed; where the
line's page is HBM with L1 allocation the L1 holds the line from then on; while no quantum is pending it changes no
byte. -/
def Obligations.CacheMaintenance : Prop :=
  ∀ (a : BitVec 5) (s : State),
    let c := s.core
    let went := fun (t : State) => t.core = { c with pc := c.unit.here + 4 }
    let busy := unacked s || !c.loom.queue.isEmpty ||
      s.pod.jobs.any (fun j => j.ck == s.ck && j.core == s.cur % 8 && !j.discard && !j.dead)
    (busy = false → exec .cmoI s = .next { s with core := { c with oldCode := [], pc := c.unit.here + 4 } }) ∧
    (busy = true → exec .cmoI s = .next { s with core := { c with waiting := true } }) ∧
    ((s.x a).toNat % 128 = 0 → formOf (s.x a) ≠ .bad → ∃ t, exec (.cmoDrop a) s = .next t ∧ went t ∧ bytesKept s t ∧
      ∀ x, formOf (s.x a) = .virt x → ∀ l ∈ t.cluster.l1, ¬ (l.space = c.space ∧ l.vline = x / 128)) ∧
    ((s.x a).toNat % 128 = 0 → formOf (s.x a) = .bad → s.handlerReady →
      ∃ t, exec (.cmoDrop a) s = .next t ∧ TookTrap s t 4 (xval (s.x a) 6)) ∧
    ((s.x a).toNat % 128 ≠ 0 → s.handlerReady → ∃ t, exec (.cmoDrop a) s = .next t ∧ TookTrap s t 3 (s.x a)) ∧
    ∃ t, exec (.cmoPf a) s = .next t ∧ wentOn s t ∧ (∀ l, t.core.logical l = s.core.logical l) ∧
      (s.pod.qnt = [] → went t ∧ bytesKept s t) ∧
      ∀ x pa leaf s1, formOf (s.x a) = .virt x → pa < 2 ^ 40 → leafL1 leaf = true →
        resolve s s.ck c.space (BitVec.ofNat 64 (x / 128 * 128)) 128 .load = (.ok (.hbm pa) leaf, s1) →
        ∃ l ∈ t.cluster.l1, l.space = c.space ∧ l.vline = x / 128

/-- R41, R72, R102, R104, R106, R151, R154, R155, R162, R313: events of a cluster's heddle and stations. Counts of
time and of the budget step by 1: of a core, a heddle, a die's placer or a port. A destination write that is ready
lands in its register at its time, with its failure and its error mark in place of the register's, and is under way no
more. A spill that an allocation waits for leaves its record and
a SPILLED slot, where the entry is not pinned and its window has a clear place. A translation that was made is found
again, a line that came from HBM has a tag in its slice, and neither changes memory. An overlong hold-wait is a yield
point, and inside the handler of WDOG the task's end. -/
def Obligations.ClusterEvents : Prop :=
  ∀ (ck c : Nat) (s : State),
    let k := ck * 8 + c
    let x := s.coreAt k
    (ck % 4096 < 4095 → c < 8 → exec (.ptsTick ck c) s = .next (s.putCore k { x with pts := x.pts + 1 })) ∧
    (ck % 4096 < 4095 → 8 ≤ c → exec (.ptsTick ck c) s = .next (s.putHeddle ck
      { (s.clusterAt ck).heddle with pts := (s.clusterAt ck).heddle.pts + 1 })) ∧
    (ck % 4096 = 4095 → ck / 4096 < 16 → exec (.ptsTick ck c) s = .next (s.putDie (ck / 4096)
      { s.dieAt (ck / 4096) with placerPts := (s.dieAt (ck / 4096)).placerPts + 1 })) ∧
    (ck % 4096 = 4095 → 16 ≤ ck / 4096 → exec (.ptsTick ck c) s = .next { s with io := { s.io with
      portPts := mput s.io.portPts c (mget (fun _ => 0) s.io.portPts c + 1) } }) ∧
    exec (.wcntIdleTick ck c) s = .next (s.putCore k { x with wcnt := x.wcnt - 1 }) ∧
    (∀ (i j : Nat) (l : Late), s.pod.late[i]? = some l → l.ready = true → s.runsIn l.dst.ck l.dst.slot j →
      (s.coreAt j).f ≤ l.dst.reg →
      ∃ t, exec (.lateWriteLands i) s = .next t ∧ t.pod = { s.pod with late := s.pod.late.eraseIdx i } ∧
        (t.coreAt j).logical l.dst.reg = l.value ∧ (t.coreAt j).pts = max (s.coreAt j).pts l.time ∧
        (∀ n, n % 128 ≠ l.dst.reg % 128 → (t.coreAt j).logical n = (s.coreAt j).logical n) ∧ bytesKept s t ∧
        (t.coreAt j).fails = (s.coreAt j).fails.map (fun f => if f.1 = some l.dst.reg then (none, f.2) else f) ++
          (if l.fail = 0 then [] else [(some l.dst.reg, l.fail)]) ∧
        (l.mark = none → ∀ p ∈ (t.coreAt j).gmarks, p.1 ≠ l.dst.reg) ∧
        (∀ a, l.mark = some a → (l.dst.reg, a) ∈ (t.coreAt j).gmarks) ∧
        (∀ m, m ≠ j → t.coreAt m = s.coreAt m)) ∧
    (∀ slot ks s1,
      let h := (s.clusterAt ck).heddle
      let e := (s.clusterAt ck).entry slot
      let s0 := s.putHeddle ck { h with spilling := none, heldFills := [] }
      h.spilling = some slot → h.heldFills = [] → e.pinned = false → e.resident = true → e.ue = false → s.pod.qnt = [] →
      spillWindow s0 ck e.space slot e.gen = (some ks, s1) →
      (∀ r, ks.find? (fun k => !recValid s1 k) = some r →
        ∃ t, exec (.spillWriteAck ck) s = .next t ∧ (t.clusterAt ck).heddle.spilling = none ∧
          ((t.clusterAt ck).entry slot).st = .spilled ∧ recValid t r = true ∧ bytesKeptBut s t r.key 64 ∧
          t.readN r.key 8 = (entryHandle s ck slot).toNat ∧ t.readN (r.key + 8) 8 = e.value.toNat ∧
          t.core = { s.core with oldCode := t.core.oldCode }) ∧
      (ks.find? (fun k => !recValid s1 k) = none → exec (.spillWriteAck ck) s = .next s1)) ∧
    (∀ space va, ∃ t, exec (.translationDone ck space va) s = .next t ∧ t = { s with dies := t.dies } ∧
      ∀ leaf bits, (translate s (ck / 4096) (ck % 4096 % 80) space va).1 = .ok leaf bits →
        (translate t (ck / 4096) (ck % 4096 % 80) space va).1 = .ok leaf bits) ∧
    (∀ pa dom el st, pa < 2 ^ 40 → ∃ t, exec (.hbmFillReturn pa dom el st) s = .next t ∧ t = { s with dies := t.dies } ∧
      ((t.dieAt (pa / 128 * 128 / 2 ^ 36)).l2.tag? (pa / 128 * 128)).isSome) ∧
    (∀ slot, x.running = some slot → x.wcnt = 0 →
      (x.trap.kill ≠ 1 → ((s.clusterAt (k / 8)).task slot).cancel = false → x.preempt = false →
        ∃ t, exec (.overlongHoldWait ck c) s = .next t ∧ t.cur = k ∧ bytesKept s t ∧
          t.core = { x with wcnt := ((s.clusterAt (k / 8)).ctxAt x.space).ylim, waiting := false }) ∧
      (x.trap.kill = 1 ∨ ((s.clusterAt (k / 8)).task slot).cancel = true →
        ∃ t, exec (.overlongHoldWait ck c) s = .next t ∧ t.cur = k ∧ t.core.running = none ∧
          ((t.clusterAt (k / 8)).task slot).st = .free))

/-- R24, R30, R35, R42, R48, R95, R97, R98, R120: TASK_DISPATCH of the task that the heddle picks, with a free core
for it. Where its saved state has no error, a task that was never dispatched starts on the core with its entry's
address, its arguments, the window at 0 and the full budget, and is RUNNING. One that parked at a TOUCH and is not
cancelled resumes at its kept pc with the window and registers of its park record; one parked by pre-emption, without a
gang, also with its vector and moment registers from the stack region, its modes, queues, holds, marks, failures and its
loom (R52, R119, R120, R133, R231). Where nothing can be dispatched, nothing changes. -/
def Obligations.TasksDispatch : Prop :=
  (∀ (ck : Nat) (s : State), dispatchable s ck = [] → exec (.taskDispatch ck) s = .next s) ∧
  ∀ (ck slot c : Nat) (t0 : Task) (h : Heddle) (s : State),
    pickNext (s.clusterAt ck).heddle s.now (dispatchable s ck) = some ((slot, t0), h, false) →
    placeFor s ck t0 = some [c] → (s.clusterAt ck).task slot = t0 → h.retained = [] →
    badImage (s.putHeddle ck h) ck slot t0 = none →
    let k := ck * 8 + c
    let x := s.coreAt k
    let ctx := (s.clusterAt ck).ctxAt t0.space
    (t0.started = false → t0.gateQueue = none → t0.image = false →
      ∃ t, exec (.taskDispatch ck) s = .next t ∧ (t.coreAt k).running = some slot ∧ (t.coreAt k).pc = t0.entry ∧
        (t.coreAt k).b = 0 ∧ (t.coreAt k).f = 0 ∧ (t.coreAt k).priv = t0.priv ∧ (t.coreAt k).wcnt = ctx.ylim ∧
        (t.coreAt k).pts = max x.pts t0.pts ∧ (t.coreAt k).modes.fpmode = ctx.tdef % 256 ∧
        (t.coreAt k).logical 0 = argAt t0 0 t0.a0 ∧ (t.coreAt k).logical 1 = argAt t0 1 t0.a1 ∧
        (t.coreAt k).logical 2 = argAt t0 2 t0.a2 ∧ (t.coreAt k).logical 3 = argAt t0 3 t0.a3 ∧
        (t.coreAt k).logical 4 = t0.a4 ∧ (∀ l, 5 ≤ l → l < 128 → (t.coreAt k).logical l = 0) ∧
        (∀ v, (t.coreAt k).v v = 0) ∧ ((t.clusterAt ck).task slot).st = .running ∧
        c ∉ (t.clusterAt ck).heddle.freeOrder) ∧
    (t0.started = true → t0.image = false → t0.cancel = false →
      ∀ s2, raiseDepth (readSaved (takeCores (s.putHeddle ck h) ck slot t0 [c]) ck slot t0 1) ck slot t0 = .ok s2 →
      ∃ t, exec (.taskDispatch ck) s = .next t ∧ (t.coreAt k).running = some slot ∧ (t.coreAt k).pc = t0.pc ∧
        (t.coreAt k).b = t0.base ∧ (t.coreAt k).f = t0.base ∧ (t.coreAt k).priv = t0.priv ∧
        (t.coreAt k).trap.depth = t0.handlers ∧ ((t.clusterAt ck).task slot).st = .running ∧
        ∀ i, i < 32 → (t.coreAt k).logical (t0.base + i) =
          BitVec.ofNat 64 (s2.readN (parkKey s2 ck t0.space slot + 64 + 8 * i) 8)) ∧
    (t0.started = true → t0.image = true → t0.gang = 0 → t0.cancel = false → badSave (s.putHeddle ck h) ck t0 [c] = none →
      ∀ s2 ws bad s3, raiseDepth (readSaved (takeCores (s.putHeddle ck h) ck slot t0 [c]) ck slot t0 1) ck slot t0 = .ok s2 →
      stackRead ck t0.space slot s2 64 448 = .ok (ws, bad, s3) →
      ∃ t, exec (.taskDispatch ck) s = .next t ∧
        let y := t.coreAt k
        let p := t0.parked
        y.running = some slot ∧ y.pc = t0.pc ∧ y.b = t0.base ∧ y.f = t0.base ∧ y.priv = t0.priv ∧
        y.trap.depth = t0.handlers ∧ y.trap.kill = p.kill ∧ y.wcnt = ctx.ylim ∧ y.pts = max x.pts t0.pts ∧
        y.modes = { fpmode := t0.fpmode, covmode := t0.covmode, scbase := p.scbase, scshift := p.scshift } ∧
        y.queues = p.queues ∧ y.holds = p.holds ∧ y.vmarks = p.vmarks ∧ y.gmarks = p.gmarks ∧ y.mmarks = p.mmarks ∧
        y.fails = p.fails ∧ y.usedTime = p.usedTime ∧ y.loom = restoreLoom s3 ck p ∧ y.gang = {} ∧
        (∀ i, i < 32 → y.logical (t0.base + i) = BitVec.ofNat 64 (s3.readN (parkKey s3 ck t0.space slot + 64 + 8 * i) 8)) ∧
        (∀ i j, i < 24 → j < 8 → (y.v i).extractLsb' (64 * j) 64 = ws.getD (8 * i + j) 0) ∧
        (∀ i j, i < 16 → j < 16 → (y.m i).extractLsb' (64 * j) 64 = ws.getD (192 + 16 * i + j) 0) ∧
        ((t.clusterAt ck).task slot).st = .running)

/-- R28, R35 to R38, R45, R57, R85, R99, R171, R173, R239: staging, write-back and waking. Staging gives every tile a
region and makes the task ready once all have landed; a tile's bytes land in its region and nowhere else, and the last
one makes the task ready. A task whose output is written back ends with its result and the output's bytes at their
address, or with 0x205 where an address failed. A waiter of a filled future is READY, or ends where it was cancelled,
one of another home gets its message; where no waiter is left and nothing is queued for the slot, nothing changes. -/
def Obligations.TasksStageAndWake : Prop :=
  (∀ (ck slot : Nat) (s : State),
    let task := (s.clusterAt ck).task slot
    let entry := (s.clusterAt ck).entry slot
    let record := parkKey s ck task.space slot
    (nextStaging s ck = some slot → task.st = .staging → tilesBlocked s ck task.space task.tiles = false →
      (∀ s1, makeRegions ck slot 20 s = (none, s1) → exec (.stagingStart ck) s = .next s1) ∧
      ∀ ts us s1 s2, makeRegions ck slot 20 s = (some ts, s1) →
        issuePushes ck task.space (s1.putPts ck none (max (s1.agentPts ck none) task.pts)) ts = (some us, s2) →
        ∃ t, exec (.stagingStart ck) s = .next t ∧ ((t.clusterAt ck).task slot).tiles = us ∧
          us.length = task.tiles.length ∧ (∀ x ∈ us, x.region.isSome) ∧
          ((t.clusterAt ck).task slot).st = (if us.all (·.done) then .ready else .staging)) ∧
    (∀ arg x, task.tiles.find? (fun x => x.arg == arg && !x.done && x.region.isSome) = some x → task.staged = true →
      let key := arrayKey ck (x.region.getD 0)
      let ts := task.tiles.map fun y => if y.arg == arg then { y with done := true, data := [] } else y
      x.data.length = x.len → meets key x.len record 64 = false → s.pod.qnt = [] →
      writesBehind s ck x.seq [.mem key x.len 0] = false →
      ∃ t, exec (.tilePushLanded ck slot arg) s = .next t ∧ bytesFrom t.mem key x.len = x.data ∧
        ((t.clusterAt ck).task slot).tiles = ts ∧
        ((t.clusterAt ck).task slot).st = (if ts.all (·.done) then .ready else .staging) ∧
        ∀ j, (j < key ∨ key + x.len ≤ j) → (j < record ∨ record + 64 ≤ j) → t.byteAt j = s.byteAt j) ∧
    (task.st = .ending → task.visible = true → task.moved = false → entry.st = .empty → entry.consumed = false →
      entry.ended = false → entry.refill = [] → entry.ue = false →
      (task.fail ≠ 0 → ∃ t, exec (.outputWriteBackDone ck slot) s = .next t ∧ ((t.clusterAt ck).task slot).st = .free ∧
        ((t.clusterAt ck).entry slot).st = .poisoned ∧ ((t.clusterAt ck).entry slot).value = 0x205) ∧
      (task.fail = 0 → task.wsent = true → task.wacks = 0 → ∃ t, exec (.outputWriteBackDone ck slot) s = .next t ∧
        ((t.clusterAt ck).task slot).st = .free ∧ ((t.clusterAt ck).entry slot).st = .full ∧
        ((t.clusterAt ck).entry slot).value = task.result) ∧
      (∀ x k leaf, task.fail = 0 → task.wsent = false → task.tiles.filter (fun x => x.kind != 1) = [x] →
        task.wsegs = [.mem k x.len leaf] →
        let key := arrayKey ck (x.region.getD 0)
        writeWaits s ck task.wseq task.wkey task.wsegs = false →
        readWaits s ck task.wseq task.wkey [.mem key x.len 0] = false → s.marked key x.len = false → s.marked k x.len = false →
        permitted s ck task.space task.wsegs = true → s.pod.qnt = [] →
        beforeSegs s (.ofJob ck task.wseq task.wkey) task.wsegs = some s → meets k x.len record 64 = false →
        ∃ t, exec (.outputWriteBackDone ck slot) s = .next t ∧ ((t.clusterAt ck).task slot).st = .free ∧
          ((t.clusterAt ck).entry slot).st = .full ∧ ((t.clusterAt ck).entry slot).value = task.result ∧
          bytesFrom t.mem k x.len = bytesFrom s.mem key x.len ∧
          ∀ j, (j < k ∨ k + x.len ≤ j) → (j < record ∨ record + 64 ≤ j) → t.byteAt j = s.byteAt j))) ∧
  ∀ (ck slot : Nat) (s : State),
    let e := (s.clusterAt ck).entry slot
    (e.toWake = [] → e.refill = [] → exec (.wakeWaiters ck slot) s = .next s) ∧
    ∀ (w : Nat) (ws : List Nat), e.toWake = w :: ws →
      let task := (s.clusterAt ck).task w
      (w < 4096 → task.st = .parkedTouch → task.cancel = false →
        ∃ t, exec (.wakeWaiters ck slot) s = .next t ∧ ((t.clusterAt ck).entry slot).toWake = ws ∧
          ((t.clusterAt ck).task w).st = .ready ∧ ((t.clusterAt ck).task w).pc = task.pc ∧
          bytesKeptBut s t (parkKey s ck task.space w) 64) ∧
      (w < 4096 → task.st = .parkedTouch → task.cancel = true →
        ∃ t, exec (.wakeWaiters ck slot) s = .next t ∧ ((t.clusterAt ck).task w).st = .free) ∧
      ∀ target m r, 4096 ≤ w → (s.clusterAt ck).heddle.nodes.find? (fun x => x.1 == w - 4096) = some (w - 4096, target, m, r) →
        ∃ t p, exec (.wakeWaiters ck slot) s = .next t ∧ ((t.clusterAt ck).entry slot).toWake = ws ∧
          p.msg.handler = 15 ∧ p.target = target ∧ p.dstModule = m ∧ p.dst = r.ck ∧ p.reply = r ∧
          p.msg.time = e.fillTime ∧ s.left t p ∧ bytesKept s t

/-- R126, R173, R174, R182, R235 to R237, R239, R241, R242: engine jobs in flight. A copy reads all of its source at
once and later writes it all to its target, and no other byte, with the length in its status word after it; a copy
that failed writes its code with a count of bytes, and no byte outside its target. A copy into a queue lands one slot
at the tail, or notes that it waits for room. A gather lands in its register on every member of its task's gang, with the
error mark of the lanes that met one; a scatter writes its elements. No quantum is pending. -/
def Obligations.EngineJobsMove : Prop :=
  ∀ (id : Nat) (j : Job) (s : State), s.job? id = some j →
    let gone := fun (t : State) => t.pod.jobs = s.pod.jobs.filter (fun x => x.id != id)
    let time := max j.ti j.tr + 1
    (∀ k n leaf, j.kind = .copy → j.readDone = false → readBlocked s j = false → j.acks = 0 → j.rsegs = [.mem k n leaf] →
      s.marked k n = false → s.pod.qnt = [] → j.kept = [] →
      ∃ t u, exec (.jobReadPassDone id) s = .next t ∧ t.job? id = some u ∧ u.readDone = true ∧
        u.bytes = bytesFrom s.mem k n ∧ u.wsegs = j.wsegs ∧ u.code = j.code ∧ bytesKept s t ∧ t.core = s.core) ∧
    (∀ c k n leaf, j.kind = .copy → j.readDone = true → j.queue = none → j.sent = false → j.discard = false →
      s.runsIn j.ck j.slot c → (s.coreAt c).f ≤ j.dest →
      (j.code ≠ 0 → j.bytes = [] → ∃ t, exec (.copyComplete id) s = .next t ∧ gone t ∧ bytesKept s t ∧
        (t.coreAt c).logical j.dest = statusWord j.code j.reason 0 12 ∧ (some j.dest, j.code) ∈ (t.coreAt c).fails) ∧
      (j.code ≠ 0 → j.bytes ≠ [] → j.wsegs = [.mem k n leaf] → writeBlocked s j = false → s.pod.qnt = [] →
        permitted s j.ck j.space j.wsegs = true → beforeSegs s (.ofJob j.ck j.seq j.key) j.wsegs = some s →
        ∃ t done, exec (.copyComplete id) s = .next t ∧ gone t ∧ bytesKeptBut s t k n ∧ done ≤ j.bytes.length ∧
          (t.coreAt c).logical j.dest = statusWord j.code j.reason done 12 ∧
          (some j.dest, j.code) ∈ (t.coreAt c).fails) ∧
      (j.code = 0 → j.wsegs = [.mem k n leaf] → j.bytes.length = n → writeBlocked s j = false →
        permitted s j.ck j.space j.wsegs = true → s.marked k n = false → s.pod.qnt = [] →
        beforeSegs s (.ofJob j.ck j.seq j.key) j.wsegs = some s →
        ∃ t, exec (.copyComplete id) s = .next t ∧ gone t ∧ bytesFrom t.mem k n = j.bytes ∧ bytesKeptBut s t k n ∧
          (t.coreAt c).logical j.dest = statusWord 0 0 j.len 12 ∧
          ∀ l, l % 128 ≠ j.dest % 128 → (t.coreAt c).logical l = (s.coreAt c).logical l)) ∧
    (∀ q r, j.kind = .copy → j.readDone = true → j.code = 0 → j.discard = false → j.queue = some q →
      j.landed * 64 < j.len → (jobQueue s j q 0).region = some r →
      let x := jobQueue s j q 0
      let slot := slotKey j.ck r ((x.head + x.n) % 16)
      let image := (j.bytes.drop (64 * j.landed)).take 64
      (x.n < 16 → s.pod.qnt = [] → ∃ t u, exec (.queueSlotLanding id) s = .next t ∧ t.job? id = some u ∧ u.landed = j.landed + 1 ∧
        bytesFrom t.mem slot image.length = image ∧ bytesKeptBut s t slot image.length ∧
        (jobQueue t j q 0).n = x.n + 1 ∧ (jobQueue t j q 0).head = x.head) ∧
      (16 ≤ x.n → ∃ t, exec (.queueSlotLanding id) s = .next t ∧ bytesKept s t ∧ (jobQueue t j q 0).waits = true ∧
        (jobQueue t j q 0).n = x.n)) ∧
    (∀ c, j.kind = .gather → j.readDone = true → j.discard = false → j.queue = none →
      j.members ≤ gangSize (s.coreAt c).gang.code → s.runsIn j.ck j.slot c →
      ∃ t, exec (.engineJobComplete id) s = .next t ∧ gone t ∧ bytesKept s t ∧
        (∀ m, m < j.members → (t.coreAt (memberKey s c m)).v j.dest = gatherVec j m ∧
          ∀ x, (j.dest, x) ∈ (t.coreAt (memberKey s c m)).vmarks ↔ gatherMark j m = some x) ∧
        (t.coreAt c).pts = max (s.coreAt c).pts time ∧ ∀ k v, v ≠ j.dest → (t.coreAt k).v v = (s.coreAt k).v v) ∧
    (∀ k n leaf, j.kind = .scatter → j.readDone = true → j.sent = false → j.wsegs = [.mem k n leaf] →
      (scatterBytes j).length = n → s.pod.qnt = [] →
      writeBlocked s j = false → beforeSegs s (.ofJob j.ck j.seq j.key) j.wsegs = some s →
      ∃ t, exec (.engineJobComplete id) s = .next t ∧ gone t ∧ bytesFrom t.mem k n = scatterBytes j ∧
        bytesKeptBut s t k n)

/-- R135, R164, R179, R180, R317, R452: updates that wait at a home, and a core that changes its context. A combiner
lets one update go, which arrives behind those released before it. A batch of released .com updates of one operation and size becomes one write at max(wts + 1, rts +
1); the updates of a .qnt quantum become one write at its boundary 64(q + 1), which is then the latest value of the
location. A core that runs a task is asked for it, for a gang's member its leader, and a free core serves the other
context, which is live. -/
def Obligations.CombinersAndQuanta : Prop :=
  ∀ (s : State) (key : Nat),
    let sum := fun (n : Nat) (us : List Pending) =>
      us.foldl (fun v u => amoOp u.op (8 * u.n) v u.operand.toNat) (s.readN key n)
    (∀ k, ∃ t, exec (.combinerFlush k) s = .next t ∧ t = { s with pod := { s.pod with com := t.pod.com } } ∧
      (∀ u, s.pod.com[k]? = some u → u.held = true → t.pod.com = s.pod.com.eraseIdx k ++ [{ u with held := false }]) ∧
      ((∀ u, s.pod.com[k]? = some u → u.held = false) → t.pod.com = s.pod.com)) ∧
    (∀ u us, batchOf s key = u :: us → (∀ x ∈ u :: us, x.reply = none) → beforeWriteBy s {} key u.n = some s →
      s.pod.qnt = [] →
      let line := (fillFor s u).lineTimes key
      let time := max (line.1 + 1) (line.2 + 1)
      ∃ t, exec (.comBatchApply key) s = .next t ∧ t.readN key u.n = sum u.n (u :: us) % 2 ^ (8 * u.n) ∧
        bytesKeptBut s t key u.n ∧ t.lineTimes key = (time, time) ∧
        t.pod = { s.pod with com := s.pod.com.filter fun q => !(u :: us).contains q } ∧
        t.core = { s.core with usedTime := t.core.usedTime, oldCode := t.core.oldCode }) ∧
    (∀ q u us, s.pod.qnt.filter (fun p => p.key == key && p.quantum == q) = u :: us →
      (∀ x ∈ u :: us, x.n = u.n ∧ x.reply = none) → (∀ p ∈ s.pod.qnt, p.key / 128 = key / 128 → q ≤ p.quantum) →
      beforeWriteBy s {} (key / 128 * 128) 128 = some s →
      let v := sum u.n (u :: us) % 2 ^ (8 * u.n)
      let line := (fillFor s u).lineTimes key
      ∃ t, exec (.qntQuantumWrite key q) s = .next t ∧ t.readN key u.n = v ∧ bytesKeptBut s t key u.n ∧
        t.lineTimes key = (max line.1 (64 * (q + 1)), max line.2 (64 * (q + 1))) ∧
        t.pod.qnt = s.pod.qnt.filter (fun p => !(p.key == key && p.quantum == q)) ∧
        mget (fun _ => (0, 0)) t.pod.qntDone key = (q, BitVec.ofNat 64 (t.readN key (if key % 8 = 0 then 8 else 4))) ∧
        t.core = { s.core with usedTime := t.core.usedTime, oldCode := t.core.oldCode }) ∧
    ∀ ck c space, c < 8 →
      let k := ck * 8 + c
      (∀ r, r = ck * 8 + ((s.coreAt k).gang.follows.getD c) → (s.coreAt r).running.isSome →
        ∃ t, exec (.contextSwitch ck c space) s = .next t ∧
          t.coreAt r = { s.coreAt r with preempt := true } ∧ (∀ j, j ≠ r → t.coreAt j = s.coreAt j) ∧
          t.clusters = s.clusters ∧ bytesKept s t) ∧
      ((s.coreAt k).gang.follows = none → (s.coreAt k).running = none → ∃ t, exec (.contextSwitch ck c space) s = .next t ∧
        t.coreAt k = { s.coreAt k with space := space } ∧ ((t.clusterAt ck).ctxAt space).live = true ∧
        (∀ j, j ≠ k → t.coreAt j = s.coreAt j) ∧
        (∀ x, x ≠ space → (t.clusterAt ck).ctxAt x = (s.clusterAt ck).ctxAt x) ∧ bytesKept s t)

/-- R33, R54 to R57, R84, R88, R89, R91, R93, R94, R113, R114, R244, R308, R309: a launch on its way. A held record is
released once its predecessors have completed and the barrier before its phase has passed. The placer sends one
placement message per task, to the launch's die where it has no maps, else to the die that the maps give most bytes of the
task's tiles, the lowest on a tie, with base + i * stride in each argument word; it is done with a record after its last
task, and a map that it cannot use leaves code 0x0206; a refused record leaves with its code. A placement message becomes a
task of the chosen cluster, or keeps waiting, in its place, for an eligible one; that of an ended or cancelled launch makes
none. A spilled record moves from the head of the spill area to the end of the queue, and a miss there kills the job. A
sweep gathers counts and idle flags, that no task of the launch is still to be placed being one of them (log entry 22); two
successive ones that find all idle and the same S = V end the launch and fill its completion future. -/
def Obligations.LaunchesProceed : Prop :=
  ∀ (s : State) (die k : Nat), s.named die k →
    let r := s.record die k
    let h := ladderHandle s.pod.module die k 1 r.gen
    let queue := (s.dieAt die).launchQ
    (∀ q, queue.find? (fun q => q.handle == h) = some q →
      let done := fun (x : Nat) => ∃ g, s.ladder? r.parent = some g ∧ (x, true) ∈ g.keys
      (q.refused = 0 → (∀ x ∈ r.preds, done x) → barrierPassed s r = true →
        ∃ t, exec (.launchRelease die k) s = .next t ∧ t = { s with dies := t.dies } ∧
          (t.dieAt die).launchQ = queue.map fun x => if x.handle == h then { x with held := false } else x) ∧
      (q.refused = 0 → ∀ x ∈ r.preds, ¬ done x → exec (.launchRelease die k) s = .next s) ∧
      (q.refused ≠ 0 → r.kind = .launch → ∃ t, exec (.launchRelease die k) s = .next t ∧ t = { s with dies := t.dies } ∧
        (t.dieAt die).launchQ = queue.filter (fun x => x.handle != h) ∧
        t.record die k = { r with firstError := if r.firstError = 0 then q.refused else r.firstError, placed := true })) ∧
    (∀ q, queue.find? (fun q => !q.held || q.refused != 0) = some q →
      (q.refused ≠ 0 → q.handle = h → r.kind = .launch → ∃ t, exec (.placerTask die) s = .next t ∧
        (t.dieAt die).launchQ = queue.filter (fun x => x.handle != h) ∧
        t.record die k = { r with firstError := if r.firstError = 0 then q.refused else r.firstError, placed := true }) ∧
      (q.refused = 0 → q.next < q.count → s.pod.qnt = [] →
        ∀ es wrong s1 desc s2, readMap s die q = (es, wrong, s1) →
        placerDesc (if wrong then setFirstError s1 q.handle 0x206 else s1) die q = (desc, s2) →
        let args := (List.range 4).map (fun j => q.words.getD (4 + j) 0 + BitVec.ofNat 64 q.next * q.words.getD (8 + j) 0)
        let tiles := match desc with
          | some bs => tilesOf (descOf bs) args
          | none => []
        let bytes := fun d => (((tiles.flatMap fun x => mapBytes x.addr.toNat (x.addr.toNat + x.len) es).filter
          (fun x => x.1 == d)).map (·.2)).sum
        ∃ t p, exec (.placerTask die) s = .next t ∧
        t.pod = { s.pod with net := s.pod.net ++ [p], sent := s.pod.sent + 1 } ∧ p.msg.handler = 0x18 ∧ p.target = q.handle ∧
        p.msg.sender = q.entry ∧ p.msg.space = q.space ∧ (q.maps = 0 → p.dst / 4096 = q.die) ∧
        ((∀ d, d < 16 → bytes d = 0) → p.dst / 4096 = q.die) ∧
        ((∃ d, d < 16 ∧ bytes d ≠ 0) → p.dst / 4096 < 16 ∧
          ∀ d, d < 16 → bytes d ≤ bytes (p.dst / 4096) ∧ (bytes d = bytes (p.dst / 4096) → p.dst / 4096 ≤ d)) ∧
        (wrong = true → q.handle = h → r.kind = .launch →
          (t.record die k).firstError = if r.firstError = 0 then 0x206 else r.firstError) ∧
        [p.msg.w0, p.msg.w1, p.msg.w2, p.msg.w3] = args ∧
        (t.dieAt die).launchQ = (if q.next + 1 = q.count then queue.filter (fun x => x.handle != q.handle)
          else queue.map fun x => if x.handle == q.handle then { x with next := q.next + 1 } else x) ∧ bytesKept s t)) ∧
    (∀ (p : Packet),
      let placer := s.dieAt (p.dst / 4096)
      let waits := placer.waitingTasks.contains p
      let s1 := (if waits then s else s.arrive p).putDie (p.dst / 4096)
        { placer with waitingTasks := placer.waitingTasks.erase p }
      (waits = false → behind s p = true → exec (.taskPlacement p) s = .next s) ∧
      ((waits = true ∨ behind s p = false) → s.live? p.target = true → placeOn s1 p = none →
        ∃ t, exec (.taskPlacement p) s = .next t ∧ (t.dieAt (p.dst / 4096)).waitingTasks =
          (if waits then placer.waitingTasks else placer.waitingTasks ++ [p]) ∧ t.clusters = s.clusters ∧ bytesKept s t) ∧
      ((waits = true ∨ behind s p = false) → s.live? p.target = false → exec (.taskPlacement p) s = .next s1) ∧
      ∀ ck slot gen s2 task s3 l, (waits = true ∨ behind s p = false) → s.live? p.target = true → placeOn s1 p = some ck →
        allocateNow (s1.heddleAt ck p.msg.time) ck p.msg.space = (.got slot gen, s2) →
        heddleTask s2 ck p.msg.space p.msg.sender [p.msg.w0, p.msg.w1, p.msg.w2, p.msg.w3] p.target p.target p.msg.cls
          (if p.form / 16 = 0 then none else some (p.form / 16)) p.msg.time = (task, s3) →
        task.fail = 0 → parentCancelled s3 p.target = false → s3.ladder? p.target = some l →
        ∃ t, exec (.taskPlacement p) s = .next t ∧ MadeTask s3 t ck slot gen task p.msg.time ∧
          (t.ladder? p.target).map (·.created) = some (min (l.created + 1) 0xFFFFFFFF) ∧
          task.entry = p.msg.sender ∧ [task.a0, task.a1, task.a2, task.a3] = [p.msg.w0, p.msg.w1, p.msg.w2, p.msg.w3] ∧
          task.a4 = p.target ∧ task.launch = p.target) ∧
    (∀ q qs, (s.dieAt die).spilled = q :: qs → queue.length < 1024 → s.pod.qnt = [] →
      laterSpilled s die q = false →
      ∀ hp s1 a b s2, lspillHeader (s.heddleAt q.ck q.time) q.ck q.space = (some hp, s1) →
      lspillSlot s1 q.ck q.space (s1.readN (hp.key + 4) 4) = (some (a, b), s2) →
      let head := s.readN (hp.key + 4) 4
      let cap := s.readN hp.key 4
      let half := fun (p : Spot) => (List.range 8).map fun j => BitVec.ofNat 64 (s.readN (p.key + 8 * j) 8)
      head < cap → ∃ t, exec (.launchQueueDrain die) s = .next t ∧ (t.dieAt die).spilled = qs ∧
        (t.dieAt die).launchQ = (if s.live? q.handle then queue ++ [{ q with words := half a ++ half b }] else queue) ∧
        t.readN (hp.key + 4) 4 = (if head + 1 = cap then 0 else head + 1) ∧
        t.readN (hp.key + 12) 4 = s.readN (hp.key + 12) 4 - 1 ∧ bytesKeptBut s t hp.key 16) ∧
    (∀ q qs, (s.dieAt die).spilled = q :: qs → laterSpilled s die q = true → exec (.launchQueueDrain die) s = .next s) ∧
    (∀ q qs o s1, (s.dieAt die).spilled = q :: qs → queue.length < 1024 → laterSpilled s die q = false →
      lspillHeader (s.heddleAt q.ck q.time) q.ck q.space = (o, s1) →
      (o = none ∨ ∃ hp s2, o = some hp ∧ lspillSlot s1 q.ck q.space (s1.readN (hp.key + 4) 4) = (none, s2)) →
      ∃ t, exec (.launchQueueDrain die) s = .next t ∧ t.pod.kills = s.pod.kills ++ [(q.space, 0x311, q.time)] ∧
        (t.dieAt die).launchQ = queue ∧ (t.dieAt die).spilled = qs) ∧
    (r.kind = .launch → r.ended = false → r.standing = false → r.sweeping = false →
      ∃ t, exec (.sweepStart die k) s = .next t ∧ t = { s with dies := t.dies } ∧
        t.record die k = { r with sweeping := true, sweepIdle := false, sweepSum := 0, sweepRecv := 0 }) ∧
    (r.sweeping = true →
      let ms := participants s h r
      let count := fun ck => mget (fun _ => (0, 0)) (s.clusterAt ck).heddle.counts (launchTag h)
      (∃ t idle, exec (.sweep die k) s = .next t ∧ t = { s with dies := t.dies } ∧
        t.record die k = { r with sweepIdle := idle, sweepSum := (ms.map fun ck => (count ck).1).sum,
                                  sweepRecv := (ms.map fun ck => (count ck).2).sum } ∧
        (idle = true ↔ r.placed = true ∧ unplaced s h = false ∧ ∀ ck ∈ ms, clusterBusy s h ck = false)) ∧
      (r.ended = false → r.sweepIdle = true → r.sweepSum = r.sweepRecv → r.candidate = some r.sweepSum →
        s.ladder? r.parent = none → Fillable s r.space r.future →
        ∃ t, exec (.sweepResult die k) s = .next t ∧ (t.record die k).ended = true ∧ (t.record die k).sweeping = false ∧
          filled t r.future .full (BitVec.ofNat 64 (r.complete % 2 ^ 32 * 2 ^ 32 + min r.poisoned 65535 * 65536 +
            r.firstError)) r.maxTime ∧
          (∀ ck ∈ ms, h ∈ (t.clusterAt ck).heddle.kept ∧ mget (fun _ => (0, 0)) (t.clusterAt ck).heddle.counts (launchTag h)
            = (0, 0)) ∧ bytesKept s t) ∧
      (r.ended = false → ¬ (r.sweepIdle = true ∧ r.sweepSum = r.sweepRecv ∧ r.candidate = some r.sweepSum) →
        ∃ t, exec (.sweepResult die k) s = .next t ∧ t = { s with dies := t.dies } ∧
          t.record die k = { r with
            sweeping := false, sweeps := r.sweeps + 1,
            candidate := if r.sweepIdle = true ∧ r.sweepSum = r.sweepRecv then some r.sweepSum else none })) ∧
    (r.kind = .phase → r.entered = true → r.ended = false → Fillable s r.space r.future →
      (∀ j, s.ladder? r.parent = some j → j.kind = .job ∧ j.last = false) →
      (∀ j, s.ladder? r.job = some j → j.kind = .job) →
      ∃ t, exec (.phaseBarrierPass die k) s = .next t ∧ t.record die k = { r with ended := true, passed := true } ∧
        filled t r.future .full (BitVec.ofNat 64 r.tag) r.maxTime ∧ bytesKept s t)

/-- R18, R53, R54, R56: the ladder commands of a die, each with its result in LCRES. Create job gives the handle of a
new job record with an EMPTY completion future in the named cluster, and a standing launch of the same SPACE; the
reasons 1 to 5 are told in their order. Open phase gives the handle of a new phase record that is the job's current
one; close job marks the job's last phase, and completes at once a job that opened none, whose standing launch ends with
it and whose kept futures are then freed. A command that is refused with reason 1, 2, 3, 4, 6 or 7 changes nothing else, and
one whose allocation waits for an entry that is on its way out does nothing yet (R71). The order of the reasons and the job
without a phase are the model's choice (log entry 15), so are the first generation of a record (log entry 51) and the standing
launch without a completion future (log entry 55). -/
def Obligations.LadderCommands : Prop :=
  ∀ (s : State) (die : Nat) (lca lcb : Word), s.pod.module < 1024 → die < 16 →
    let result := fun (t : State) (v : Word) => (t.dieAt die).lcres = v ∧ (t.dieAt die).lca = lca ∧ (t.dieAt die).lcb = lcb
    let refused := fun (i : Instr) (v : Word) => ∃ t, exec i s = .next t ∧ result t v ∧ t = { s with dies := t.dies } ∧
      (t.dieAt die).ladder = (s.dieAt die).ladder
    let next := fun (k : Nat) => ((s.record die k).gen + 1) % 16777216
    (let space := (lca.extractLsb' 0 16).toNat
     let ck := die * 4096 + (lca.extractLsb' 16 12).toNat
     let live := s.ladders.any fun x => x.2.kind == .job && x.2.space == space && !x.2.ended
     let good := lca.extractLsb' 28 36 = 0 ∧ lcb = 0
     (¬ good → refused (.lcmdCreateJob die lca lcb) 1) ∧
     (good → twoLadders s die = none → refused (.lcmdCreateJob die lca lcb) 2) ∧
     ∀ i j, good → twoLadders s die = some (i, j) →
       (live = true → refused (.lcmdCreateJob die lca lcb) 3) ∧
       (live = false → s.serves ck = false ∨ ((s.clusterAt ck).ctxAt space).live = false →
         refused (.lcmdCreateJob die lca lcb) 4) ∧
       (live = false → s.serves ck = true → ((s.clusterAt ck).ctxAt space).live = true →
         (ladderWaits s die 1 lca lcb = true → exec (.lcmdCreateJob die lca lcb) s = .next s) ∧
         ((∀ slot gen, (allocateNow s ck space).1 ≠ .got slot gen) → ladderWaits s die 1 lca lcb = false →
           ∃ t, exec (.lcmdCreateJob die lca lcb) s = .next t ∧ result t 5) ∧
         ∀ slot gen s1, allocateNow s ck space = (.got slot gen, s1) →
           let h := ladderHandle s.pod.module die i 4 (next i)
           let fut := futureHandle s.pod.module ck slot gen
           ∃ t, exec (.lcmdCreateJob die lca lcb) s = .next t ∧ result t h ∧
             t.record die i = { kind := .job, space := space, future := fut, created := 1, gen := next i } ∧
             t.record die j = { kind := .launch, space := space, standing := true, parent := h, job := h, placed := true,
                                gen := next j } ∧
             ((t.clusterAt ck).entry slot).st = .empty ∧ ((t.clusterAt ck).entry slot).gen = gen ∧
             ((t.clusterAt ck).entry slot).owner = h)) ∧
    (let n := (lcb.extractLsb' 32 11).toNat
     let good := lcb.extractLsb' 43 21 = 0 ∧ n ≠ 0 ∧ n ≤ 1024
     (¬ good → refused (.lcmdOpenPhase die lca lcb) 1) ∧
     (good → freeLadder s (hDie lca) = none → refused (.lcmdOpenPhase die lca lcb) 2) ∧
     ∀ i, good → freeLadder s (hDie lca) = some i →
       (s.ladder? lca = none → refused (.lcmdOpenPhase die lca lcb) 6) ∧
       ∀ r, s.ladder? lca = some r →
         (r.kind ≠ .job → refused (.lcmdOpenPhase die lca lcb) 6) ∧
         (r.kind = .job → hSub lca = 4 → r.last = true → refused (.lcmdOpenPhase die lca lcb) 7) ∧
         (r.kind = .job → r.last = false → r.ended = true → refused (.lcmdOpenPhase die lca lcb) 6) ∧
         (ladderWaits s die 2 lca lcb = true → exec (.lcmdOpenPhase die lca lcb) s = .next s) ∧
         (r.kind = .job → hSub lca = 4 → r.last = false → r.ended = false →
           (∀ slot gen, (allocateNow s (hCk r.future) r.space).1 ≠ .got slot gen) → ladderWaits s die 2 lca lcb = false →
           ∃ t, exec (.lcmdOpenPhase die lca lcb) s = .next t ∧ result t 5) ∧
         ∀ slot gen s1, r.kind = .job → hSub lca = 4 → r.last = false → r.ended = false → hDie lca = die →
           hCluster lca ≠ i → r.current = 0 → allocateNow s (hCk r.future) r.space = (.got slot gen, s1) →
           let h := ladderHandle s.pod.module die i 3 (next i)
           ∃ t, exec (.lcmdOpenPhase die lca lcb) s = .next t ∧ result t h ∧
             t.record die i = { kind := .phase, space := r.space, future := futureHandle s.pod.module (hCk r.future) slot gen,
                                parent := lca, job := lca, tag := (lcb.extractLsb' 0 32).toNat, modules := n,
                                gen := next i } ∧
             t.ladder? lca = some { r with current := h, created := satInc r.created } ∧ ((t.clusterAt (hCk r.future)).entry slot).st = .empty ∧
             ((t.clusterAt (hCk r.future)).entry slot).owner = h) ∧
    (lcb ≠ 0 → refused (.lcmdCloseJob die lca lcb) 1) ∧
    (lcb = 0 →
      (s.ladder? lca = none → refused (.lcmdCloseJob die lca lcb) 6) ∧
      ∀ r, s.ladder? lca = some r →
        (r.kind ≠ .job → refused (.lcmdCloseJob die lca lcb) 6) ∧
        (r.kind = .job → hSub lca = 4 → r.last = true → refused (.lcmdCloseJob die lca lcb) 7) ∧
        (r.kind = .job → hSub lca = 4 → r.last = false → r.ended = false →
          (∀ p, s.ladder? r.current = some p → p.ended = false → r.current ≠ lca → hKind r.current = 2 →
            (hDie r.current, hCluster r.current) ≠ (hDie lca, hCluster lca) →
            ∃ t, exec (.lcmdCloseJob die lca lcb) s = .next t ∧ result t 0 ∧ t = { s with dies := t.dies } ∧
              t.ladder? lca = some { r with last := true }) ∧
          (r.current = 0 → Fillable s r.space r.future →
            (∀ x ∈ s.ladders, x.2.standing = true → x.2.job = lca → (hDie x.1, hCluster x.1) ≠ (hDie lca, hCluster lca)) →
            ∃ t time, exec (.lcmdCloseJob die lca lcb) s = .next t ∧ result t 0 ∧
              (t.ladder? lca).map (fun x => (x.last, x.ended)) = some (true, true) ∧
              r.maxTime ≤ time ∧ filled t r.future .full 0 time ∧
              ∀ d k, s.named d k → (s.record d k).kind = .launch → (s.record d k).standing = true →
                (s.record d k).job = lca → (s.record d k).ended = false → (s.dies.map (·.1)).Nodup →
                (∀ x ∈ s.dies, x.1 < 16 ∧ (x.2.ladder.map (·.1)).Nodup ∧ ∀ y ∈ x.2.ladder, y.1 < 4096 ∧ y.2.gen < 16777216) →
                let h := ladderHandle s.pod.module d k 1 (s.record d k).gen
                (t.record d k).ended = true ∧ ∀ ck, (∃ e ∈ (s.clusterAt ck).entries, e.2.launch = h) →
                  h ∈ (t.clusterAt ck).heddle.kept)))

/-- R64, R65, R82 to R84, R109 to R111, R280: scans and moves. The scan after a launch frees one kept entry of it per
step, or clears the record of a spilled one, leaves a pinned one to be freed later, and waits at a slot that is being
spilled or woken. The scan of a cancelled entry cancels its EMPTY children, one slot per step: a waiting, staging or ready
task ends, a running or parked one is marked and ends at no earlier time than the cancellation. The balancer does nothing
while no two clusters of a context differ by 8, and starts to move the first movable task of the longest queue where they do
(which tasks it moves beside R109's own exclusions, and in which order, is the model's choice, log entry 23; what is granted
to a context is log entry 21). A move that is copied leaves the task at its new place, its old slot free and a forwarding
entry behind; it waits while something of the task is still under way, and one whose copy fails leaves the task where it is;
an entry expires alone. -/
def Obligations.ScansAndMoves : Prop :=
  ∀ (s : State) (ck : Nat),
    let heddle := (s.clusterAt ck).heddle
    (∀ l ls, heddle.kept = l :: ls →
      (4096 ≤ heddle.keptPos → ∃ t, exec (.keptEntryScan ck) s = .next t ∧ (t.clusterAt ck).heddle.kept = ls ∧
        t = { s with clusters := t.clusters } ∧ ∀ i, (t.clusterAt ck).entry i = (s.clusterAt ck).entry i) ∧
      (heddle.keptPos < 4096 → (s.clusterAt ck).busy heddle.keptPos = true → exec (.keptEntryScan ck) s = .next s) ∧
      (∀ x ks s1 p, heddle.keptPos < 4096 → (s.clusterAt ck).busy heddle.keptPos = false → s.pod.qnt = [] →
        heddle.keptSpilled.filter (fun x => x.2 == l && hSlot x.1 == heddle.keptPos) = [x] →
        ((s.clusterAt ck).entry heddle.keptPos).refill = [] →
        (((s.clusterAt ck).entry heddle.keptPos).keep = true → ((s.clusterAt ck).entry heddle.keptPos).launch ≠ l) →
        spillWindow (s.putHeddle ck { heddle with
            keptPos := heddle.keptPos + 1, keptSpilled := heddle.keptSpilled.filter (fun y => y.1 != x.1) })
          ck (((s.ladder? l).map (·.space)).getD ((s.clusterAt ck).entry heddle.keptPos).space) heddle.keptPos (hGen x.1) =
          (some ks, s1) →
        ks.find? (recOf s1 x.1) = some p →
        ∃ t, exec (.keptEntryScan ck) s = .next t ∧ (t.clusterAt ck).heddle.keptPos = heddle.keptPos + 1 ∧
          t.readN (p.key + 32) 1 = s.readN (p.key + 32) 1 % 128 ∧ bytesKeptBut s t (p.key + 32) 1) ∧
      (heddle.keptPos < 4096 → heddle.keptSpilled = [] → (s.clusterAt ck).busy heddle.keptPos = false →
        let i := heddle.keptPos
        let e := (s.clusterAt ck).entry i
        let mine := e.resident = true ∧ e.keep = true ∧ e.launch = l ∧ (e.st = .full ∨ e.st = .poisoned)
        ∃ t, exec (.keptEntryScan ck) s = .next t ∧ (t.clusterAt ck).heddle.keptPos = i + 1 ∧
          (t.clusterAt ck).heddle.kept = l :: ls ∧ t = { s with clusters := t.clusters } ∧
          (∀ j, j ≠ i → (t.clusterAt ck).entry j = (s.clusterAt ck).entry j) ∧
          (mine → e.pinned = false → ((t.clusterAt ck).entry i).st = .free ∧ ((t.clusterAt ck).entry i).count = e.count) ∧
          (mine → e.pinned = true → (t.clusterAt ck).entry i = { e with ended := true }) ∧
          (¬ mine → (t.clusterAt ck).entry i = e))) ∧
    (∀ head rest, heddle.scans = head :: rest →
      (4096 ≤ heddle.scanPos → ((s.clusterAt ck).entry head).scan1 = false → ((s.clusterAt ck).entry head).refill = [] →
        ∃ t, exec (.cancelScanStep ck) s = .next t ∧ t = { s with clusters := t.clusters } ∧
          (t.clusterAt ck).heddle.scans = rest ∧
          (t.clusterAt ck).entry head = { (s.clusterAt ck).entry head with scan0 := false, scan1 := false }) ∧
      (heddle.scanPos < 4096 → (s.clusterAt ck).busy heddle.scanPos = false →
        let i := heddle.scanPos
        let e := (s.clusterAt ck).entry i
        let task := (s.clusterAt ck).task i
        let owner := ((s.clusterAt ck).entry head).owner
        let child := e.st = .empty ∧ e.parent ≠ 0 ∧ (e.parent = entryHandle s ck head ∨ (owner ≠ 0 ∧ e.parent = owner))
        (¬ child → ∃ t, exec (.cancelScanStep ck) s = .next t ∧ t = { s with clusters := t.clusters } ∧
          (t.clusterAt ck).heddle.scanPos = i + 1 ∧ ∀ j, (t.clusterAt ck).entry j = (s.clusterAt ck).entry j) ∧
        (child → e.consumed = false → e.owner = 0 →
          (task.st = .waiting ∨ task.st = .staging ∨ task.st = .ready → task.visible = true →
            task.moved = false → e.ended = false → e.ue = false → e.refill = [] →
            ∃ t, exec (.cancelScanStep ck) s = .next t ∧ (t.clusterAt ck).heddle.scanPos = i + 1 ∧
              ((t.clusterAt ck).task i).st = .free ∧ ((t.clusterAt ck).entry i).st = .cancelled) ∧
          (task.st = .running ∨ task.st = .parkedTouch ∨ task.st = .parkedPre →
            ∃ t, exec (.cancelScanStep ck) s = .next t ∧ (t.clusterAt ck).heddle.scanPos = i + 1 ∧
              (t.clusterAt ck).task i = { task with
                cancel := true, pts := max task.pts ((s.clusterAt ck).entry head).fillTime } ∧ (t.clusterAt ck).entry i = e)))) ∧
    (∀ die,
      let cks := (s.clusters.filter (fun c => c.1 / 4096 == die)).map (·.1)
      let spaces := (cks.flatMap (fun ck => (s.clusterAt ck).spaces)).eraseDups
      (∀ c ∈ cks, (s.clusterAt c).hstate ≠ 1) →
      ((∀ sp ∈ spaces, ∀ a ∈ granted s die sp, ∀ b ∈ granted s die sp, queueLength s a < queueLength s b + 8) →
        exec (.balancerCheck die) s = .next s) ∧
      ∀ sp long short slot rest s1, spaces = [sp] →
        minBy (fun ck => 2 ^ 32 - queueLength s ck) (granted s die sp) = some long →
        minBy (queueLength s) (granted s die sp) = some short → queueLength s short + 8 ≤ queueLength s long →
        s.clusters.any (fun c => c.1 / 4096 == die && !c.2.incoming.isEmpty) = false →
        movables s long sp = slot :: rest → startMove s long short slot = (true, s1) →
        ∃ t, exec (.balancerCheck die) s = .next t ∧ ((t.clusterAt long).task slot).leaving = true ∧
          ((s1.clusterAt long).task slot) = { (s.clusterAt long).task slot with leaving := true } ∧
          ∃ m, m ∈ (s1.clusterAt short).incoming ∧ m.2.ck = long ∧ m.2.slot = slot) ∧
    (∀ slot m s1, (s.clusterAt ck).incoming.find? (fun x => x.1 == slot) = some (slot, m) → m.ck ≠ ck →
      let task := (s.clusterAt m.ck).task m.slot
      task.leaving = true → s.pod.qnt = [] → (s.clusterAt m.ck).fwd.length < 32 → stillArrives s m.ck m.slot = false →
      moveBytes s m.ck ck m.slot slot m.tiles = .ok s1 →
      ∃ t, exec (.migrationCopyDone ck slot) s = .next t ∧
        (t.clusterAt ck).task slot = { task with
          st := .ready, tiles := m.tiles, leaving := false, moved := true, front := true, prefer := none } ∧
        ((t.clusterAt m.ck).task m.slot).st = .free ∧
        (∃ f ∈ (t.clusterAt m.ck).fwd, f.2.home = task.home ∧ f.2.name = task.name ∧ f.2.dst = ck ∧ f.2.dstSlot = slot) ∧
        (t.clusterAt ck).incoming.find? (fun x => x.1 == slot) = none ∧
        ∀ x y, task.started = false → task.tiles = [x] → m.tiles = [y] →
          let src := arrayKey m.ck (x.region.getD 0)
          let dst := arrayKey ck (y.region.getD 0)
          meets dst x.len (parkKey s ck task.space slot) 320 = false →
          meets dst x.len (parkKey s m.ck task.space m.slot) 64 = false →
          ((s.clusterAt m.ck).entry m.slot).refill = [] → bytesFrom t.mem dst x.len = bytesFrom s.mem src x.len) ∧
    (∀ slot m, (s.clusterAt ck).incoming.find? (fun x => x.1 == slot) = some (slot, m) →
      let task := (s.clusterAt m.ck).task m.slot
      (task.leaving = true → 32 ≤ (s.clusterAt m.ck).fwd.length ∨ stillArrives s m.ck m.slot = true →
        exec (.migrationCopyDone ck slot) s = .next s) ∧
      ∀ s1, task.leaving = true → (s.clusterAt m.ck).fwd.length < 32 → stillArrives s m.ck m.slot = false →
        moveBytes s m.ck ck m.slot slot m.tiles = .error s1 →
        ∃ t, exec (.migrationCopyDone ck slot) s = .next t ∧
          (t.clusterAt m.ck).task m.slot = { task with leaving := false } ∧
          (t.clusterAt ck).incoming.find? (fun x => x.1 == slot) = none) ∧
    ∀ k, ∃ t, exec (.forwardingEntryExpiry ck k) s = .next t ∧ t = { s with clusters := t.clusters } ∧
      (t.clusterAt ck).fwd = (s.clusterAt ck).fwd.filter (fun f => f.1 != k)

/-- R149, R150, R165, R168, R173, R177 to R182, R239, R244, R317, R318, R330: a request of another module at its home. A load
answers the bytes at max(pts, wts), with the mark of an error where it meets one; a store writes its bytes and answers
max(pts + 1, rts + 1), or waits for what is still to be read; an atomic writes its operation's result and answers the old
value, an atomic of another use waits with its batch or quantum, or reads. A device answers an aligned 8-byte load of a
core. The packets that carry what one job writes here wait for one another and are acknowledged with one time. A refused
access is recorded, ends the job and is told to the issuer. An answer brings its value to the destination register, to the
waiting core, to the parked task or to the engine job that asked, acknowledges a packet of a copy or fails it, or tells that a
.com or .qnt atomic was performed. The DDOM of a request, and a time for each module that a job writes, are the model's
choice (log entry 68). -/
def Obligations.RemoteAccesses : Prop :=
  ∀ (p : Packet) (s : State), s.pod.qnt = [] → behind s p = false →
    let n := p.msg.w1.toNat
    let time := p.msg.time
    (∀ tg leaf k s1, homeOf (s.arrive p) p false = (some (tg, leaf), s1) → tg.key? = some k → s.marked k n = false →
      ∃ t, exec (.remoteLoad p) s = .next t ∧ Answered s t p (s.readN k n)
        (max time ((if n = 0 then s1 else homeLine s1 p.dst p.msg.space k leaf).lineTimes k).1) (if ofJob p then 1 else 0) ∧
        bytesKept s t) ∧
    (∀ tg leaf k s1, homeOf (s.arrive p) p false = (some (tg, leaf), s1) → tg.key? = some k → s.marked k n = true →
      ∃ t time', exec (.remoteLoad p) s = .next t ∧
        Answered s t p (s.readN k n + markedAnswer) time' (if ofJob p then 1 else 0) ∧ bytesKept s t) ∧
    (∀ pa leaf s1, homeOf (s.arrive p) p false = (some (.device pa, leaf), s1) → ofJob p = false →
      ∃ t, exec (.remoteLoad p) s = .next t ∧ bytesKept s t ∧
        if n = 8 ∧ p.target.toNat % 8 = 0 then Answered s t p (devRead s1 pa) (time + 1) 0
        else Answered s t p alignAnswer time 0) ∧
    (let mine := s.pod.net.filter (sameJob p)
     ofJob p = true →
      (mine.length < p.payload.toNat ∨ mine.any (behind s) = true → exec (.remoteStore p) s = .next s) ∧
      ∀ l s1, p.payload.toNat ≤ mine.length → mine.any (behind s) = false → landings (mine.foldl State.arrive s) mine = (l, s1) →
        (pushWaits s1 l = true → exec (.remoteStore p) s = .next s) ∧
        (pushWaits s1 l = false → beforeSegs s1 {} ((l.filter (fun x => (Landing.seg x).isSome)).filterMap Landing.seg) = none →
          exec (.remoteStore p) s = .next s) ∧
        ((∀ x ∈ l, ∃ tg leaf, x.2 = some (tg, leaf) ∧ tg.key?.isSome = true) → pushWaits s1 l = false →
          beforeSegs s1 {} ((l.filter (fun x => (Landing.seg x).isSome)).filterMap Landing.seg) = some s1 →
          ((l.filterMap Landing.seg).any fun g => g.marked s) = false →
          ∃ t time', time + 1 ≤ time' ∧ exec (.remoteStore p) s = .next t ∧
            (∀ x ∈ mine, ∃ q : Packet, (q ∈ t.pod.net ∨ q ∈ t.pod.unacked) ∧ q.msg.handler = 7 ∧ q.target = x.target ∧
              q.dstModule = x.srcModule ∧ q.msg.w1 = x.msg.w2 ∧ q.msg.w3 = 0 ∧ q.msg.time = time') ∧
            (∀ tg leaf k, l = [(p, some (tg, leaf))] → tg.key? = some k →
              t.readN k n = p.form % 2 ^ (8 * n) ∧ bytesKeptBut s t k n))) ∧
    (∀ tg leaf k s1, homeOf (s.arrive p) p true = (some (tg, leaf), s1) → tg.key? = some k →
      ofJob p = false → 0 < n →
      let times := (homeLine s1 p.dst p.msg.space k leaf).lineTimes k
      (beforeWriteBy s1 {} k n = none → exec (.remoteStore p) s = .next s) ∧
      (beforeWriteBy s1 {} k n = some s1 → ∃ t, exec (.remoteStore p) s = .next t ∧ Answered s t p 0 (max (time + 1) (times.2 + 1)) 0 ∧
        t.readN k n = p.form % 2 ^ (8 * n) ∧ bytesKeptBut s t k n) ∧
      ((∃ pa, tg = .hbm pa) ∨ (∃ ck off, tg = .array ck off) →
        (let opnd := p.form % 2 ^ 64
         let op := p.form / 2 ^ 64 % 16
         let use := p.form / 2 ^ 68 % 8
         let pending := fun (u : Pending) => u.key = k ∧ u.n = n ∧ u.op = op ∧ u.operand = BitVec.ofNat 64 opnd
         (use = 0 ∨ use = 1 ∨ use = 3 → beforeWriteBy s1 {} k n = none → exec (.remoteAmo p) s = .next s) ∧
         (use = 0 ∨ use = 1 ∨ use = 3 → beforeWriteBy s1 {} k n = some s1 → s.marked k n = false →
           ∃ t, exec (.remoteAmo p) s = .next t ∧
             Answered s t p (s.readN k n) (if use = 0 then max (time + 1) (times.2 + 1) else 0) 0 ∧
             t.readN k n = amoOp op (8 * n) (s.readN k n) opnd % 2 ^ (8 * n) ∧ bytesKeptBut s t k n) ∧
         (use = 2 → ∃ t u, exec (.remoteAmo p) s = .next t ∧ Answered s t p 0 0 0 ∧ t.pod.com = s.pod.com ++ [u] ∧
           pending u ∧ bytesKept s t) ∧
         (use = 4 → s.pod.qntDone = [] → s.marked k n = false → ∃ t u, exec (.remoteAmo p) s = .next t ∧
           Answered s t p (s.readN k n) 0 0 ∧ t.pod.qnt = [u] ∧ pending u ∧
           u.quantum = max (time / 64) ((s1.lineTimes k).2 / 64) ∧ bytesKept s t) ∧
         (use = 5 → s.marked k n = false → ∃ t, exec (.remoteAmo p) s = .next t ∧ Answered s t p (s.readN k n) 0 0 ∧ bytesKept s t)) ∧
        (let expected := p.form % 2 ^ 64
         let new := p.form / 2 ^ 64 % 2 ^ 64
         let use := p.form / 2 ^ 128 % 8
         (use ≠ 5 → beforeWriteBy s1 {} k n = none → exec (.remoteCas p) s = .next s) ∧
         (use = 0 ∨ use = 1 ∨ use = 3 → beforeWriteBy s1 {} k n = some s1 → s.marked k n = false → ∃ t, exec (.remoteCas p) s = .next t ∧
           Answered s t p (s.readN k n) (if use = 0 then max (time + 1) (times.2 + 1) else 0) 0 ∧
           (s.readN k n = expected → t.readN k n = new % 2 ^ (8 * n) ∧ bytesKeptBut s t k n) ∧
           (s.readN k n ≠ expected → bytesKept s t)) ∧
         (use = 5 → s.marked k n = false → ∃ t, exec (.remoteCas p) s = .next t ∧ Answered s t p (s.readN k n) 0 0 ∧ bytesKept s t)))) ∧
    (∀ i write, (i = .remoteLoad p ∧ write = false) ∨
        ((i = .remoteStore p ∧ ofJob p = false) ∨ i = .remoteAmo p ∨ i = .remoteCas p) ∧ write = true →
      (homeOf (s.arrive p) p write).1 = none → ∃ t, exec i s = .next t ∧
        (if ofJob p then Answered s t p 0 time 2 else Answered s t p fatalAnswer time 0) ∧
        t.pod.kills = s.pod.kills ++ [(p.msg.space, 0x310, time)] ∧ bytesKept s t) ∧
    (let w := p.reply
     let task := (s.clusterAt w.ck).task w.slot
     (∀ k, w.core = some k → s.pod.orphans.any (·.1 == w) = false → sameWaiter s w = true →
       (s.coreAt k).running = some w.slot → (s.coreAt k).answers.length < (s.coreAt k).asked →
       ∃ t, exec (.answer p) s = .next t ∧ bytesKept s t ∧ t.coreAt k = { s.coreAt k with
         answers := (s.coreAt k).answers ++ [p.form], pts := max (s.coreAt k).pts time, waiting := false }) ∧
     (w.core = none → p.msg.w2 = 2 → p.msg.w1 ≠ 0 → p.msg.w1.toNat < 2 ^ 63 → ∀ j, s.job? (p.msg.w1.toNat - 1) = some j →
       let j1 := { j with acks := j.acks - 1 }
       (∀ j2, (p.msg.w3 = 0 ∧ j2 = { j1 with tr := max j.tr (time - 1) }) ∨
           (p.msg.w3 = 1 ∧ j2 = { j1 with tr := max j.tr time, got := mput j.got p.target.toNat p.form }) ∨
           (p.msg.w3 = 3 ∧ j2 = { j1 with code := 6 }) ∨
           (p.msg.w3 = 4 ∧ j.kind = .copy ∧ j2 = { j1 with tr := max j.tr (time - 1), code := 2 }) →
         ∃ t, exec (.answer p) s = .next t ∧ t.core = s.core ∧ bytesKept s t ∧ t.job? j.id = some j2) ∧
       (p.msg.w3 = 2 → j.discard = true → ∃ t, exec (.answer p) s = .next t ∧ t.core = s.core ∧ bytesKept s t ∧
         t.pod.kills = s.pod.kills ++ [(p.msg.space, 0x310, time)] ∧ t.job? j.id = none)) ∧
     (w.core = none → p.msg.w2 = 4 → ∃ t, exec (.answer p) s = .next t ∧ bytesKept s t ∧
       t.pod.farUsed = s.pod.farUsed.eraseIdx (s.pod.farUsed.findIdx (fun o => o.1 == w))) ∧
     (w.core = none → s.pod.orphans.any (·.1 == w) = false → sameWaiter s w = true → p.msg.w2 = 1 →
       s.pod.late.any (fun l => l.asked == w && !l.ready) = false → task.st = .parkedTouch → task.touch = p.target →
       task.cancel = false → p.msg.w3 = 0 → task.base ≤ w.reg → w.reg < task.base + 32 →
       ∃ t, exec (.answer p) s = .next t ∧ ((t.clusterAt w.ck).task w.slot).st = .ready ∧
         ((t.clusterAt w.ck).task w.slot).pc = p.msg.w1 ∧ ((t.clusterAt w.ck).task w.slot).pts = max task.pts time ∧
         t.readN (parkKey s w.ck task.space w.slot + 64 + 8 * (w.reg - task.base)) 8 = p.form % 2 ^ 64) ∧
     (w.core = none → s.pod.orphans.any (·.1 == w) = false → p.msg.w2 = 0 → p.msg.w3 = 0 →
       p.form < markedAnswer →
       ∀ (i : Nat) (l : Late), s.pod.late.findIdx (fun l => l.asked == w && !l.ready) = i → s.pod.late[i]? = some l →
         ∃ t, exec (.answer p) s = .next t ∧ bytesKept s t ∧
           t.pod.late = (if w.reg = noRegister then s.pod.late.eraseIdx i else s.pod.late.set i { l with
             ready := true, value := answerValue l p.form, time := time, mark := none })))

/-- R41, R43 to R46, R57, R64, R65, R76 to R86, R110, R171, R244: a request of another module about a future that is
resident in the cluster it goes to. TOUCH of a filled one answers its word and its fill time, and frees it as a TOUCH
of the cluster would; an EMPTY one answers 0x302 to its own task and 0x304 to privileged code, and records any other
waiter in a node. RESOLVE, POISON, CANCEL, DEPDEC, FSPILL and FFILL have the effects and the status of the local
instructions, CANCEL of a job, by its handle or its completion future, only for a privileged issuer; DEPDEC and CANCEL of a
task that moved reach it where it is now, CANCEL by its forwarding entry (status 0 once that has expired, log entry 23). The
end of a task that moved fills the future it left. A handle outside the range is stale (R90; log entry 50). A wake makes the
waiter ready. -/
def Obligations.RemoteFutures : Prop :=
  ∀ (p : Packet) (s : State), behind s p = false →
    let ck := p.dst
    let slot := hSlot p.target
    let now := p.msg.time
    let task := (s.clusterAt ck).task slot
    let record := parkKey s ck task.space slot
    let answers := fun (i : Instr) (v : Nat) => ∃ t, exec i s = .next t ∧ Answered s t p v now 0 ∧ bytesKept s t
    (∀ e, AtHome s p e →
      (let word := touchWord e.st e.value
       let variant := p.form % 8
       (e.st ≠ .empty → p.form / 8 % 2 = 0 →
         ∃ t, exec (.remoteTouch p) s = .next t ∧
           Answered s t p word.toNat e.fillTime (if variant = 2 ∧ e.st ≠ .full then 1 else 0) ∧
           (e.refill = [] → e.waiters = [] → e.ended = false → e.scan0 = false → e.task = false →
             variant ≠ 1 → e.keep = false → variant ≠ 2 ∨ e.st = .full → ((t.clusterAt ck).entry slot).st = .free) ∧
           (e.refill = [] → e.ended = false → variant = 1 ∨ e.keep = true ∨ (variant = 2 ∧ e.st ≠ .full) →
             ((t.clusterAt ck).entry slot).st = e.st ∧ ((t.clusterAt ck).entry slot).value = e.value)) ∧
       (e.st = .empty → variant ≠ 2 →
         (p.msg.w3 = 1 → ∃ t, exec (.remoteTouch p) s = .next t ∧ Answered s t p 0x8000000000000302 0 0) ∧
         (p.msg.w3 ≠ 1 → p.form / 8 % 2 = 1 →
           ∃ t, exec (.remoteTouch p) s = .next t ∧ Answered s t p 0x8000000000000304 0 0)) ∧
       (e.st = .empty → p.msg.w3 ≠ 1 → p.form / 8 % 2 = 0 → nodeOf (s.clusterAt ck).heddle p.target p.srcModule p.reply = none →
         ∀ i, firstBelow 512 (fun i => !(s.clusterAt ck).heddle.nodes.any (fun x => x.1 == i)) = some i →
         ∃ t, exec (.remoteTouch p) s = .next t ∧ (i, (p.target, p.srcModule, p.reply)) ∈ (t.clusterAt ck).heddle.nodes ∧
           4096 + i ∈ ((t.clusterAt ck).entry slot).waiters ∧ ((t.clusterAt ck).entry slot).st = .empty ∧
           t.pod = { s.pod with net := s.pod.net.erase p } ∧ bytesKept s t)) ∧
      (∀ i st, (i = .remoteResolve p ∧ st = .full) ∨ (i = .remotePoison p ∧ st = .poisoned) →
        (p.form / 4 % 2 = 0 →
          (e.owner ≠ 0 → answers i 16) ∧
          (e.owner = 0 → e.st ≠ .empty → answers i 2) ∧
          (e.owner = 0 → e.st = .empty → ∃ t, exec i s = .next t ∧ Answered s t p 1 now 0 ∧ bytesKept s t ∧
            (t.clusterAt ck).entry slot = { e with
              st := st, value := p.msg.w1, fillTime := now, age := s.cycle, toWake := e.waiters,
              keep := p.form % 2 == 1 || e.keep })) ∧
        (p.form / 4 % 2 = 1 → e.task = true → e.st = .empty → e.ended = false → e.refill = [] →
          ∃ t, exec i s = .next t ∧ ((t.clusterAt ck).entry slot).st = (if p.form / 8 % 2 = 1 then .cancelled else st) ∧
            ((t.clusterAt ck).entry slot).value = p.msg.w1 ∧ ((t.clusterAt ck).entry slot).task = false ∧ bytesKept s t)) ∧
      (hKind p.target ≠ 2 → ck = hCk p.target → p.form ≠ 1 →
        (e.st ≠ .empty → answers (.remoteCancel p) 4) ∧
        (e.owner = 0 → e.st = .empty → task.st = .waiting ∨ task.st = .staging ∨ task.st = .ready →
          task.moved = false → ∃ t, exec (.remoteCancel p) s = .next t ∧ Answered s t p 1 now 0 ∧
            ((t.clusterAt ck).task slot).st = .free ∧
            (task.visible = true → e.ended = false → e.refill = [] → ((t.clusterAt ck).entry slot).st = .cancelled)) ∧
        (e.owner = 0 → e.st = .empty → task.st = .running ∨ task.st = .parkedTouch ∨ task.st = .parkedPre →
          ∃ t, exec (.remoteCancel p) s = .next t ∧ Answered s t p 2 now 0 ∧
            (t.clusterAt ck).task slot = { task with cancel := true, pts := max task.pts now } ∧
            bytesKeptBut s t record 64) ∧
        (e.owner = 0 → e.st = .empty → task.st = .free →
          ((s.clusterAt ck).forward? p.target = none → ∃ t, exec (.remoteCancel p) s = .next t ∧ bytesKept s t ∧
            ∃ q : Packet, (q ∈ t.pod.net ∨ q ∈ t.pod.unacked) ∧ q.msg.handler = 7 ∧ q.reply = p.reply ∧ q.form = 0) ∧
          ∀ f, (s.clusterAt ck).forward? p.target = some f → ∃ t, exec (.remoteCancel p) s = .next t ∧
            t.pod = { s.pod with
              net := t.pod.net, sent := s.pod.sent + 1, fabric := t.pod.fabric, unacked := t.pod.unacked } ∧
            (p.dstModule = s.pod.module →
              t.pod.net = s.pod.net.erase p ++ [{ p with dst := f.dst, seq := s.pod.sent }]) ∧ bytesKept s t) ∧
        (e.st = .empty → hSub e.owner = 4 → p.msg.w3 ≠ 1 →
          ∃ t, exec (.remoteCancel p) s = .next t ∧ Answered s t p 0 now 1 ∧ bytesKept s t)) ∧
      (∀ k i, (k, i) = (if task.st = .free then (s.movedTask p.target).getD (ck, slot) else (ck, slot)) →
        let task := (s.clusterAt k).task i
        (e.owner = 0 ∧ e.task = true ∧ task.st ≠ .free ∧ task.cancel = false →
          (task.deps = 0 → answers (.remoteDepdec p) 2) ∧
          (0 < task.deps → ∃ t, exec (.remoteDepdec p) s = .next t ∧ bytesKeptBut s t (parkKey s k task.space i) 64 ∧
            Answered s t p (if task.deps = 1 then 1 else 0) now 0 ∧ ((t.clusterAt k).task i).deps = task.deps - 1 ∧
            ((t.clusterAt k).task i).pts = max task.pts now ∧
            ((t.clusterAt k).task i).st =
              if task.deps ≠ 1 then task.st else if task.tiles = [] then .ready else .staging)) ∧
        (e.owner ≠ 0 ∨ e.task = false ∨ task.st = .free ∨ task.cancel = true → answers (.remoteDepdec p) 8)) ∧
      answers (.remoteFfill p) 8 ∧
      (e.pinned = true → answers (.remoteFspill p) 2) ∧
      (e.pinned = false → s.pod.qnt = [] → ∀ ks s1 k, spillWindow ((s.arrive p).heddleAt ck now) ck e.space slot e.gen = (some ks, s1) →
        ks.find? (fun k => !recValid s1 k) = some k →
        ∃ t, exec (.remoteFspill p) s = .next t ∧ Answered s t p 1 now 0 ∧ bytesKeptBut s t k.key 64 ∧
          recValid t k = true ∧ t.readN (k.key + 8) 8 = e.value.toNat ∧ t.readN (k.key + 16) 8 = e.parent.toNat ∧
          t.readN (k.key + 24) 8 = e.owner.toNat ∧ ((t.clusterAt ck).entry slot).st = .spilled)) ∧
    (hKind p.target = 2 → p.form ≠ 1 →
      (hSub p.target = 4 → p.msg.w3 ≠ 1 →
        ∃ t, exec (.remoteCancel p) s = .next t ∧ Answered s t p 0 now 1 ∧ bytesKept s t) ∧
      (hSub p.target ≠ 4 ∨ p.msg.w3 = 1 →
        (s.ladder? p.target = none → answers (.remoteCancel p) 8) ∧
        ∀ r, s.ladder? p.target = some r →
          (r.ended = true ∨ r.wasCancelled = true → answers (.remoteCancel p) 4) ∧
          (r.ended = false → r.wasCancelled = false → r.kind = .job →
            ∃ t, exec (.remoteCancel p) s = .next t ∧ Answered s t p 1 now 0 ∧
              t.pod.kills = s.pod.kills ++ [(r.space, 0, now)] ∧ bytesKept s t))) ∧
    ((s.clusterAt ck).inRange p.msg.space slot = false →
      (p.form % 8 ≠ 2 → ∃ t, exec (.remoteTouch p) s = .next t ∧ Answered s t p 0x8000000000000301 0 0) ∧
      (p.form / 4 % 2 = 0 → answers (.remoteResolve p) 4 ∧ answers (.remotePoison p) 4) ∧
      (hKind p.target ≠ 2 → ck = hCk p.target → p.form ≠ 1 → answers (.remoteCancel p) 8) ∧
      answers (.remoteDepdec p) 4 ∧ answers (.remoteFspill p) 4 ∧
      answers (.remoteFfill p) 4) ∧
    (let w := p.reply
     let waiter := (s.clusterAt w.ck).task w.slot
     sameWaiter s w = true → waiter.touch = p.target → waiter.st = .parkedTouch → waiter.cancel = false →
     ∃ t, exec (.remoteWake p) s = .next t ∧ ((t.clusterAt w.ck).task w.slot).st = .ready ∧
       ((t.clusterAt w.ck).task w.slot).pc = waiter.pc ∧ t.pod = { s.pod with net := s.pod.net.erase p })

/-- R28, R32, R53, R111, R113, R127, R128, R172, R245, R247 to R251, R259: messages at their target. A group store of
a running group of one core replaces lanes f to f + cnt - 1 of its register, is counted by the register's hold and
raises pts to the message's time; one for a group that is parked at a TOUCH, too small or gone comes back with its
reason, one for a group that moved goes on. Each packet is taken once none of its sender is before it. A channel
message joins its channel's queue, or comes back where the channel is unbound or full; a bounce notice raises BOUNCE.
A queued message becomes an activation of its channel's class (whoever bound the channel, log entry 57) and priority; under
a gate as many messages as it counts become one, and stay in the channel's queue until its dispatch (what becomes of them
where it ends before is log entry 35). An entry-address message becomes a task of the sender's launch, which counts it as
received, or comes back with reason 7 where the context does not stand (by a handle that is log entry 30). Where no almanac
entry can be had, both wait. -/
def Obligations.MessagesArrive : Prop :=
  ∀ (p : Packet) (s : State), behind s p = false →
    let c := s.clusterAt p.dst
    let gone := (s.arrive p).pod
    let onward := fun (i : Instr) (f : Fwd) => ∃ t, exec i s = .next t ∧ t.core = s.core ∧ t.clusters = s.clusters ∧
      bytesKept s t ∧ (s.arrive p).left t { p with dst := f.dst, seq := s.pod.sent }
    (let n := p.form / 2 ^ 5 % 32
     let f := p.form / 2 ^ 11 % 128
     let cnt := p.form / 2 ^ 18 % 32
     (c.forward? p.target = none → hKind p.target = 3 → ∀ slot, c.groupTask p.target = some slot →
       ((c.task slot).st = .running → ∀ k, s.runsIn p.dst slot k → (s.coreAt k).gang.standing = false → f + cnt ≤ 16 →
         let h := mget (fun _ => ({} : Hold)) (s.coreAt k).holds n
         ∃ t, exec (.rstvStore p) s = .next t ∧ bytesKept s t ∧ t.pod = gone ∧
           (∀ l, l < 16 → laneOf ((t.coreAt k).v n) 32 l =
             if f ≤ l ∧ l < f + cnt then laneOf p.payload 32 (l - f) else laneOf ((s.coreAt k).v n) 32 l) ∧
           (∀ v, v ≠ n → (t.coreAt k).v v = (s.coreAt k).v v) ∧ (∀ j, j ≠ k → t.coreAt j = s.coreAt j) ∧
           mget (fun _ => ({} : Hold)) (t.coreAt k).holds n = (if 0 < h.cnt then { h with cnt := h.cnt - 1 }
             else { h with arrivals := min 65535 (h.arrivals + 1) }) ∧
           (t.coreAt k).pts = max (s.coreAt k).pts p.msg.time ∧ (t.coreAt k).regs = (s.coreAt k).regs) ∧
       ((c.task slot).st = .parkedTouch → ∃ t, exec (.rstvStore p) s = .next t ∧ Bounced s t p 3) ∧
       ((c.task slot).st ≠ .parkedTouch → groupLanes s p.dst slot < f + cnt → ∃ t, exec (.rstvStore p) s = .next t ∧ Bounced s t p 4)) ∧
     (c.forward? p.target = none → c.groupTask p.target = none → hKind p.target = 3 →
       let r := mget (fun _ => ({} : NameRec)) c.names (hCore p.target)
       ∃ t, exec (.rstvStore p) s = .next t ∧ Bounced s t p (if r.moved = true ∧ r.gen = hGen p.target then 2 else 1)) ∧
     (∀ f, c.forward? p.target = some f → onward (.rstvStore p) f)) ∧
    (∀ space ch, p.form ≠ 2 ^ 32 → routeOf s p (byPlace p) = .here →
      targetSpace s p.dst p.target (byPlace p) p.msg.space = space → p.msg.handler % 16 = ch →
      let x := c.ctxAt space
      let q := mget (fun _ => []) x.chans ch
      let bound := x.live = true ∧ chbEntry (mget (fun _ => 0) x.chb ch) ≠ 0
      (bound → q.length < 128 → ∃ t, exec (.channelDelivery p) s = .next t ∧ t.pod = gone ∧ bytesKept s t ∧
        t.core = s.core ∧
        mget (fun _ => []) ((t.clusterAt p.dst).ctxAt space).chans ch = q ++ [{ p with arrived := s.cycle }]) ∧
      (bound → 128 ≤ q.length →
        (fromHost p = true → exec (.channelDelivery p) s = .next s) ∧
        (fromHost p = false → ∃ t, exec (.channelDelivery p) s = .next t ∧ Bounced s t p 5)) ∧
      (¬ bound → ∃ t, exec (.channelDelivery p) s = .next t ∧ Bounced s t p 6)) ∧
    (p.form = 2 ^ 32 → ∃ t, exec (.channelDelivery p) s = .next t ∧ t.pod = gone ∧ t.core = s.core ∧ bytesKept s t ∧
      ((t.clusterAt p.dst).ctxAt p.msg.space).bounce = min 0xFFFFFFFF ((c.ctxAt p.msg.space).bounce + 1)) ∧
    (∀ f, p.form ≠ 2 ^ 32 → byPlace p = false → c.forward? p.target = some f →
      onward (.channelDelivery p) f ∧ onward (.entryAddressMessage p) f) ∧
    (∀ ck space ch q qs slot gen s1 task s2,
      let x := (s.clusterAt ck).ctxAt space
      let b := mget (fun _ => (0 : Word)) x.chb ch
      let launch := standingLaunch s1 space
      let gate := chbGate b
      let n := if gate then chbCount b else 1
      let msgs := ((q :: qs).take n).map (·.msg)
      let time := (msgs.map (·.time)).foldl max 0
      (mget (fun _ => []) x.chans ch).drop (takenOf s ck space ch) = q :: qs →
      ((q :: qs).length < n ∨ chbEntry b = 0 → exec (.activationCreate ck space ch) s = .next s) ∧
      (n ≤ (q :: qs).length → chbEntry b ≠ 0 →
        (∀ v, (allocateNow (s.heddleAt ck time) ck space).1 = .full v ∨ (allocateNow (s.heddleAt ck time) ck space).1 = .later →
          exec (.activationCreate ck space ch) s = .next s) ∧
        (allocateNow (s.heddleAt ck time) ck space = (.got slot gen, s1) →
        heddleTask s1 ck space (chbEntry b) [q.msg.w0, q.msg.w1, q.msg.w2, q.msg.w3] q.msg.sender launch 0 none time =
          (task, s2) →
        task.fail = 0 → parentCancelled s2 launch = false →
        ∃ t, exec (.activationCreate ck space ch) s = .next t ∧
          MadeTask s2 t ck slot gen { task with
            cls := chbClass b, chan := some ch, prio := chbPrio b, arrival := q.arrived
            gateQueue := if gate then some (chbQueue b) else none, gateMsgs := if gate then msgs else [] } time ∧
          task.entry = chbEntry b ∧ task.a4 = q.msg.sender ∧ task.launch = launch ∧
          mget (fun _ => []) ((t.clusterAt ck).ctxAt space).chans ch =
            let queue := mget (fun _ => []) ((s2.clusterAt ck).ctxAt space).chans ch
            if gate then queue else queue.erase q))) ∧
    (let space := targetSpace s p.dst p.target (byPlace p) p.msg.space
     let tag := p.msg.tag
     let count := fun (t : State) => mget (fun _ => (0, 0)) (t.clusterAt p.dst).heddle.counts tag
     let at' := (s.arrive p).heddleAt p.dst p.msg.time
     (∀ v, routeOf s p (byPlace p) = .here → (c.ctxAt space).live = true →
       (allocateNow at' p.dst space).1 = .full v ∨ (allocateNow at' p.dst space).1 = .later →
       exec (.entryAddressMessage p) s = .next s) ∧
     (∀ slot gen s1 task s2, 256 ≤ p.msg.handler → routeOf s p (byPlace p) = .here → (c.ctxAt space).live = true →
       allocateNow at' p.dst space = (.got slot gen, s1) →
       heddleTask s1 p.dst space (BitVec.ofNat 64 p.msg.handler) [p.msg.w0, p.msg.w1, p.msg.w2, p.msg.w3] p.msg.sender
         (tagLaunch s1 tag) p.msg.cls none p.msg.time = (task, s2) →
       task.fail = 0 → parentCancelled s2 (tagLaunch s1 tag) = false →
       ∃ t, exec (.entryAddressMessage p) s = .next t ∧
         MadeTask s2 t p.dst slot gen { task with prefer := preferred s2 p } p.msg.time ∧
         task.entry = BitVec.ofNat 64 p.msg.handler ∧ task.launch = tagLaunch s1 tag ∧
         (tag ≠ 0 → count t = ((count s2).1, ((count s2).2 + 1) % 2 ^ 48))) ∧
     ((byPlace p = true ∧ (c.ctxAt p.msg.space).live = false) ∨
         (byPlace p = false ∧ routeOf s p false = .here ∧ (c.ctxAt space).live = false) →
       ∃ t, exec (.entryAddressMessage p) s = .next t ∧ Bounced s t p 7))

/-- R139, R141, R150, R159, R164, R258, R262, R276, R278, R282: writes of device registers. ASPLIT keeps a new split that
fits as pending, or sets the refused flag; it takes effect once the cluster has no task, with an empty L1 and the
lines that changed role reading as zero, at a memory timestamp past theirs. LPOOL is moved only to a place within the scratchpad and off the park areas.
EBSTAT clears its bank if the value still stands there. A zero clears an L2 event counter. A register without
behaviour holds what was written (log entry 16); a write of LCMD waits for an almanac entry that is on its way out. A store
to an MSI-X offset sends its vector; BOOTE binds channel 0 of context 0 in cluster 0 at class HIGH, to an entry of 40 bits
(log entry 32); a filter's index word takes its consumer index only. -/
def Obligations.DeviceWrites : Prop :=
  ∀ (s : State) (ck : Nat) (v : Word),
    let c := s.clusterAt ck
    let split := v.toNat % 4
    (split = c.asplit → exec (.asplitWrite ck v) s = .next s) ∧
    (split ≠ c.asplit → ∃ t, exec (.asplitWrite ck v) s = .next t ∧ t.clusterAt ck =
      if c.fits (splitSize split) then { c with asplitNext := some split, asplitRefused := false }
      else { c with asplitRefused := true }) ∧
    (∀ n, c.asplitNext = some n →
      ((∃ x ∈ c.tasks, x.2.st ≠ .free) → exec (.asplitApply ck) s = .next s) ∧
      ((∀ x ∈ c.tasks, x.2.st = .free) → ∃ t, exec (.asplitApply ck) s = .next t ∧ (t.clusterAt ck).asplit = n ∧
        (t.clusterAt ck).asplitNext = none ∧ (t.clusterAt ck).l1 = [] ∧ c.mts ≤ (t.clusterAt ck).mts ∧
        (∀ x ∈ c.times, arrayKey ck (min c.spad (splitSize n)) ≤ x.1 * 128 → x.1 * 128 < arrayKey ck 262144 →
          max x.2.1 x.2.2 < (t.clusterAt ck).mts) ∧
        (∀ off, off < min c.spad (splitSize n) → t.byteAt (arrayKey ck off) = s.byteAt (arrayKey ck off)) ∧
        (∀ off, min c.spad (splitSize n) ≤ off → off < 262144 → t.byteAt (arrayKey ck off) = 0) ∧
        ∀ k, k < arrayKey ck 0 ∨ arrayKey ck 262144 ≤ k → t.byteAt k = s.byteAt k)) ∧
    (let base := (v.extractLsb' 0 9).toNat
     let len := (v.extractLsb' 16 9).toNat
     ((base + len) * 1024 ≤ c.spad → c.inPark (base * 1024) (len * 1024) = false →
       ∃ t, exec (.lpoolWrite ck v) s = .next t ∧ t.clusterAt ck = { c with poolBase := base, poolLen := len } ∧
         bytesKept s t ∧ t.core = s.core) ∧
     (c.spad < (base + len) * 1024 ∨ c.inPark (base * 1024) (len * 1024) = true → exec (.lpoolWrite ck v) s = .next s)) ∧
    (ck < 65536 → ∃ t, exec (.ebstatClear ck v) s = .next t ∧
      t.clusterAt ck = { c with bank := if c.bank.stat = v.toNat then {} else c.bank } ∧ bytesKept s t) ∧
    (∀ d, d < 16 → ∃ t, exec (.ebstatClear (65536 + d) v) s = .next t ∧
      t.dieAt d = { s.dieAt d with bank := if (s.dieAt d).bank.stat = v.toNat then {} else (s.dieAt d).bank }) ∧
    (∀ i, ∃ t, exec (.ebstatClear (131072 + i) v) s = .next t ∧
      let bank := mget (fun _ => ({} : ErrBank)) s.io.banks i
      mget (fun _ => ({} : ErrBank)) t.io.banks i = if bank.stat = v.toNat then {} else bank) ∧
    (∀ d off, ∃ t, exec (.l2CounterClear d off v) s = .next t ∧
      (v ≠ 0 → (t.dieAt d).l2 = (s.dieAt d).l2) ∧
      (v = 0 → off = 0x118 ∨ off = 0x120 ∨ off = 0x128 ∨ off = 0x130 ∨ off = 0x138 → (t.dieAt d).l2.counter off = 0) ∧
      (t.dieAt d).l2.tags = (s.dieAt d).l2.tags ∧ bytesKept s t) ∧
    (∀ pa k off, devOf pa = .cluster k off → 0x18 ≤ off → off < 0x100 ∨ 0x120 ≤ off →
      ∃ t, exec (.deviceRegisterWrite pa v) s = .next t ∧ devRead t pa = v.toNat ∧ t.core = s.core ∧
        t.clusters = s.clusters ∧ bytesKept s t) ∧
    (∀ pa, devWaits s pa v = true → exec (.deviceRegisterWrite pa v) s = .next s) ∧
    (∀ pa d off, devOf pa = .die d off → off = 0x308 ∨ off = 0x310 →
      ∃ t, exec (.deviceRegisterWrite pa v) s = .next t ∧ devRead t pa = v.toNat ∧ t.core = s.core ∧ bytesKept s t) ∧
    (∀ io vec, exec (.msixVectorSend io vec v) s =
      .next { s with io := { s.io with msix := s.io.msix ++ [(io * 64 + vec, v)] } }) ∧
    (let x := (s.clusterAt 0).ctxAt 0
     v.toNat / 32 % 2 ^ 35 ≠ 0 → chbEntry (mget (fun _ => 0) x.chb 0) ≠ 0 ∨ ((s.clusterAt 0).findRegion 8192).isSome →
     ∃ t, exec (.booteWrite v) s = .next t ∧ t.io.boote = v ∧ t.core = s.core ∧ bytesKept s t ∧
       let b := mget (fun _ => 0) ((t.clusterAt 0).ctxAt 0).chb 0
       chbClass b = 1 ∧ chbGate b = false ∧ chbEntry b = BitVec.ofNat 64 (v.toNat / 32 % 2 ^ 35 * 32)) ∧
    ∀ io f, ∃ t, exec (.filterConsumerWrite io f v) s = .next t ∧
      let w := ringModulus ((s.io.filterWord io f 2).toNat / 2 ^ 16 % 2 ^ 16)
      let old := s.io.filterWord io f 4
      (t.io.filterWord io f 4).extractLsb' 16 16 = BitVec.ofNat 16 ((v.toNat / 2 ^ 16 % 2 ^ 16) % w) ∧
        (t.io.filterWord io f 4).extractLsb' 0 16 = old.extractLsb' 0 16 ∧
        (t.io.filterWord io f 4).extractLsb' 32 32 = old.extractLsb' 32 32 ∧
        (∀ j, j < 4 → t.io.filterWord io f j = s.io.filterWord io f j) ∧ t.core = s.core ∧ bytesKept s t

/-- R79, R146, R161, R165, R167, R169, R173, R243, R245, R258 to R263: the outside. A 64-byte aligned write to the
message aperture becomes one message to channel 0 of the supervisor; any other is dropped and counted. A host access
that has no translation under HSPACE, or writes a page that is not writable, is Unsupported and is counted; a write of one
page of HBM writes its bytes, a read changes no byte; an access that a home holds waits, and those of its port behind it. A
frame that is broken, too long or matches no filter is dropped and counted at its port; one that its filter takes lands in
the slot of the producer index behind its header and is announced by a message, or is dropped where the ring is full and
counted by the filter, and takes a sequence number either way. A PTP message at the selected port sets PTIME. -/
def Obligations.OutsideArrives : Prop :=
  ∀ (port : Nat) (s : State),
    (∀ off len (data : Vec),
      (off % 64 = 0 → len = 64 →
        let h := mget (fun _ => (0 : Word)) s.io.hmsg port
        ∃ t p, exec (.hostMessageWrite port off len data) s = .next t ∧ p.msg.handler = 0x20 ∧ p.target = h ∧
          p.dst = hCk h ∧ p.dstModule = hModule h ∧ p.msg.space = 0 ∧
          [p.msg.w0, p.msg.w1, p.msg.w2, p.msg.w3] = (List.range 4).map (fun j => data.extractLsb' (64 * (j + 1)) 64) ∧
          t.core = s.core ∧ bytesKept s t ∧ s.left t p) ∧
      (off % 64 ≠ 0 ∨ len ≠ 64 → exec (.hostMessageWrite port off len data) s =
        .next { s with io := { s.io with droppedWrites := s.io.droppedWrites + 1 } })) ∧
    (∀ va len write data,
      let space := (mget (fun _ => (0 : Word)) s.io.hspace port).toNat % 65536
      let queued : State := { s with io := { s.io with hostQueue := s.io.hostQueue ++ [(port, va, len, write, data)] } }
      let at' := translate queued (16 + port) 0 space va
      let unsupported := ∃ t, exec (.hostMemoryAccess port va len write data) s = .next t ∧
        t.io.unsupported = s.io.unsupported + 1 ∧ t.io.hostQueue = s.io.hostQueue ∧ t.core = s.core ∧ bytesKept s t
      0 < len →
      (∀ x, s.io.hostQueue.find? (fun x => x.1 == port) = some x →
        hostTurn queued x.1 x.2.1 x.2.2.1 x.2.2.2.1 x.2.2.2.2 = none →
        exec (.hostMemoryAccess port va len write data) s = .next queued) ∧
      ((∀ x ∈ s.io.hostQueue, x.1 ≠ port) → (∀ leaf bits, at'.1 ≠ .ok leaf bits) → unsupported) ∧
      ∀ leaf bits pa, (∀ x ∈ s.io.hostQueue, x.1 ≠ port) → at'.1 = .ok leaf bits → targetOf leaf bits va = .hbm pa →
        len ≤ 2 ^ bits - va % 2 ^ bits →
        (write = true → leafWrite leaf = false → unsupported) ∧
        (write = true → leafWrite leaf = true → beforeSegs at'.2 {} [.mem pa len leaf] = none →
          exec (.hostMemoryAccess port va len write data) s = .next queued) ∧
        (write = true → leafWrite leaf = true → beforeSegs at'.2 {} [.mem pa len leaf] = some at'.2 → s.pod.qnt = [] →
          ∃ t, exec (.hostMemoryAccess port va len write data) s = .next t ∧ t.readN pa len = data % 2 ^ (8 * len) ∧
            bytesKeptBut s t pa len ∧ t.core = { s.core with oldCode := t.core.oldCode } ∧
            t.io.hostQueue = s.io.hostQueue ∧ s.portTime port < t.portTime port) ∧
        (write = false → s.pod.qnt = [] → ∃ t, exec (.hostMemoryAccess port va len write data) s = .next t ∧
          bytesKept s t ∧ t.core = s.core ∧ s.portTime port ≤ t.portTime port)) ∧
    (∀ fcs (bytes : List Byte) sec ns,
      let x := fun (u : State) => mget (fun _ => ({} : Chrono)) u.io.chrono port
      let key := filterFor s port (frameKeys bytes)
      (fcs = false ∨ 9216 < bytes.length ∨ key = none → ∃ t, exec (.chronographFrame port fcs bytes sec ns) s = .next t ∧
        x t = { x s with dropped := (x s).dropped + 1 } ∧ bytesKept s t ∧ t.pod = s.pod ∧ t.core = s.core) ∧
      ∀ f, fcs = true → bytes.length ≤ 9216 → key = some f →
        let w := fun (u : State) (j : Nat) => (u.io.filterWord port f j).toNat
        let c := w s 2 / 2 ^ 16 % 2 ^ 16
        let modulus := c * (65536 / c)
        let producer := w s 4 % 2 ^ 16
        let used := (producer + 65536 * modulus - w s 4 / 2 ^ 16 % 2 ^ 16) % modulus
        let seq := w s 4 / 2 ^ 32 % 2 ^ 32
        let size := 256 * 2 ^ (w s 2 / 2 ^ 8 % 16)
        let slot := size * (producer % c)
        let image := leBytes 6 sec ++ leBytes 4 ns ++ leBytes 2 bytes.length ++ leBytes 4 seq ++ leBytes 1 port ++
          leBytes 1 (if size - 32 < bytes.length then 1 else 0) ++ leBytes 2 f ++ leBytes 12 0 ++ bytes.take (size - 32)
        let place := landingKey port (w s 2 / 2 ^ 32 % 2 ^ 32 + slot)
        (c ≤ used → ∃ t, exec (.chronographFrame port fcs bytes sec ns) s = .next t ∧ bytesKept s t ∧ t.pod = s.pod ∧
          (x t).dropped = (x s).dropped ∧ mget (fun _ => 0) (x t).drops f = mget (fun _ => 0) (x s).drops f + 1 ∧ w t 4 / 2 ^ 32 = (seq + 1) % 2 ^ 32 ∧ w t 4 % 2 ^ 32 = w s 4 % 2 ^ 32) ∧
        (used < c → s.pod.qnt = [] → ∃ t p, exec (.chronographFrame port fcs bytes sec ns) s = .next t ∧
          bytesFrom t.mem place image.length = image ∧ bytesKeptBut s t place image.length ∧
          (x t).dropped = (x s).dropped ∧ (x t).drops = (x s).drops ∧ w t 4 / 2 ^ 32 = (seq + 1) % 2 ^ 32 ∧
          w t 4 % 2 ^ 16 = (producer + 1) % modulus ∧ t.pod = { s.pod with net := s.pod.net ++ [p], sent := s.pod.sent + 1 } ∧
          p.msg.cls = chbClass (mget (fun _ => (0 : Word)) ((s.clusterAt p.dst).ctxAt p.msg.space).chb (w s 2 % 16)) ∧
          p.msg.handler = 0x20 + w s 2 % 16 ∧ p.msg.w0 = s.io.filterWord port f 3 + BitVec.ofNat 64 slot ∧
          p.msg.w1 = BitVec.ofNat 64 seq ∧ p.msg.w2 = BitVec.ofNat 64 (sec * 1000000000 + ns) ∧
          p.msg.space = w s 1 / 2 ^ 32 % 2 ^ 16 ∧ p.dst = w s 1 / 2 ^ 60 % 16 * 4096 + w s 1 / 2 ^ 48 % 4096)) ∧
    ∀ ns, (port = s.io.ptpPort → ∃ t, exec (.ptpMessage port ns) s = .next t ∧ t.now = ns ∧
        t = { s with ptime := t.ptime, ptimeAt := t.ptimeAt }) ∧
      (port ≠ s.io.ptpPort → exec (.ptpMessage port ns) s = .next s)

/-- R253, R255 to R257, R272, R274, R276, R277, R280, R281: the fabric and the module's health. A header error is
counted: a packet of the priority channel is sent again at once, another is lost until its timeout, and after four
tries the sender's job ends with 0x312, but for a copy, which fails with code 5. A link that loses margin goes to NRZ, to half width on a healthy half, and
down. A failed module is marked. A window of 16 and more corrected errors restores a lowered voltage, or drains the
cluster and tells both hosts; behind a quiet window the voltage may be lowered, a free choice (log entry 41). A
drained cluster without tasks moves to its new state, into service at a higher voltage step only. The scrubber records
what it finds in HBM and in the L2's data entries, and marks an uncorrectable error. -/
def Obligations.FabricAndHealth : Prop :=
  ∀ (s : State),
    (∀ (k : Nat) (p : Packet), s.pod.unacked[k]? = some p →
      let again := { p with resent := p.resent + 1 }
      let io := { s.io with headerErrors := s.io.headerErrors + 1 }
      let others := s.pod.fabric.filter (fun q => q.seq != p.seq)
      let lost : State := { s with pod := { s.pod with fabric := others } }
      let resent := { s.pod with unacked := s.pod.unacked.set k again, fabric := lost.launchPacket again }
      let ended := fun (t : State) => t.pod.kills = s.pod.kills ++ [(p.msg.space, 0x312, p.msg.time)] ∧
        t.pod.unacked = s.pod.unacked.eraseIdx k ∧ t.pod.fabric = others ∧ bytesKept s t
      let failed := fun (t : State) => ∀ j, ofJob p = true → p.msg.w2 ≠ 0 → p.msg.w2.toNat < 2 ^ 63 →
        s.job? (p.msg.w2.toNat - 1) = some j → j.kind = .copy → j.sent = false →
        t.job? j.id = some { j with code := 5, acks := 0 } ∧ t.pod.kills = s.pod.kills
      (isPriority p = true →
        exec (.endToEndTimeout k) s = .next s ∧
        (p.resent < 4 → exec (.fabricHeaderError k) s = .next { s with io := io, pod := resent }) ∧
        (4 ≤ p.resent → ∃ t, exec (.fabricHeaderError k) s = .next t ∧ (ofJob p = false → ended t) ∧ failed t)) ∧
      (isPriority p = false →
        exec (.fabricHeaderError k) s = .next { lost with io := io } ∧
        (p.resent < 4 → exec (.endToEndTimeout k) s = .next { s with pod := resent }) ∧
        (4 ≤ p.resent → ∃ t, exec (.endToEndTimeout k) s = .next t ∧ (ofJob p = false → ended t) ∧ failed t))) ∧
    (∀ port low high,
      let l := mget (fun _ => Link.pam4) s.io.links port
      let goes := fun (n : Link) => ∃ t, exec (.linkMarginLoss port low high) s = .next t ∧
        mget (fun _ => Link.pam4) t.io.links port = n ∧
        (mget (fun _ => ({} : ErrBank)) t.io.banks (port / 4)).stat % 2 = 1 ∧ t.core = s.core ∧ bytesKept s t
      (l = .pam4 → goes .nrz) ∧
      (l = .nrz → low = true ∨ high = true → goes .half) ∧
      (l = .nrz ∨ l = .half → low = false → high = false → goes .down) ∧
      (l = .down ∨ (l = .half ∧ (low = true ∨ high = true)) → exec (.linkMarginLoss port low high) s = .next s)) ∧
    (∀ m, ∃ t, exec (.moduleFailureMark m) s = .next t ∧ t = { s with io := { s.io with failed := t.io.failed } } ∧
      ∀ x, x ∈ t.io.failed ↔ x ∈ s.io.failed ∨ x = m) ∧
    (∀ ck errors,
      let left := mget (fun _ => 0) s.io.windows ck
      let under := mget (fun _ => 0) s.io.undervolt ck
      (errors < 16 → ∃ t, exec (.correctedErrorWindow ck errors) s = .next t ∧
        t = { s with free := s.free + 1, io := { s.io with windows := t.io.windows, undervolt := t.io.undervolt } } ∧
        mget (fun _ => 0) t.io.windows ck = left - 1 ∧ (1 < left ∨ under ≠ 0 → t.io.undervolt = s.io.undervolt)) ∧
      (16 ≤ errors → under ≠ 0 → ∃ t, exec (.correctedErrorWindow ck errors) s = .next t ∧
        mget (fun _ => 0) t.io.undervolt ck = 0 ∧ mget (fun _ => 0) t.io.windows ck = 60 ∧ t.clusters = s.clusters) ∧
      (16 ≤ errors → under = 0 → left = 0 → exec (.correctedErrorWindow ck errors) s = .next s) ∧
      (16 ≤ errors → under = 0 → left ≠ 0 → 3200 ≤ ck % 4096 → ∃ t, exec (.correctedErrorWindow ck errors) s = .next t ∧
        t = { s with io := t.io } ∧ t.io.health / 2 % 2 = 1 ∧ t.io.msix = s.io.msix ++ [(0, 0), (64, 0)]) ∧
      (16 ≤ errors → under = 0 → left ≠ 0 → ck % 4096 < 3200 → ∃ t, exec (.correctedErrorWindow ck errors) s = .next t ∧
        (t.clusterAt ck).hstate = 1 ∧ t.io.health / 2 % 2 = 1 ∧ t.io.msix = s.io.msix ++ [(0, 0), (64, 0)] ∧
        (∀ k ∈ coreKeys ck, (s.coreAt k).running.isSome → (t.coreAt k).preempt = true) ∧ bytesKept s t)) ∧
    (∀ pa bad, pa < 2 ^ 40 → ∃ t, exec (.patrolScrub pa bad) s = .next t ∧
      (t.dieAt (pa / 2 ^ 36)).bank.stat % 2 = 1 ∧ bytesKept s t ∧ t.core = s.core ∧
      ∀ g, g ∈ t.bad ↔ g ∈ s.bad ∨ (bad = true ∧ g = pa / 8)) ∧
    (∀ pa bad, 2 ^ 40 ≤ pa → pa < 2 ^ 41 → let die := pa / 2 ^ 36 % 16
      ∃ t, exec (.patrolScrub pa bad) s = .next t ∧ (t.dieAt die).bank.stat % 2 = 1 ∧ bytesKept s t ∧ t.core = s.core ∧
        ∀ g, g ∈ t.bad ↔ g ∈ s.bad ∨ (bad = true ∧ ∃ x ∈ (s.dieAt die).l2.tags,
          x.entry = pa / 128 % 2 ^ 29 ∧ g = (x.pa + pa % 128) / 8)) ∧
    (∀ ck off bad, ck < 65536 → off < 262144 → ∃ t, exec (.patrolScrub (arrayKey ck off) bad) s = .next t ∧ bytesKept s t ∧
      t.core = s.core ∧ (bad = false → (t.clusterAt ck).bank.stat % 2 = 1) ∧
      ∀ g, g ∈ t.bad ↔ g ∈ s.bad ∨ (bad = true ∧ g = arrayKey ck off / 8)) ∧
    ∀ ck state volts, state < 4 → volts < 4 →
      let c := s.clusterAt ck
      (c.hstate = 1 → (∀ x ∈ c.tasks, x.2.st = .free) → (state = 0 → c.volts < volts) → ∃ t, exec (.clusterRetest ck state volts) s = .next t ∧
        t.clusterAt ck = { c with hstate := state, volts := volts } ∧ (state = 2 → t.io.health / 4 % 2 = 1) ∧
        (state ≠ 2 → t.io = s.io) ∧ t.core = s.core ∧ bytesKept s t) ∧
      (c.hstate ≠ 1 ∨ (∃ x ∈ c.tasks, x.2.st ≠ .free) ∨ (state = 0 ∧ volts ≤ c.volts) →
        exec (.clusterRetest ck state volts) s = .next s)

/-- R12, R13, R53, R57, R79, R274, R275, R280, R282, R283: bring-up and the kill of a job. Power-on and a reset leave
the module as at reset: no core runs a task, every table is empty, memory lists nothing, links without a neighbour are
down and the health word tells that it is up; an image that fails its check leaves it down, and a module that is down
makes no step but a reset. A kill message leaves no task, queued launch, engine job, update or packet of its SPACE but
wakes and answers (that those stay is log entry 42), ends the job and its standing launch, and completes the job's future,
POISONED with the code or CANCELLED, at its time or a later one of the job's. -/
def Obligations.BringUpAndKill : Prop :=
  (∀ (ok : Bool) (s : State) (i : Instr), i = .powerOn ok ∨ i = .resetRequest ok →
    ∃ t, exec i s = .next t ∧ t.mem = [] ∧ t.core = {} ∧ t.cur = 0 ∧ t.cores = [] ∧ t.clusters = [] ∧ t.dies = [] ∧ t.bad = [] ∧
      t.down = !ok ∧ t.io.health = (if ok then 1 else 8) ∧ t.pod.net = [] ∧ t.pod.fabric = [] ∧ t.pod.jobs = [] ∧
      t.pod.kills = [] ∧ t.pod.killsFar = [] ∧ t.pod.module = s.pod.module ∧ t.pod.populated = s.pod.populated ∧ t.moves = s.moves ∧
      (∀ port, port < 8 → mget (fun _ => Link.pam4) t.io.links port =
        if (neighbour s.pod.populated s.pod.module port).isNone then .down else .pam4) ∧ t.now = s.now) ∧
  (∀ (s : State), s.down = true →
    (∀ ok ms, s.moves = .event (.powerOn ok) :: ms ∨ s.moves = .event (.resetRequest ok) :: ms → goesOn s) ∧
    ((∀ ok ms, s.moves ≠ .event (.powerOn ok) :: ms ∧ s.moves ≠ .event (.resetRequest ok) :: ms) →
      step s = .fault .awaitingReset)) ∧
  ∀ (space code : Nat) (s : State),
    (∃ t, exec (.killMessage space code) s = .next t ∧ (∀ x ∈ t.liveTasks, x.2.2.space ≠ space) ∧
      (∀ x ∈ s.liveTasks, x.2.2.space = space → ∀ k, s.runsIn x.1 x.2.1 k → (t.coreAt k).running = none) ∧
      (∀ d, ∀ q ∈ (t.dieAt d).launchQ ++ (t.dieAt d).spilled, q.space ≠ space) ∧
      (∀ d k, (s.record d k).kind = .launch → (s.record d k).standing = true → (s.record d k).space = space →
        (t.record d k).ended = true) ∧
      (∀ j ∈ t.pod.jobs, j.space ≠ space) ∧ (∀ u ∈ t.pod.com ++ t.pod.qnt, u.space ≠ space) ∧
      ∀ p ∈ t.pod.net ++ t.pod.fabric ++ t.pod.unacked, p.msg.space = space → p.msg.handler = 7 ∨ p.msg.handler = 15) ∧
    ∀ h r, s.ladders.filter (fun x => x.2.kind == .job && x.2.space == space && !x.2.ended) = [(h, r)] →
      (∀ x ∈ s.liveTasks, x.2.2.space ≠ space) → Fillable s space r.future →
      ∀ i time, s.pod.kills.findIdx (fun k => k.1 == space && k.2.1 == code) = i → s.pod.kills[i]? = some (space, code, time) →
      ∃ t, exec (.killMessage space code) s = .next t ∧ bytesKept s t ∧
        (code = 0 → filled t r.future .cancelled 0 (max time r.maxTime)) ∧
        (code ≠ 0 → filled t r.future .poisoned (BitVec.ofNat 64 code) (max time r.maxTime)) ∧
        t.pod.kills = s.pod.kills.eraseIdx i ∧
        ∀ x ∈ t.ladders, x.2.kind = .job → x.2.space = space → x.2.ended = true

/-- R102, R103, R106, R121, R122, R242, R267, R284 to R286, R290 to R293, R297: a step that the schedule gives to the current
core runs the unit at its pc. The word at an address that memory of this module holds is its four bytes. A unit is that word,
or a hint before it: GRD gives its guard, MODE its modes, a WIDE more bits of the immediate where the instruction takes one,
SCHED nothing; a hint that breaks a rule takes ILLEGAL. The unit is recorded, WCNT falls by 1, and the step is that
instruction's meaning there. A guard enables it where a[i] XOR s = 1; under a false one the step goes on behind the unit and
changes nothing else. A unit whose registers are still to be written, or whose source queues find no room for their rings,
waits, and neither a wait nor its step counts in WCNT. An instruction that takes ILLEGAL or PRIV does so whatever its
registers' marks and its guard are. A unit whose issue brings WCNT to zero takes WDOG, but for YIELD in user mode, or ends the
task inside the handler of WDOG; a marked source takes UE. -/
def Obligations.StepRunsDecoded : Prop :=
  (∀ (s : State) (a : Word) (tg : Target) (leaf k : Nat) (s1 : State),
    resolve s s.ck s.core.space a 4 .load = (.ok tg leaf, s1) → tg.key? = some k → s.marked k 4 = false →
    s.core.oldCode = [] → fetchWord s a = (.inl (s.readN k 4), s1)) ∧
  (∀ (s : State) (w : Nat) (s1 : State), fetchWord s s.core.pc = (.inl w, s1) →
    (∀ i, decodeNat w = .instr i →
      fetchUnit s = (.unit { base := s.core.pc, here := s.core.pc, word := w } none i, s1)) ∧
    (∀ r x, decodeNat w = .reject r x → fetchUnit s =
      (.unit { base := s.core.pc, here := s.core.pc, word := w } none (.unassignedInstructionWord (BitVec.ofNat 32 x)), s1)) ∧
    ∀ v s2 i, fetchWord s1 (s.core.pc + 4) = (.inl v, s2) → decodeNat v = .instr i →
      let unit : ExecUnit := { base := s.core.pc, here := s.core.pc + 4, word := v }
      let illegal := fetchUnit s = (.trap 1 (BitVec.ofNat 64 w), s2)
      (∀ p, decodeNat w = .grd p →
        (p % 1024 = 0 → fetchUnit s = (.unit unit (some p) i, s2)) ∧ (p % 1024 ≠ 0 → illegal)) ∧
      (∀ p, decodeNat w = .mode p →
        let good := p % 8 ≤ 5 ∧ p / 8 % 4 ≠ 3 ∧ p / 128 % 4 ≠ 3 ∧ p / 8192 % 512 = 0
        (good → fetchUnit s = (.unit { unit with mode := p } none i, s2)) ∧ (¬ good → illegal)) ∧
      (∀ p, decodeNat w = .sched p →
        (p / 128 % 32768 = 0 → fetchUnit s = (.unit unit none i, s2)) ∧ (p / 128 % 32768 ≠ 0 → illegal)) ∧
      (∀ p, decodeNat w = .wide p →
        (1 ≤ widesTaken i → fetchUnit s = (.unit { unit with wide := p, wides := 1 } none i, s2)) ∧
        (widesTaken i = 0 → fetchUnit s = (.trap 1 (BitVec.ofNat 64 (0xFC400000 + p)), s2)))) ∧
  ∀ (s : State) (ms : List Move) (un : ExecUnit) (g : Option Nat) (i : Instr) (s2 : State),
    s.down = false → s.moves = .core s.cur :: ms → s.core.running.isSome →
    fetchUnit { s with cycle := s.cycle + 1, moves := ms } = (.unit un g i, s2) →
    let u : State := { s2 with core := { s2.core with
      unit := un, wcnt := s2.core.wcnt - 1, vectoring := false, waiting := false } }
    let waits := ∃ t, step s = .next t ∧ t.core.pc = s.core.pc ∧ t.core.waiting = true ∧ t.core.wcnt = s.core.wcnt ∧
      bytesKept s t
    (g = none → enabled u g = true) ∧
    (∀ p, g = some p → (enabled u g = true ↔
      (u.core.x (p / 131072 % 32)).getLsbD (p / 2048 % 64) ≠ p.testBit 10)) ∧
    (hazard u g i = true → waits) ∧
    (hazard u g i = false → (early i u).isSome → step s = exec i u) ∧
    (hazard u g i = false → early i u = none → enabled u g = false → ∃ t, step s = .next t ∧ t = { u with
      core := { u.core with pc := un.here + 4, fails := t.core.fails } }) ∧
    (hazard u g i = false → early i u = none → enabled u g = true → reserveSources u i = none → waits) ∧
    ∀ v, hazard u g i = false → early i u = none → enabled u g = true → reserveSources u i = some v →
      (∀ t, exec i (handleFails v g i) = .next t → t.core.waiting = true →
        ueOf v g i = none → step s = .next { t with core := { t.core with wcnt := s.core.wcnt } }) ∧
      (1 < s.core.wcnt ∨ (∃ y, i = .yield y ∧ v.core.priv = false) → ueOf v g i = none →
        ∀ t, exec i (handleFails v g i) = .next t → t.core.waiting = false → step s = .next t) ∧
      (1 < s.core.wcnt → ∀ x, ueOf v g i = some (none, x) → v.handlerReady → ∃ t, step s = .next t ∧ TookTrap v t 16 x) ∧
      (s.core.wcnt ≤ 1 → (∀ y, i = .yield y → v.core.priv = true) →
        (∀ t, exec i (handleFails v g i) = .next t → t.core.waiting = false) →
        (v.core.trap.kill ≠ 1 → v.handlerReady → ∃ t, step s = .next t ∧ TookTrap v t 10 (BitVec.ofNat 64 v.ctx.ylim)) ∧
        (v.core.trap.kill = 1 → ∀ slot, v.core.running = some slot → ∃ t, step s = .next t ∧
          EndedTask v t slot .poisoned 10 v.endTime))

/-- R287, R289 to R297: words written out field by field from the encodings decode to the instructions and hints they
stand for. -/
def Obligations.KnownWords : Prop :=
  decodeNat 0x04221800 = .instr (.add 1 2 3) ∧
  decodeNat 0x07B89812 = .instr (.bfx 29 24 19 0) ∧
  decodeNat 0x0A9CBFFA = .instr (.cmp 20 28 23 31 58) ∧
  decodeNat 0x23FD7FFD = .instr (.br 31 58 1 16381) ∧
  decodeNat 0x43D90500 = .instr (.touch 30 25 20) ∧
  decodeNat 0x63D97FFC = .instr (.ld 30 25 1 16380) ∧
  decodeNat 0x7A7B4502 = .instr (.amo 19 27 1 0 1 4) ∧
  decodeNat 0x8B34E5C0 = .instr (.vadd 25 20 28 23) ∧
  decodeNat 0x9BFAAC40 = .instr (.madd 31 26 21 1) ∧
  decodeNat 0xA3FAA9D1 = .instr (.lmrun 31 26 21 29) ∧
  decodeNat 0xF0000003 = .instr .eret ∧
  decodeNat 0xFC400005 = .wide 5 ∧
  decodeNat 0x00000000 = .reject .unassignedMajor 0 ∧
  decodeNat 0x04000015 = .reject .unassignedFunction 0x04000015

/-- R287, R289 to R295, R297: decoding the encoding of a well-formed instruction gives it back, with every operand at
every value that it accepts. -/
def Obligations.DecodeOfEncode : Prop :=
  ∀ (i : Instr), hasWord i = true → wellFormed i = true → (∀ w, i ≠ .unassignedInstructionWord w) →
    ∃ n, encodeNat i = some n ∧ n < 2 ^ 32 ∧ decodeBytes (wordBytes n) = (.instr i, [])

/-- R235, R287, R297, R336, R407: a word has one meaning. An instruction that is decoded from a word is encoded as
that word, so no two words decode to one instruction and no bit of a word is dropped, but for bits 15 to 11 of the
queue form of CPY and of the whole form of RSTV, which the hardware ignores. -/
def Obligations.EncodeOfDecode : Prop :=
  ∀ (n : Nat) (i : Instr), n < 2 ^ 32 → decodeNat n = .instr i →
    encodeNat i = some (if ignoresField i then n - n / 2048 % 32 * 2048 else n)

/-- The canonical form of memory (the model's own: log entry 2) is kept by every step, whatever moves. -/
def Obligations.StepKeepsMemory : Prop :=
  ∀ (s t : State), s.memOk → step s = .next t → t.memOk

/-- R131, R139, R141, R161, R282, R283: the state after reset. Its memory is in canonical form: it holds the spill header
with 1,024 slots and the table entries that bring-up writes for context 0, and every other byte reads as zero (for the arrays
and the landing buffers that is log entry 2); every core has a budget of 4096, no task and no trap base; context 0, alone,
stands in every cluster with 64 almanac entries from slot 0 and its areas where bring-up puts them; the split is 128
KiB with the landing pool at its second half, and the health word tells that the module is up. -/
def Obligations.ResetState : Prop :=
  let s := State.reset
  s.memOk ∧ s.down = false ∧ s.io.health = 1 ∧
  s.readN 0x240000 4 = 1024 ∧ s.readN 0xFFFFE00000 8 = 0xFFFFF00001 ∧ s.readN 0xFFFFF00000 8 = 0xFFFFF08001 ∧
  (∀ i, i < 256 → s.readN (0xFFFFF08000 + 8 * i) 8 = 0x8000000000000363 + i * 2 ^ 32) ∧
  (∀ k, (∀ x ∈ [(0x240000, 4), (0xFFFFE00000, 8), (0xFFFFF00000, 8), (0xFFFFF08000, 2048)], k < x.1 ∨ x.1 + x.2 ≤ k) →
    s.byteAt k = 0) ∧
  (∀ k, (s.coreAt k).wcnt = 4096 ∧ (s.coreAt k).running = none ∧ (s.coreAt k).trap.base = 0 ∧
    (s.coreAt k).trap.written = false ∧ (s.coreAt k).pts = 0 ∧ (s.coreAt k).space = 0) ∧
  ∀ ck, (s.clusterAt ck).spad = 131072 ∧ (s.clusterAt ck).poolBase = 64 ∧ (s.clusterAt ck).poolLen = 64 ∧
    (s.clusterAt ck).spaces = [0] ∧ ((s.clusterAt ck).ctxAt 0).ftBase = 0 ∧ ((s.clusterAt ck).ctxAt 0).ftLimit = 64 ∧
    ((s.clusterAt ck).ctxAt 0).ylim = 4096 ∧ ((s.clusterAt ck).ctxAt 0).stkb = 0x100000 ∧
    ((s.clusterAt ck).ctxAt 0).spilla = 0x200000 ∧ ((s.clusterAt ck).ctxAt 0).lspill = 0x240000 ∧
    ((s.clusterAt ck).ctxAt 0).parkb = 0x8000000000000000
end

