-- ==== Sys2Proof/Laws/Table.lean ====
section
/-! SUPPORT. The laws of the sparse tables of Machine/Bits.lean: reading after writing, and the canonical form that
every operation on a table keeps. -/

namespace Sys2Proof.Machine

variable {α : Type}

@[simp] theorem mget_nil (d : Nat → α) (k : Nat) : mget d [] k = d k := rfl

theorem mget_mdel_self (d : Nat → α) (m : SMap α) (k : Nat) : mget d (mdel m k) k = d k := by
  induction m with
  | nil => rfl
  | cons p m ih =>
    obtain ⟨j, v⟩ := p
    by_cases h : j = k
    · simp [mdel, h, ih]
    · simp [mdel, mget, h, ih]

theorem mget_mdel_ne (d : Nat → α) (m : SMap α) {k j : Nat} (h : j ≠ k) : mget d (mdel m k) j = mget d m j := by
  induction m with
  | nil => rfl
  | cons p m ih =>
    obtain ⟨i, v⟩ := p
    by_cases h1 : i = k
    · subst h1; simp [mdel, mget, ih, Ne.symm h]
    · simp only [mdel, h1, if_false, mget, ih]

theorem mget_mins_ne (d : Nat → α) (m : SMap α) {k j : Nat} (v : α) (h : j ≠ k) :
    mget d (mins k v m) j = mget d m j := by
  induction m with
  | nil => simp [mins, mget, Ne.symm h]
  | cons p m ih =>
    obtain ⟨i, u⟩ := p
    by_cases h1 : k < i
    · simp [mins, mget, h1, Ne.symm h]
    · simp only [mins, h1, if_false, mget, ih]

/-- A key is not listed. -/
def unlisted (m : SMap α) (k : Nat) : Prop := ∀ p ∈ m, p.1 ≠ k

theorem unlisted_mdel (m : SMap α) (k : Nat) : unlisted (mdel m k) k := by
  induction m with
  | nil => simp [mdel, unlisted]
  | cons p m ih =>
    obtain ⟨j, v⟩ := p
    by_cases h : j = k
    · simpa [mdel, h] using ih
    · simp only [mdel, h, if_false, unlisted, List.mem_cons, forall_eq_or_imp]
      exact ⟨h, ih⟩

theorem mget_mins_self (d : Nat → α) {m : SMap α} {k : Nat} (v : α) (h : unlisted m k) : mget d (mins k v m) k = v := by
  induction m with
  | nil => simp [mins, mget]
  | cons p m ih =>
    obtain ⟨j, u⟩ := p
    have hj : j ≠ k := h (j, u) (by simp)
    have ht : unlisted m k := fun q hq => h q (by simp [hq])
    by_cases h1 : k < j
    · simp [mins, mget, h1]
    · simp [mins, mget, h1, hj, ih ht]

@[simp] theorem mget_mput_self (d : Nat → α) (m : SMap α) (k : Nat) (v : α) : mget d (mput m k v) k = v :=
  mget_mins_self d v (unlisted_mdel m k)

theorem mget_mput_ne (d : Nat → α) (m : SMap α) {k j : Nat} (v : α) (h : j ≠ k) :
    mget d (mput m k v) j = mget d m j := by
  rw [mput, mget_mins_ne d _ v h, mget_mdel_ne d m h]

theorem mget_mput (d : Nat → α) (m : SMap α) (k j : Nat) (v : α) :
    mget d (mput m k v) j = if j = k then v else mget d m j := by
  by_cases h : j = k
  · subst h; simp
  · simp [h, mget_mput_ne]

@[simp] theorem mget_mset_self [DecidableEq α] (d : Nat → α) (m : SMap α) (k : Nat) (v : α) :
    mget d (mset d m k v) k = v := by
  unfold mset
  split
  · next h => rw [mget_mdel_self, h]
  · simp

theorem mget_mset_ne [DecidableEq α] (d : Nat → α) (m : SMap α) {k j : Nat} (v : α) (h : j ≠ k) :
    mget d (mset d m k v) j = mget d m j := by
  unfold mset
  split
  · exact mget_mdel_ne d m h
  · exact mget_mput_ne d m v h

theorem mget_mset [DecidableEq α] (d : Nat → α) (m : SMap α) (k j : Nat) (v : α) :
    mget d (mset d m k v) j = if j = k then v else mget d m j := by
  by_cases h : j = k
  · subst h; simp
  · simp [h, mget_mset_ne]

theorem mem_mdel {m : SMap α} {k : Nat} {p : Nat × α} (h : p ∈ mdel m k) : p ∈ m ∧ p.1 ≠ k := by
  refine ⟨?_, unlisted_mdel m k p h⟩
  induction m with
  | nil => simp [mdel] at h
  | cons q m ih =>
    obtain ⟨j, v⟩ := q
    by_cases hj : j = k
    · simp only [mdel, hj, if_true] at h; exact List.mem_cons_of_mem _ (ih h)
    · simp only [mdel, hj, if_false, List.mem_cons] at h
      rcases h with h | h
      · simp [h]
      · exact List.mem_cons_of_mem _ (ih h)

theorem mem_mdel_iff {m : SMap α} {k : Nat} {p : Nat × α} : p ∈ mdel m k ↔ p ∈ m ∧ p.1 ≠ k := by
  refine ⟨mem_mdel, ?_⟩
  rintro ⟨h, hk⟩
  induction m with
  | nil => simp at h
  | cons q m ih =>
    obtain ⟨j, v⟩ := q
    by_cases hj : j = k
    · simp only [mdel, hj, if_true]
      rcases List.mem_cons.mp h with h | h
      · subst h; exact absurd hj hk
      · exact ih h
    · simp only [mdel, hj, if_false, List.mem_cons]
      rcases List.mem_cons.mp h with h | h
      · left; exact h
      · right; exact ih h

theorem mem_mins {m : SMap α} {k : Nat} {v : α} {p : Nat × α} : p ∈ mins k v m ↔ p = (k, v) ∨ p ∈ m := by
  induction m with
  | nil => simp [mins]
  | cons q m ih =>
    obtain ⟨j, u⟩ := q
    by_cases h : k < j
    · simp [mins, h]
    · simp only [mins, h, if_false, List.mem_cons, ih]
      constructor
      · rintro (h | h | h) <;> simp [h]
      · rintro (h | h | h) <;> simp [h]

theorem mdel_wf [DecidableEq α] {d : Nat → α} {m : SMap α} (k : Nat) (h : mwf d m) : mwf d (mdel m k) := by
  refine ⟨?_, fun x hx => h.2 x (mem_mdel hx).1⟩
  have hp := h.1
  clear h
  induction m with
  | nil => simp [mdel]
  | cons q m ih =>
    obtain ⟨j, u⟩ := q
    rw [List.pairwise_cons] at hp
    by_cases hj : j = k
    · simpa [mdel, hj] using ih hp.2
    · simp only [mdel, hj, if_false, List.pairwise_cons]
      exact ⟨fun x hx => hp.1 x (mem_mdel hx).1, ih hp.2⟩

theorem mins_wf [DecidableEq α] {d : Nat → α} {m : SMap α} {k : Nat} {v : α} (h : mwf d m) (hk : unlisted m k)
    (hv : v ≠ d k) : mwf d (mins k v m) := by
  constructor
  · have hp := h.1
    clear h
    induction m with
    | nil => simp [mins]
    | cons q m ih =>
      obtain ⟨j, u⟩ := q
      rw [List.pairwise_cons] at hp
      have hj : j ≠ k := hk (j, u) (by simp)
      have ht : unlisted m k := fun q hq => hk q (by simp [hq])
      by_cases hlt : k < j
      · rw [mins, if_pos hlt]
        simp only [List.pairwise_cons, List.mem_cons, forall_eq_or_imp]
        exact ⟨⟨hlt, fun x hx => Nat.lt_trans hlt (hp.1 x hx)⟩, hp.1, hp.2⟩
      · simp only [mins, hlt, if_false, List.pairwise_cons]
        refine ⟨fun x hx => ?_, ih ht hp.2⟩
        rcases mem_mins.mp hx with hx | hx
        · subst hx; simp only; omega
        · exact hp.1 x hx
  · intro x hx
    rcases mem_mins.mp hx with hx | hx
    · subst hx; exact hv
    · exact h.2 x hx

/-- Giving a key a value keeps the canonical form. -/
theorem mset_wf [DecidableEq α] {d : Nat → α} {m : SMap α} (k : Nat) (v : α) (h : mwf d m) : mwf d (mset d m k v) := by
  unfold mset
  split
  · exact mdel_wf k h
  · next hv => exact mins_wf (mdel_wf k h) (unlisted_mdel m k) hv

/-- Leaving entries out keeps the canonical form. -/
theorem filter_wf [DecidableEq α] {d : Nat → α} {m : SMap α} (p : Nat × α → Bool) (h : mwf d m) : mwf d (m.filter p) :=
  ⟨h.1.filter p, fun x hx => h.2 x (List.mem_filter.mp hx).1⟩

end Sys2Proof.Machine
end

