-- ==== Sys2Proof/Laws/Memory.lean ====
section
/-! SUPPORT. The laws of memory: reading after writing, little-endian numbers, and the canonical form that every memory
operation keeps and reset has. -/

namespace Sys2Proof.Machine

/-- Writing one byte keeps the canonical form. -/
theorem setByte_wf {s : State} (k : Nat) (v : Byte) (h : s.mem.wf) : (s.setByte k v).mem.wf := mset_wf k v h

/-- Writing bytes keeps the canonical form. -/
theorem writeFrom_wf {m : Memory} (k : Nat) (bs : List Byte) (h : m.wf) : (writeFrom m k bs).wf := by
  induction bs generalizing m k with
  | nil => exact h
  | cons b bs ih => exact ih (k + 1) (mset_wf k b h)

theorem writeN_wf {s : State} (k n v : Nat) (h : s.mem.wf) : (s.writeN k n v).mem.wf := writeFrom_wf k _ h

theorem writeBytes_wf {s : State} (k : Nat) (bs : List Byte) (h : s.mem.wf) : (s.writeBytes k bs).mem.wf :=
  writeFrom_wf k bs h

/-- A core's share that powers down leaves memory in its canonical form. -/
theorem powerDown_wf {s : State} (ck c : Nat) (h : s.mem.wf) : (powerDown s ck c).mem.wf := filter_wf _ h

theorem reset_mem_wf : State.reset.mem.wf := ⟨List.Pairwise.nil, by simp [State.reset]⟩

theorem mget_writeFrom_out (m : Memory) (k : Nat) (bs : List Byte) {j : Nat} (h : j < k ∨ k + bs.length ≤ j) :
    mget resetByte (writeFrom m k bs) j = mget resetByte m j := by
  induction bs generalizing m k with
  | nil => rfl
  | cons b bs ih =>
    simp only [List.length_cons] at h
    rw [writeFrom, ih _ _ (by omega), mget_mset_ne _ _ _ (by omega)]

theorem mget_writeFrom_in (m : Memory) (k : Nat) (bs : List Byte) {i : Nat} (h : i < bs.length) :
    mget resetByte (writeFrom m k bs) (k + i) = bs[i] := by
  induction bs generalizing m k i with
  | nil => simp at h
  | cons b bs ih =>
    cases i with
    | zero =>
      rw [writeFrom, mget_writeFrom_out _ _ _ (by omega)]
      simp
    | succ i =>
      have := ih (mset resetByte m k b) (k + 1) (i := i) (by simpa using h)
      simpa [writeFrom, Nat.add_assoc, Nat.add_comm 1 i] using this

@[simp] theorem leBytes_length (n v : Nat) : (leBytes n v).length = n := by
  induction n generalizing v with
  | zero => rfl
  | succ n ih => simp [leBytes, ih]

@[simp] theorem bytesFrom_length (m : Memory) (k n : Nat) : (bytesFrom m k n).length = n := by
  induction n generalizing k with
  | zero => rfl
  | succ n ih => simp [bytesFrom, ih]

theorem leNat_leBytes (n v : Nat) : leNat (leBytes n v) = v % 256 ^ n := by
  induction n generalizing v with
  | zero => simp [leBytes, leNat, Nat.mod_one]
  | succ n ih =>
    rw [leBytes, leNat, ih, BitVec.toNat_ofNat, show 256 ^ (n + 1) = 256 * 256 ^ n from by rw [Nat.pow_add_one, Nat.mul_comm], Nat.mod_mul]

theorem leNat_lt (bs : List Byte) : leNat bs < 256 ^ bs.length := by
  induction bs with
  | nil => simp [leNat]
  | cons b bs ih =>
    have := b.isLt
    simp only [leNat, List.length_cons, Nat.pow_succ]
    omega

theorem bytesFrom_writeFrom (m : Memory) (k : Nat) (bs : List Byte) :
    bytesFrom (writeFrom m k bs) k bs.length = bs := by
  induction bs generalizing m k with
  | nil => rfl
  | cons b bs ih =>
    simp only [List.length_cons, bytesFrom, writeFrom, ih]
    rw [mget_writeFrom_out _ _ _ (by omega)]
    simp

theorem bytesFrom_writeFrom_out (m : Memory) (k : Nat) (bs : List Byte) {j n : Nat}
    (h : j + n ≤ k ∨ k + bs.length ≤ j) : bytesFrom (writeFrom m k bs) j n = bytesFrom m j n := by
  induction n generalizing j with
  | zero => rfl
  | succ n ih =>
    simp only [bytesFrom, mget_writeFrom_out m k bs (j := j) (by omega), ih (j := j + 1) (by omega)]

/-- A number that was stored is the number that is read. -/
@[simp] theorem readN_writeN (s : State) (k n v : Nat) : (s.writeN k n v).readN k n = v % 256 ^ n := by
  have := bytesFrom_writeFrom s.mem k (leBytes n v)
  simp only [leBytes_length] at this
  simp only [State.readN, State.writeN, this, leNat_leBytes]

theorem readN_writeBytes_out (s : State) (k : Nat) (bs : List Byte) {j n : Nat}
    (h : j + n ≤ k ∨ k + bs.length ≤ j) : (s.writeBytes k bs).readN j n = s.readN j n := by
  simp only [State.readN, State.writeBytes, bytesFrom_writeFrom_out s.mem k bs h]

theorem byteAt_writeBytes_out (s : State) (k : Nat) (bs : List Byte) {j : Nat} (h : j < k ∨ k + bs.length ≤ j) :
    (s.writeBytes k bs).byteAt j = s.byteAt j := mget_writeFrom_out _ _ _ h

theorem byteAt_writeBytes_in (s : State) (k : Nat) (bs : List Byte) {i : Nat} (h : i < bs.length) :
    (s.writeBytes k bs).byteAt (k + i) = bs[i] := mget_writeFrom_in _ _ _ h

theorem byteAt_writeN_out (s : State) (k n v : Nat) {j : Nat} (h : j < k ∨ k + n ≤ j) :
    (s.writeN k n v).byteAt j = s.byteAt j := mget_writeFrom_out _ _ _ (by simpa using h)

theorem setByte_comm_read (s : State) (k : Nat) (v : Byte) (j : Nat) :
    (s.setByte k v).byteAt j = if j = k then v else s.byteAt j := mget_mset _ _ _ _ _

theorem readN_lt (s : State) (k n : Nat) : s.readN k n < 256 ^ n := by
  have := leNat_lt (bytesFrom s.mem k n)
  simpa [State.readN] using this

end Sys2Proof.Machine
end

