-- ==== Sys2Proof/Laws/State.lean ====
section
/-! SUPPORT. What each update of the state leaves as it was, one lemma for each field of each update, and what the
register file reads after a write (R117, R123, R129). -/

namespace Sys2Proof.Machine

@[simp] theorem State.adv_cur (s : State) : s.adv.cur = s.cur := rfl
@[simp] theorem State.adv_cores (s : State) : s.adv.cores = s.cores := rfl
@[simp] theorem State.adv_clusters (s : State) : s.adv.clusters = s.clusters := rfl
@[simp] theorem State.adv_dies (s : State) : s.adv.dies = s.dies := rfl
@[simp] theorem State.adv_io (s : State) : s.adv.io = s.io := rfl
@[simp] theorem State.adv_pod (s : State) : s.adv.pod = s.pod := rfl
@[simp] theorem State.adv_mem (s : State) : s.adv.mem = s.mem := rfl
@[simp] theorem State.adv_bad (s : State) : s.adv.bad = s.bad := rfl
@[simp] theorem State.adv_down (s : State) : s.adv.down = s.down := rfl
@[simp] theorem State.adv_moves (s : State) : s.adv.moves = s.moves := rfl
@[simp] theorem State.adv_free (s : State) : s.adv.free = s.free := rfl
@[simp] theorem State.adv_ptime (s : State) : s.adv.ptime = s.ptime := rfl
@[simp] theorem State.adv_ptimeAt (s : State) : s.adv.ptimeAt = s.ptimeAt := rfl
@[simp] theorem State.adv_cycle (s : State) : s.adv.cycle = s.cycle := rfl

@[simp] theorem State.goto_cur (s : State) (a : Word) : (s.goto a).cur = s.cur := rfl
@[simp] theorem State.goto_cores (s : State) (a : Word) : (s.goto a).cores = s.cores := rfl
@[simp] theorem State.goto_clusters (s : State) (a : Word) : (s.goto a).clusters = s.clusters := rfl
@[simp] theorem State.goto_dies (s : State) (a : Word) : (s.goto a).dies = s.dies := rfl
@[simp] theorem State.goto_io (s : State) (a : Word) : (s.goto a).io = s.io := rfl
@[simp] theorem State.goto_pod (s : State) (a : Word) : (s.goto a).pod = s.pod := rfl
@[simp] theorem State.goto_mem (s : State) (a : Word) : (s.goto a).mem = s.mem := rfl
@[simp] theorem State.goto_bad (s : State) (a : Word) : (s.goto a).bad = s.bad := rfl
@[simp] theorem State.goto_down (s : State) (a : Word) : (s.goto a).down = s.down := rfl
@[simp] theorem State.goto_moves (s : State) (a : Word) : (s.goto a).moves = s.moves := rfl
@[simp] theorem State.goto_free (s : State) (a : Word) : (s.goto a).free = s.free := rfl
@[simp] theorem State.goto_ptime (s : State) (a : Word) : (s.goto a).ptime = s.ptime := rfl
@[simp] theorem State.goto_ptimeAt (s : State) (a : Word) : (s.goto a).ptimeAt = s.ptimeAt := rfl
@[simp] theorem State.goto_cycle (s : State) (a : Word) : (s.goto a).cycle = s.cycle := rfl

@[simp] theorem State.ret_cur (s : State) (d : BitVec 5) (v : Word) : (s.ret d v).cur = s.cur := rfl
@[simp] theorem State.ret_cores (s : State) (d : BitVec 5) (v : Word) : (s.ret d v).cores = s.cores := rfl
@[simp] theorem State.ret_clusters (s : State) (d : BitVec 5) (v : Word) : (s.ret d v).clusters = s.clusters := rfl
@[simp] theorem State.ret_dies (s : State) (d : BitVec 5) (v : Word) : (s.ret d v).dies = s.dies := rfl
@[simp] theorem State.ret_io (s : State) (d : BitVec 5) (v : Word) : (s.ret d v).io = s.io := rfl
@[simp] theorem State.ret_pod (s : State) (d : BitVec 5) (v : Word) : (s.ret d v).pod = s.pod := rfl
@[simp] theorem State.ret_mem (s : State) (d : BitVec 5) (v : Word) : (s.ret d v).mem = s.mem := rfl
@[simp] theorem State.ret_bad (s : State) (d : BitVec 5) (v : Word) : (s.ret d v).bad = s.bad := rfl
@[simp] theorem State.ret_down (s : State) (d : BitVec 5) (v : Word) : (s.ret d v).down = s.down := rfl
@[simp] theorem State.ret_moves (s : State) (d : BitVec 5) (v : Word) : (s.ret d v).moves = s.moves := rfl
@[simp] theorem State.ret_free (s : State) (d : BitVec 5) (v : Word) : (s.ret d v).free = s.free := rfl
@[simp] theorem State.ret_ptime (s : State) (d : BitVec 5) (v : Word) : (s.ret d v).ptime = s.ptime := rfl
@[simp] theorem State.ret_ptimeAt (s : State) (d : BitVec 5) (v : Word) : (s.ret d v).ptimeAt = s.ptimeAt := rfl
@[simp] theorem State.ret_cycle (s : State) (d : BitVec 5) (v : Word) : (s.ret d v).cycle = s.cycle := rfl

@[simp] theorem State.wait_cur (s : State) : s.wait.cur = s.cur := rfl
@[simp] theorem State.wait_cores (s : State) : s.wait.cores = s.cores := rfl
@[simp] theorem State.wait_clusters (s : State) : s.wait.clusters = s.clusters := rfl
@[simp] theorem State.wait_dies (s : State) : s.wait.dies = s.dies := rfl
@[simp] theorem State.wait_io (s : State) : s.wait.io = s.io := rfl
@[simp] theorem State.wait_pod (s : State) : s.wait.pod = s.pod := rfl
@[simp] theorem State.wait_mem (s : State) : s.wait.mem = s.mem := rfl
@[simp] theorem State.wait_bad (s : State) : s.wait.bad = s.bad := rfl
@[simp] theorem State.wait_down (s : State) : s.wait.down = s.down := rfl
@[simp] theorem State.wait_moves (s : State) : s.wait.moves = s.moves := rfl
@[simp] theorem State.wait_free (s : State) : s.wait.free = s.free := rfl
@[simp] theorem State.wait_ptime (s : State) : s.wait.ptime = s.ptime := rfl
@[simp] theorem State.wait_ptimeAt (s : State) : s.wait.ptimeAt = s.ptimeAt := rfl
@[simp] theorem State.wait_cycle (s : State) : s.wait.cycle = s.cycle := rfl

@[simp] theorem State.putCluster_core (s : State) (k : Nat) (c : Cluster) : (s.putCluster k c).core = s.core := rfl
@[simp] theorem State.putCluster_cur (s : State) (k : Nat) (c : Cluster) : (s.putCluster k c).cur = s.cur := rfl
@[simp] theorem State.putCluster_cores (s : State) (k : Nat) (c : Cluster) : (s.putCluster k c).cores = s.cores := rfl
@[simp] theorem State.putCluster_dies (s : State) (k : Nat) (c : Cluster) : (s.putCluster k c).dies = s.dies := rfl
@[simp] theorem State.putCluster_io (s : State) (k : Nat) (c : Cluster) : (s.putCluster k c).io = s.io := rfl
@[simp] theorem State.putCluster_pod (s : State) (k : Nat) (c : Cluster) : (s.putCluster k c).pod = s.pod := rfl
@[simp] theorem State.putCluster_mem (s : State) (k : Nat) (c : Cluster) : (s.putCluster k c).mem = s.mem := rfl
@[simp] theorem State.putCluster_bad (s : State) (k : Nat) (c : Cluster) : (s.putCluster k c).bad = s.bad := rfl
@[simp] theorem State.putCluster_down (s : State) (k : Nat) (c : Cluster) : (s.putCluster k c).down = s.down := rfl
@[simp] theorem State.putCluster_moves (s : State) (k : Nat) (c : Cluster) : (s.putCluster k c).moves = s.moves := rfl
@[simp] theorem State.putCluster_free (s : State) (k : Nat) (c : Cluster) : (s.putCluster k c).free = s.free := rfl
@[simp] theorem State.putCluster_ptime (s : State) (k : Nat) (c : Cluster) : (s.putCluster k c).ptime = s.ptime := rfl
@[simp] theorem State.putCluster_ptimeAt (s : State) (k : Nat) (c : Cluster) : (s.putCluster k c).ptimeAt = s.ptimeAt := rfl
@[simp] theorem State.putCluster_cycle (s : State) (k : Nat) (c : Cluster) : (s.putCluster k c).cycle = s.cycle := rfl

@[simp] theorem State.putHeddle_core (s : State) (k : Nat) (c : Heddle) : (s.putHeddle k c).core = s.core := rfl
@[simp] theorem State.putHeddle_cur (s : State) (k : Nat) (c : Heddle) : (s.putHeddle k c).cur = s.cur := rfl
@[simp] theorem State.putHeddle_cores (s : State) (k : Nat) (c : Heddle) : (s.putHeddle k c).cores = s.cores := rfl
@[simp] theorem State.putHeddle_dies (s : State) (k : Nat) (c : Heddle) : (s.putHeddle k c).dies = s.dies := rfl
@[simp] theorem State.putHeddle_io (s : State) (k : Nat) (c : Heddle) : (s.putHeddle k c).io = s.io := rfl
@[simp] theorem State.putHeddle_pod (s : State) (k : Nat) (c : Heddle) : (s.putHeddle k c).pod = s.pod := rfl
@[simp] theorem State.putHeddle_mem (s : State) (k : Nat) (c : Heddle) : (s.putHeddle k c).mem = s.mem := rfl
@[simp] theorem State.putHeddle_bad (s : State) (k : Nat) (c : Heddle) : (s.putHeddle k c).bad = s.bad := rfl
@[simp] theorem State.putHeddle_down (s : State) (k : Nat) (c : Heddle) : (s.putHeddle k c).down = s.down := rfl
@[simp] theorem State.putHeddle_moves (s : State) (k : Nat) (c : Heddle) : (s.putHeddle k c).moves = s.moves := rfl
@[simp] theorem State.putHeddle_free (s : State) (k : Nat) (c : Heddle) : (s.putHeddle k c).free = s.free := rfl
@[simp] theorem State.putHeddle_ptime (s : State) (k : Nat) (c : Heddle) : (s.putHeddle k c).ptime = s.ptime := rfl
@[simp] theorem State.putHeddle_ptimeAt (s : State) (k : Nat) (c : Heddle) : (s.putHeddle k c).ptimeAt = s.ptimeAt := rfl
@[simp] theorem State.putHeddle_cycle (s : State) (k : Nat) (c : Heddle) : (s.putHeddle k c).cycle = s.cycle := rfl

@[simp] theorem State.putDie_core (s : State) (k : Nat) (c : Die) : (s.putDie k c).core = s.core := rfl
@[simp] theorem State.putDie_cur (s : State) (k : Nat) (c : Die) : (s.putDie k c).cur = s.cur := rfl
@[simp] theorem State.putDie_cores (s : State) (k : Nat) (c : Die) : (s.putDie k c).cores = s.cores := rfl
@[simp] theorem State.putDie_clusters (s : State) (k : Nat) (c : Die) : (s.putDie k c).clusters = s.clusters := rfl
@[simp] theorem State.putDie_io (s : State) (k : Nat) (c : Die) : (s.putDie k c).io = s.io := rfl
@[simp] theorem State.putDie_pod (s : State) (k : Nat) (c : Die) : (s.putDie k c).pod = s.pod := rfl
@[simp] theorem State.putDie_mem (s : State) (k : Nat) (c : Die) : (s.putDie k c).mem = s.mem := rfl
@[simp] theorem State.putDie_bad (s : State) (k : Nat) (c : Die) : (s.putDie k c).bad = s.bad := rfl
@[simp] theorem State.putDie_down (s : State) (k : Nat) (c : Die) : (s.putDie k c).down = s.down := rfl
@[simp] theorem State.putDie_moves (s : State) (k : Nat) (c : Die) : (s.putDie k c).moves = s.moves := rfl
@[simp] theorem State.putDie_free (s : State) (k : Nat) (c : Die) : (s.putDie k c).free = s.free := rfl
@[simp] theorem State.putDie_ptime (s : State) (k : Nat) (c : Die) : (s.putDie k c).ptime = s.ptime := rfl
@[simp] theorem State.putDie_ptimeAt (s : State) (k : Nat) (c : Die) : (s.putDie k c).ptimeAt = s.ptimeAt := rfl
@[simp] theorem State.putDie_cycle (s : State) (k : Nat) (c : Die) : (s.putDie k c).cycle = s.cycle := rfl

@[simp] theorem State.writeN_core (s : State) (k n v : Nat) : (s.writeN k n v).core = s.core := rfl
@[simp] theorem State.writeN_cur (s : State) (k n v : Nat) : (s.writeN k n v).cur = s.cur := rfl
@[simp] theorem State.writeN_cores (s : State) (k n v : Nat) : (s.writeN k n v).cores = s.cores := rfl
@[simp] theorem State.writeN_clusters (s : State) (k n v : Nat) : (s.writeN k n v).clusters = s.clusters := rfl
@[simp] theorem State.writeN_dies (s : State) (k n v : Nat) : (s.writeN k n v).dies = s.dies := rfl
@[simp] theorem State.writeN_io (s : State) (k n v : Nat) : (s.writeN k n v).io = s.io := rfl
@[simp] theorem State.writeN_pod (s : State) (k n v : Nat) : (s.writeN k n v).pod = s.pod := rfl
@[simp] theorem State.writeN_bad (s : State) (k n v : Nat) : (s.writeN k n v).bad = s.bad := rfl
@[simp] theorem State.writeN_down (s : State) (k n v : Nat) : (s.writeN k n v).down = s.down := rfl
@[simp] theorem State.writeN_moves (s : State) (k n v : Nat) : (s.writeN k n v).moves = s.moves := rfl
@[simp] theorem State.writeN_free (s : State) (k n v : Nat) : (s.writeN k n v).free = s.free := rfl
@[simp] theorem State.writeN_ptime (s : State) (k n v : Nat) : (s.writeN k n v).ptime = s.ptime := rfl
@[simp] theorem State.writeN_ptimeAt (s : State) (k n v : Nat) : (s.writeN k n v).ptimeAt = s.ptimeAt := rfl
@[simp] theorem State.writeN_cycle (s : State) (k n v : Nat) : (s.writeN k n v).cycle = s.cycle := rfl

@[simp] theorem State.writeBytes_core (s : State) (k : Nat) (bs : List Byte) : (s.writeBytes k bs).core = s.core := rfl
@[simp] theorem State.writeBytes_cur (s : State) (k : Nat) (bs : List Byte) : (s.writeBytes k bs).cur = s.cur := rfl
@[simp] theorem State.writeBytes_cores (s : State) (k : Nat) (bs : List Byte) : (s.writeBytes k bs).cores = s.cores := rfl
@[simp] theorem State.writeBytes_clusters (s : State) (k : Nat) (bs : List Byte) : (s.writeBytes k bs).clusters = s.clusters := rfl
@[simp] theorem State.writeBytes_dies (s : State) (k : Nat) (bs : List Byte) : (s.writeBytes k bs).dies = s.dies := rfl
@[simp] theorem State.writeBytes_io (s : State) (k : Nat) (bs : List Byte) : (s.writeBytes k bs).io = s.io := rfl
@[simp] theorem State.writeBytes_pod (s : State) (k : Nat) (bs : List Byte) : (s.writeBytes k bs).pod = s.pod := rfl
@[simp] theorem State.writeBytes_bad (s : State) (k : Nat) (bs : List Byte) : (s.writeBytes k bs).bad = s.bad := rfl
@[simp] theorem State.writeBytes_down (s : State) (k : Nat) (bs : List Byte) : (s.writeBytes k bs).down = s.down := rfl
@[simp] theorem State.writeBytes_moves (s : State) (k : Nat) (bs : List Byte) : (s.writeBytes k bs).moves = s.moves := rfl
@[simp] theorem State.writeBytes_free (s : State) (k : Nat) (bs : List Byte) : (s.writeBytes k bs).free = s.free := rfl
@[simp] theorem State.writeBytes_ptime (s : State) (k : Nat) (bs : List Byte) : (s.writeBytes k bs).ptime = s.ptime := rfl
@[simp] theorem State.writeBytes_ptimeAt (s : State) (k : Nat) (bs : List Byte) : (s.writeBytes k bs).ptimeAt = s.ptimeAt := rfl
@[simp] theorem State.writeBytes_cycle (s : State) (k : Nat) (bs : List Byte) : (s.writeBytes k bs).cycle = s.cycle := rfl

@[simp] theorem State.putEntry_core (s : State) (k i : Nat) (e : Entry) : (s.putEntry k i e).core = s.core := rfl
@[simp] theorem State.putEntry_cur (s : State) (k i : Nat) (e : Entry) : (s.putEntry k i e).cur = s.cur := rfl
@[simp] theorem State.putEntry_cores (s : State) (k i : Nat) (e : Entry) : (s.putEntry k i e).cores = s.cores := rfl
@[simp] theorem State.putEntry_dies (s : State) (k i : Nat) (e : Entry) : (s.putEntry k i e).dies = s.dies := rfl
@[simp] theorem State.putEntry_io (s : State) (k i : Nat) (e : Entry) : (s.putEntry k i e).io = s.io := rfl
@[simp] theorem State.putEntry_pod (s : State) (k i : Nat) (e : Entry) : (s.putEntry k i e).pod = s.pod := rfl
@[simp] theorem State.putEntry_mem (s : State) (k i : Nat) (e : Entry) : (s.putEntry k i e).mem = s.mem := rfl
@[simp] theorem State.putEntry_bad (s : State) (k i : Nat) (e : Entry) : (s.putEntry k i e).bad = s.bad := rfl
@[simp] theorem State.putEntry_down (s : State) (k i : Nat) (e : Entry) : (s.putEntry k i e).down = s.down := rfl
@[simp] theorem State.putEntry_moves (s : State) (k i : Nat) (e : Entry) : (s.putEntry k i e).moves = s.moves := rfl
@[simp] theorem State.putEntry_free (s : State) (k i : Nat) (e : Entry) : (s.putEntry k i e).free = s.free := rfl
@[simp] theorem State.putEntry_ptime (s : State) (k i : Nat) (e : Entry) : (s.putEntry k i e).ptime = s.ptime := rfl
@[simp] theorem State.putEntry_ptimeAt (s : State) (k i : Nat) (e : Entry) : (s.putEntry k i e).ptimeAt = s.ptimeAt := rfl
@[simp] theorem State.putEntry_cycle (s : State) (k i : Nat) (e : Entry) : (s.putEntry k i e).cycle = s.cycle := rfl

@[simp] theorem State.putCore_cur (s : State) (k : Nat) (c : Core) : (s.putCore k c).cur = s.cur := by
  unfold State.putCore; split <;> rfl
@[simp] theorem State.putCore_clusters (s : State) (k : Nat) (c : Core) : (s.putCore k c).clusters = s.clusters := by
  unfold State.putCore; split <;> rfl
@[simp] theorem State.putCore_dies (s : State) (k : Nat) (c : Core) : (s.putCore k c).dies = s.dies := by
  unfold State.putCore; split <;> rfl
@[simp] theorem State.putCore_io (s : State) (k : Nat) (c : Core) : (s.putCore k c).io = s.io := by
  unfold State.putCore; split <;> rfl
@[simp] theorem State.putCore_pod (s : State) (k : Nat) (c : Core) : (s.putCore k c).pod = s.pod := by
  unfold State.putCore; split <;> rfl
@[simp] theorem State.putCore_mem (s : State) (k : Nat) (c : Core) : (s.putCore k c).mem = s.mem := by
  unfold State.putCore; split <;> rfl
@[simp] theorem State.putCore_bad (s : State) (k : Nat) (c : Core) : (s.putCore k c).bad = s.bad := by
  unfold State.putCore; split <;> rfl
@[simp] theorem State.putCore_down (s : State) (k : Nat) (c : Core) : (s.putCore k c).down = s.down := by
  unfold State.putCore; split <;> rfl
@[simp] theorem State.putCore_moves (s : State) (k : Nat) (c : Core) : (s.putCore k c).moves = s.moves := by
  unfold State.putCore; split <;> rfl
@[simp] theorem State.putCore_free (s : State) (k : Nat) (c : Core) : (s.putCore k c).free = s.free := by
  unfold State.putCore; split <;> rfl
@[simp] theorem State.putCore_ptime (s : State) (k : Nat) (c : Core) : (s.putCore k c).ptime = s.ptime := by
  unfold State.putCore; split <;> rfl
@[simp] theorem State.putCore_ptimeAt (s : State) (k : Nat) (c : Core) : (s.putCore k c).ptimeAt = s.ptimeAt := by
  unfold State.putCore; split <;> rfl
@[simp] theorem State.putCore_cycle (s : State) (k : Nat) (c : Core) : (s.putCore k c).cycle = s.cycle := by
  unfold State.putCore; split <;> rfl

@[simp] theorem State.select_clusters (s : State) (k : Nat) : (s.select k).clusters = s.clusters := by
  unfold State.select; split <;> rfl
@[simp] theorem State.select_dies (s : State) (k : Nat) : (s.select k).dies = s.dies := by
  unfold State.select; split <;> rfl
@[simp] theorem State.select_io (s : State) (k : Nat) : (s.select k).io = s.io := by
  unfold State.select; split <;> rfl
@[simp] theorem State.select_pod (s : State) (k : Nat) : (s.select k).pod = s.pod := by
  unfold State.select; split <;> rfl
@[simp] theorem State.select_mem (s : State) (k : Nat) : (s.select k).mem = s.mem := by
  unfold State.select; split <;> rfl
@[simp] theorem State.select_bad (s : State) (k : Nat) : (s.select k).bad = s.bad := by
  unfold State.select; split <;> rfl
@[simp] theorem State.select_down (s : State) (k : Nat) : (s.select k).down = s.down := by
  unfold State.select; split <;> rfl
@[simp] theorem State.select_moves (s : State) (k : Nat) : (s.select k).moves = s.moves := by
  unfold State.select; split <;> rfl
@[simp] theorem State.select_free (s : State) (k : Nat) : (s.select k).free = s.free := by
  unfold State.select; split <;> rfl
@[simp] theorem State.select_ptime (s : State) (k : Nat) : (s.select k).ptime = s.ptime := by
  unfold State.select; split <;> rfl
@[simp] theorem State.select_ptimeAt (s : State) (k : Nat) : (s.select k).ptimeAt = s.ptimeAt := by
  unfold State.select; split <;> rfl
@[simp] theorem State.select_cycle (s : State) (k : Nat) : (s.select k).cycle = s.cycle := by
  unfold State.select; split <;> rfl

@[simp] theorem Core.setLogical_b (c : Core) (l : Nat) (v : Word) : (c.setLogical l v).b = c.b := rfl
@[simp] theorem Core.setLogical_f (c : Core) (l : Nat) (v : Word) : (c.setLogical l v).f = c.f := rfl
@[simp] theorem Core.setLogical_pc (c : Core) (l : Nat) (v : Word) : (c.setLogical l v).pc = c.pc := rfl
@[simp] theorem Core.setLogical_priv (c : Core) (l : Nat) (v : Word) : (c.setLogical l v).priv = c.priv := rfl
@[simp] theorem Core.setLogical_running (c : Core) (l : Nat) (v : Word) : (c.setLogical l v).running = c.running := rfl
@[simp] theorem Core.setLogical_space (c : Core) (l : Nat) (v : Word) : (c.setLogical l v).space = c.space := rfl
@[simp] theorem Core.setLogical_vregs (c : Core) (l : Nat) (v : Word) : (c.setLogical l v).vregs = c.vregs := rfl
@[simp] theorem Core.setLogical_mregs (c : Core) (l : Nat) (v : Word) : (c.setLogical l v).mregs = c.mregs := rfl
@[simp] theorem Core.setLogical_queues (c : Core) (l : Nat) (v : Word) : (c.setLogical l v).queues = c.queues := rfl
@[simp] theorem Core.setLogical_trap (c : Core) (l : Nat) (v : Word) : (c.setLogical l v).trap = c.trap := rfl
@[simp] theorem Core.setLogical_modes (c : Core) (l : Nat) (v : Word) : (c.setLogical l v).modes = c.modes := rfl
@[simp] theorem Core.setLogical_wcnt (c : Core) (l : Nat) (v : Word) : (c.setLogical l v).wcnt = c.wcnt := rfl
@[simp] theorem Core.setLogical_loom (c : Core) (l : Nat) (v : Word) : (c.setLogical l v).loom = c.loom := rfl
@[simp] theorem Core.setLogical_pts (c : Core) (l : Nat) (v : Word) : (c.setLogical l v).pts = c.pts := rfl
@[simp] theorem Core.setLogical_holds (c : Core) (l : Nat) (v : Word) : (c.setLogical l v).holds = c.holds := rfl
@[simp] theorem Core.setLogical_gang (c : Core) (l : Nat) (v : Word) : (c.setLogical l v).gang = c.gang := rfl
@[simp] theorem Core.setLogical_vmarks (c : Core) (l : Nat) (v : Word) : (c.setLogical l v).vmarks = c.vmarks := rfl
@[simp] theorem Core.setLogical_mmarks (c : Core) (l : Nat) (v : Word) : (c.setLogical l v).mmarks = c.mmarks := rfl
@[simp] theorem Core.setLogical_oldCode (c : Core) (l : Nat) (v : Word) : (c.setLogical l v).oldCode = c.oldCode := rfl
@[simp] theorem Core.setLogical_unit (c : Core) (l : Nat) (v : Word) : (c.setLogical l v).unit = c.unit := rfl
@[simp] theorem Core.setLogical_waiting (c : Core) (l : Nat) (v : Word) : (c.setLogical l v).waiting = c.waiting := rfl
@[simp] theorem Core.setLogical_vectoring (c : Core) (l : Nat) (v : Word) : (c.setLogical l v).vectoring = c.vectoring := rfl
@[simp] theorem Core.setLogical_preempt (c : Core) (l : Nat) (v : Word) : (c.setLogical l v).preempt = c.preempt := rfl
@[simp] theorem Core.setLogical_dispatched (c : Core) (l : Nat) (v : Word) : (c.setLogical l v).dispatched = c.dispatched := rfl
@[simp] theorem Core.setLogical_usedTime (c : Core) (l : Nat) (v : Word) : (c.setLogical l v).usedTime = c.usedTime := rfl
@[simp] theorem Core.setLogical_nordTime (c : Core) (l : Nat) (v : Word) : (c.setLogical l v).nordTime = c.nordTime := rfl
@[simp] theorem Core.setLogical_credit (c : Core) (l : Nat) (v : Word) : (c.setLogical l v).credit = c.credit := rfl
@[simp] theorem Core.setLogical_answers (c : Core) (l : Nat) (v : Word) : (c.setLogical l v).answers = c.answers := rfl
@[simp] theorem Core.setLogical_asked (c : Core) (l : Nat) (v : Word) : (c.setLogical l v).asked = c.asked := rfl

@[simp] theorem Core.setX_b (c : Core) (l : Nat) (v : Word) : (c.setX l v).b = c.b := rfl
@[simp] theorem Core.setX_f (c : Core) (l : Nat) (v : Word) : (c.setX l v).f = c.f := rfl
@[simp] theorem Core.setX_pc (c : Core) (l : Nat) (v : Word) : (c.setX l v).pc = c.pc := rfl
@[simp] theorem Core.setX_priv (c : Core) (l : Nat) (v : Word) : (c.setX l v).priv = c.priv := rfl
@[simp] theorem Core.setX_running (c : Core) (l : Nat) (v : Word) : (c.setX l v).running = c.running := rfl
@[simp] theorem Core.setX_space (c : Core) (l : Nat) (v : Word) : (c.setX l v).space = c.space := rfl
@[simp] theorem Core.setX_vregs (c : Core) (l : Nat) (v : Word) : (c.setX l v).vregs = c.vregs := rfl
@[simp] theorem Core.setX_mregs (c : Core) (l : Nat) (v : Word) : (c.setX l v).mregs = c.mregs := rfl
@[simp] theorem Core.setX_queues (c : Core) (l : Nat) (v : Word) : (c.setX l v).queues = c.queues := rfl
@[simp] theorem Core.setX_trap (c : Core) (l : Nat) (v : Word) : (c.setX l v).trap = c.trap := rfl
@[simp] theorem Core.setX_modes (c : Core) (l : Nat) (v : Word) : (c.setX l v).modes = c.modes := rfl
@[simp] theorem Core.setX_wcnt (c : Core) (l : Nat) (v : Word) : (c.setX l v).wcnt = c.wcnt := rfl
@[simp] theorem Core.setX_loom (c : Core) (l : Nat) (v : Word) : (c.setX l v).loom = c.loom := rfl
@[simp] theorem Core.setX_pts (c : Core) (l : Nat) (v : Word) : (c.setX l v).pts = c.pts := rfl
@[simp] theorem Core.setX_holds (c : Core) (l : Nat) (v : Word) : (c.setX l v).holds = c.holds := rfl
@[simp] theorem Core.setX_gang (c : Core) (l : Nat) (v : Word) : (c.setX l v).gang = c.gang := rfl
@[simp] theorem Core.setX_vmarks (c : Core) (l : Nat) (v : Word) : (c.setX l v).vmarks = c.vmarks := rfl
@[simp] theorem Core.setX_mmarks (c : Core) (l : Nat) (v : Word) : (c.setX l v).mmarks = c.mmarks := rfl
@[simp] theorem Core.setX_oldCode (c : Core) (l : Nat) (v : Word) : (c.setX l v).oldCode = c.oldCode := rfl
@[simp] theorem Core.setX_unit (c : Core) (l : Nat) (v : Word) : (c.setX l v).unit = c.unit := rfl
@[simp] theorem Core.setX_waiting (c : Core) (l : Nat) (v : Word) : (c.setX l v).waiting = c.waiting := rfl
@[simp] theorem Core.setX_vectoring (c : Core) (l : Nat) (v : Word) : (c.setX l v).vectoring = c.vectoring := rfl
@[simp] theorem Core.setX_preempt (c : Core) (l : Nat) (v : Word) : (c.setX l v).preempt = c.preempt := rfl
@[simp] theorem Core.setX_dispatched (c : Core) (l : Nat) (v : Word) : (c.setX l v).dispatched = c.dispatched := rfl
@[simp] theorem Core.setX_usedTime (c : Core) (l : Nat) (v : Word) : (c.setX l v).usedTime = c.usedTime := rfl
@[simp] theorem Core.setX_nordTime (c : Core) (l : Nat) (v : Word) : (c.setX l v).nordTime = c.nordTime := rfl
@[simp] theorem Core.setX_credit (c : Core) (l : Nat) (v : Word) : (c.setX l v).credit = c.credit := rfl
@[simp] theorem Core.setX_answers (c : Core) (l : Nat) (v : Word) : (c.setX l v).answers = c.answers := rfl
@[simp] theorem Core.setX_asked (c : Core) (l : Nat) (v : Word) : (c.setX l v).asked = c.asked := rfl

@[simp] theorem Core.setV_regs (c : Core) (n : Nat) (v : Vec) : (c.setV n v).regs = c.regs := rfl
@[simp] theorem Core.setV_b (c : Core) (n : Nat) (v : Vec) : (c.setV n v).b = c.b := rfl
@[simp] theorem Core.setV_f (c : Core) (n : Nat) (v : Vec) : (c.setV n v).f = c.f := rfl
@[simp] theorem Core.setV_pc (c : Core) (n : Nat) (v : Vec) : (c.setV n v).pc = c.pc := rfl
@[simp] theorem Core.setV_priv (c : Core) (n : Nat) (v : Vec) : (c.setV n v).priv = c.priv := rfl
@[simp] theorem Core.setV_running (c : Core) (n : Nat) (v : Vec) : (c.setV n v).running = c.running := rfl
@[simp] theorem Core.setV_space (c : Core) (n : Nat) (v : Vec) : (c.setV n v).space = c.space := rfl
@[simp] theorem Core.setV_mregs (c : Core) (n : Nat) (v : Vec) : (c.setV n v).mregs = c.mregs := rfl
@[simp] theorem Core.setV_queues (c : Core) (n : Nat) (v : Vec) : (c.setV n v).queues = c.queues := rfl
@[simp] theorem Core.setV_trap (c : Core) (n : Nat) (v : Vec) : (c.setV n v).trap = c.trap := rfl
@[simp] theorem Core.setV_modes (c : Core) (n : Nat) (v : Vec) : (c.setV n v).modes = c.modes := rfl
@[simp] theorem Core.setV_wcnt (c : Core) (n : Nat) (v : Vec) : (c.setV n v).wcnt = c.wcnt := rfl
@[simp] theorem Core.setV_fails (c : Core) (n : Nat) (v : Vec) : (c.setV n v).fails = c.fails := rfl
@[simp] theorem Core.setV_loom (c : Core) (n : Nat) (v : Vec) : (c.setV n v).loom = c.loom := rfl
@[simp] theorem Core.setV_pts (c : Core) (n : Nat) (v : Vec) : (c.setV n v).pts = c.pts := rfl
@[simp] theorem Core.setV_holds (c : Core) (n : Nat) (v : Vec) : (c.setV n v).holds = c.holds := rfl
@[simp] theorem Core.setV_gang (c : Core) (n : Nat) (v : Vec) : (c.setV n v).gang = c.gang := rfl
@[simp] theorem Core.setV_gmarks (c : Core) (n : Nat) (v : Vec) : (c.setV n v).gmarks = c.gmarks := rfl
@[simp] theorem Core.setV_mmarks (c : Core) (n : Nat) (v : Vec) : (c.setV n v).mmarks = c.mmarks := rfl
@[simp] theorem Core.setV_oldCode (c : Core) (n : Nat) (v : Vec) : (c.setV n v).oldCode = c.oldCode := rfl
@[simp] theorem Core.setV_unit (c : Core) (n : Nat) (v : Vec) : (c.setV n v).unit = c.unit := rfl
@[simp] theorem Core.setV_waiting (c : Core) (n : Nat) (v : Vec) : (c.setV n v).waiting = c.waiting := rfl
@[simp] theorem Core.setV_vectoring (c : Core) (n : Nat) (v : Vec) : (c.setV n v).vectoring = c.vectoring := rfl
@[simp] theorem Core.setV_preempt (c : Core) (n : Nat) (v : Vec) : (c.setV n v).preempt = c.preempt := rfl
@[simp] theorem Core.setV_dispatched (c : Core) (n : Nat) (v : Vec) : (c.setV n v).dispatched = c.dispatched := rfl
@[simp] theorem Core.setV_usedTime (c : Core) (n : Nat) (v : Vec) : (c.setV n v).usedTime = c.usedTime := rfl
@[simp] theorem Core.setV_nordTime (c : Core) (n : Nat) (v : Vec) : (c.setV n v).nordTime = c.nordTime := rfl
@[simp] theorem Core.setV_credit (c : Core) (n : Nat) (v : Vec) : (c.setV n v).credit = c.credit := rfl
@[simp] theorem Core.setV_answers (c : Core) (n : Nat) (v : Vec) : (c.setV n v).answers = c.answers := rfl
@[simp] theorem Core.setV_asked (c : Core) (n : Nat) (v : Vec) : (c.setV n v).asked = c.asked := rfl

@[simp] theorem Core.setM_regs (c : Core) (n : Nat) (v : Mom) : (c.setM n v).regs = c.regs := rfl
@[simp] theorem Core.setM_b (c : Core) (n : Nat) (v : Mom) : (c.setM n v).b = c.b := rfl
@[simp] theorem Core.setM_f (c : Core) (n : Nat) (v : Mom) : (c.setM n v).f = c.f := rfl
@[simp] theorem Core.setM_pc (c : Core) (n : Nat) (v : Mom) : (c.setM n v).pc = c.pc := rfl
@[simp] theorem Core.setM_priv (c : Core) (n : Nat) (v : Mom) : (c.setM n v).priv = c.priv := rfl
@[simp] theorem Core.setM_running (c : Core) (n : Nat) (v : Mom) : (c.setM n v).running = c.running := rfl
@[simp] theorem Core.setM_space (c : Core) (n : Nat) (v : Mom) : (c.setM n v).space = c.space := rfl
@[simp] theorem Core.setM_vregs (c : Core) (n : Nat) (v : Mom) : (c.setM n v).vregs = c.vregs := rfl
@[simp] theorem Core.setM_queues (c : Core) (n : Nat) (v : Mom) : (c.setM n v).queues = c.queues := rfl
@[simp] theorem Core.setM_trap (c : Core) (n : Nat) (v : Mom) : (c.setM n v).trap = c.trap := rfl
@[simp] theorem Core.setM_modes (c : Core) (n : Nat) (v : Mom) : (c.setM n v).modes = c.modes := rfl
@[simp] theorem Core.setM_wcnt (c : Core) (n : Nat) (v : Mom) : (c.setM n v).wcnt = c.wcnt := rfl
@[simp] theorem Core.setM_fails (c : Core) (n : Nat) (v : Mom) : (c.setM n v).fails = c.fails := rfl
@[simp] theorem Core.setM_loom (c : Core) (n : Nat) (v : Mom) : (c.setM n v).loom = c.loom := rfl
@[simp] theorem Core.setM_pts (c : Core) (n : Nat) (v : Mom) : (c.setM n v).pts = c.pts := rfl
@[simp] theorem Core.setM_holds (c : Core) (n : Nat) (v : Mom) : (c.setM n v).holds = c.holds := rfl
@[simp] theorem Core.setM_gang (c : Core) (n : Nat) (v : Mom) : (c.setM n v).gang = c.gang := rfl
@[simp] theorem Core.setM_vmarks (c : Core) (n : Nat) (v : Mom) : (c.setM n v).vmarks = c.vmarks := rfl
@[simp] theorem Core.setM_gmarks (c : Core) (n : Nat) (v : Mom) : (c.setM n v).gmarks = c.gmarks := rfl
@[simp] theorem Core.setM_oldCode (c : Core) (n : Nat) (v : Mom) : (c.setM n v).oldCode = c.oldCode := rfl
@[simp] theorem Core.setM_unit (c : Core) (n : Nat) (v : Mom) : (c.setM n v).unit = c.unit := rfl
@[simp] theorem Core.setM_waiting (c : Core) (n : Nat) (v : Mom) : (c.setM n v).waiting = c.waiting := rfl
@[simp] theorem Core.setM_vectoring (c : Core) (n : Nat) (v : Mom) : (c.setM n v).vectoring = c.vectoring := rfl
@[simp] theorem Core.setM_preempt (c : Core) (n : Nat) (v : Mom) : (c.setM n v).preempt = c.preempt := rfl
@[simp] theorem Core.setM_dispatched (c : Core) (n : Nat) (v : Mom) : (c.setM n v).dispatched = c.dispatched := rfl
@[simp] theorem Core.setM_usedTime (c : Core) (n : Nat) (v : Mom) : (c.setM n v).usedTime = c.usedTime := rfl
@[simp] theorem Core.setM_nordTime (c : Core) (n : Nat) (v : Mom) : (c.setM n v).nordTime = c.nordTime := rfl
@[simp] theorem Core.setM_credit (c : Core) (n : Nat) (v : Mom) : (c.setM n v).credit = c.credit := rfl
@[simp] theorem Core.setM_answers (c : Core) (n : Nat) (v : Mom) : (c.setM n v).answers = c.answers := rfl
@[simp] theorem Core.setM_asked (c : Core) (n : Nat) (v : Mom) : (c.setM n v).asked = c.asked := rfl

@[simp] theorem Core.setQ_regs (c : Core) (n : Nat) (q : OpQueue) : (c.setQ n q).regs = c.regs := rfl
@[simp] theorem Core.setQ_b (c : Core) (n : Nat) (q : OpQueue) : (c.setQ n q).b = c.b := rfl
@[simp] theorem Core.setQ_f (c : Core) (n : Nat) (q : OpQueue) : (c.setQ n q).f = c.f := rfl
@[simp] theorem Core.setQ_pc (c : Core) (n : Nat) (q : OpQueue) : (c.setQ n q).pc = c.pc := rfl
@[simp] theorem Core.setQ_priv (c : Core) (n : Nat) (q : OpQueue) : (c.setQ n q).priv = c.priv := rfl
@[simp] theorem Core.setQ_running (c : Core) (n : Nat) (q : OpQueue) : (c.setQ n q).running = c.running := rfl
@[simp] theorem Core.setQ_space (c : Core) (n : Nat) (q : OpQueue) : (c.setQ n q).space = c.space := rfl
@[simp] theorem Core.setQ_vregs (c : Core) (n : Nat) (q : OpQueue) : (c.setQ n q).vregs = c.vregs := rfl
@[simp] theorem Core.setQ_mregs (c : Core) (n : Nat) (q : OpQueue) : (c.setQ n q).mregs = c.mregs := rfl
@[simp] theorem Core.setQ_trap (c : Core) (n : Nat) (q : OpQueue) : (c.setQ n q).trap = c.trap := rfl
@[simp] theorem Core.setQ_modes (c : Core) (n : Nat) (q : OpQueue) : (c.setQ n q).modes = c.modes := rfl
@[simp] theorem Core.setQ_wcnt (c : Core) (n : Nat) (q : OpQueue) : (c.setQ n q).wcnt = c.wcnt := rfl
@[simp] theorem Core.setQ_fails (c : Core) (n : Nat) (q : OpQueue) : (c.setQ n q).fails = c.fails := rfl
@[simp] theorem Core.setQ_loom (c : Core) (n : Nat) (q : OpQueue) : (c.setQ n q).loom = c.loom := rfl
@[simp] theorem Core.setQ_pts (c : Core) (n : Nat) (q : OpQueue) : (c.setQ n q).pts = c.pts := rfl
@[simp] theorem Core.setQ_holds (c : Core) (n : Nat) (q : OpQueue) : (c.setQ n q).holds = c.holds := rfl
@[simp] theorem Core.setQ_gang (c : Core) (n : Nat) (q : OpQueue) : (c.setQ n q).gang = c.gang := rfl
@[simp] theorem Core.setQ_vmarks (c : Core) (n : Nat) (q : OpQueue) : (c.setQ n q).vmarks = c.vmarks := rfl
@[simp] theorem Core.setQ_gmarks (c : Core) (n : Nat) (q : OpQueue) : (c.setQ n q).gmarks = c.gmarks := rfl
@[simp] theorem Core.setQ_mmarks (c : Core) (n : Nat) (q : OpQueue) : (c.setQ n q).mmarks = c.mmarks := rfl
@[simp] theorem Core.setQ_oldCode (c : Core) (n : Nat) (q : OpQueue) : (c.setQ n q).oldCode = c.oldCode := rfl
@[simp] theorem Core.setQ_unit (c : Core) (n : Nat) (q : OpQueue) : (c.setQ n q).unit = c.unit := rfl
@[simp] theorem Core.setQ_waiting (c : Core) (n : Nat) (q : OpQueue) : (c.setQ n q).waiting = c.waiting := rfl
@[simp] theorem Core.setQ_vectoring (c : Core) (n : Nat) (q : OpQueue) : (c.setQ n q).vectoring = c.vectoring := rfl
@[simp] theorem Core.setQ_preempt (c : Core) (n : Nat) (q : OpQueue) : (c.setQ n q).preempt = c.preempt := rfl
@[simp] theorem Core.setQ_dispatched (c : Core) (n : Nat) (q : OpQueue) : (c.setQ n q).dispatched = c.dispatched := rfl
@[simp] theorem Core.setQ_usedTime (c : Core) (n : Nat) (q : OpQueue) : (c.setQ n q).usedTime = c.usedTime := rfl
@[simp] theorem Core.setQ_nordTime (c : Core) (n : Nat) (q : OpQueue) : (c.setQ n q).nordTime = c.nordTime := rfl
@[simp] theorem Core.setQ_credit (c : Core) (n : Nat) (q : OpQueue) : (c.setQ n q).credit = c.credit := rfl
@[simp] theorem Core.setQ_answers (c : Core) (n : Nat) (q : OpQueue) : (c.setQ n q).answers = c.answers := rfl
@[simp] theorem Core.setQ_asked (c : Core) (n : Nat) (q : OpQueue) : (c.setQ n q).asked = c.asked := rfl

theorem Core.logical_setLogical (c : Core) (l j : Nat) (v : Word) :
    (c.setLogical l v).logical j = if j % 128 = l % 128 then v else c.logical j := by
  simp only [Core.logical, Core.setLogical, mget_mset]

theorem Core.x_eq_logical (c : Core) (n : Nat) : c.x n = c.logical (c.b + n) := rfl

theorem Core.x_setX (c : Core) (n m : Nat) (v : Word) :
    (c.setX n v).x m = if (c.b + m) % 128 = (c.b + n) % 128 then v else c.x m := by
  simp only [Core.x_eq_logical, Core.setX, Core.logical_setLogical, Core.setLogical_b]

@[simp] theorem Core.x_setX_self (c : Core) (n : Nat) (v : Word) : (c.setX n v).x n = v := by simp [Core.x_setX]

/-- The register an instruction writes holds the value after it. -/
@[simp] theorem State.x_ret (s : State) (d : BitVec 5) (v : Word) : (s.ret d v).x d = v := by
  show (s.core.setX d.toNat v).x d.toNat = v
  simp

@[simp] theorem State.pc_ret (s : State) (d : BitVec 5) (v : Word) : (s.ret d v).core.pc = s.core.unit.here + 4 := rfl

@[simp] theorem State.pc_adv (s : State) : s.adv.core.pc = s.core.unit.here + 4 := rfl

/-- What a write of a general register leaves of the others. -/
theorem State.logical_ret (s : State) (d : BitVec 5) (v : Word) (l : Nat) :
    (s.ret d v).core.logical l = if l % 128 = (s.core.b + d.toNat) % 128 then v else s.core.logical l := by
  show (s.core.setX d.toNat v).logical l = _
  rw [Core.setX, Core.logical_setLogical]

theorem Core.v_setV (c : Core) (n m : Nat) (v : Vec) : (c.setV n v).v m = if m = n then v else c.v m := by
  simp only [Core.v, Core.setV, mget_mset]

theorem Core.m_setM (c : Core) (n m : Nat) (v : Mom) : (c.setM n v).m m = if m = n then v else c.m m := by
  simp only [Core.m, Core.setM, mget_mset]

theorem Core.q_setQ (c : Core) (n m : Nat) (q : OpQueue) : (c.setQ n q).q m = if m = n then q else c.q m := by
  simp only [Core.q, Core.setQ, mget_mput]

theorem State.clusterAt_putCluster (s : State) (k j : Nat) (c : Cluster) :
    (s.putCluster k c).clusterAt j = if j = k then c else s.clusterAt j := by
  simp only [State.clusterAt, State.putCluster, mget_mput]

@[simp] theorem State.clusterAt_putCluster_self (s : State) (k : Nat) (c : Cluster) :
    (s.putCluster k c).clusterAt k = c := by simp [State.clusterAt_putCluster]

theorem State.dieAt_putDie (s : State) (k j : Nat) (x : Die) :
    (s.putDie k x).dieAt j = if j = k then x else s.dieAt j := by
  simp only [State.dieAt, State.putDie, mget_mput]

@[simp] theorem State.dieAt_putDie_self (s : State) (k : Nat) (x : Die) : (s.putDie k x).dieAt k = x := by
  simp [State.dieAt_putDie]

theorem State.coreAt_putCore (s : State) (k j : Nat) (c : Core) :
    (s.putCore k c).coreAt j = if j = k then c else s.coreAt j := by
  unfold State.putCore State.coreAt
  by_cases h : k = s.cur
  · subst h
    by_cases h2 : j = s.cur <;> simp [h2]
  · by_cases h2 : j = s.cur
    · subst h2; simp [h, Ne.symm h]
    · simp [h, h2, mget_mput]

@[simp] theorem State.coreAt_putCore_self (s : State) (k : Nat) (c : Core) : (s.putCore k c).coreAt k = c := by
  simp [State.coreAt_putCore]

@[simp] theorem State.coreAt_cur (s : State) : s.coreAt s.cur = s.core := by simp [State.coreAt]

theorem Cluster.task_putTask (c : Cluster) (i j : Nat) (t : Task) :
    ({ c with tasks := mput c.tasks i t } : Cluster).task j = if j = i then t else c.task j := by
  simp only [Cluster.task, mget_mput]

theorem Cluster.entry_putEntry (c : Cluster) (i j : Nat) (e : Entry) :
    (c.putEntry i e).entry j = if j = i then e else c.entry j := by
  simp only [Cluster.entry, Cluster.putEntry, mget_mput]

theorem Cluster.ctxAt_putCtx (c : Cluster) (i j : Nat) (x : Ctx) :
    (c.putCtx i x).ctxAt j = if j = i then x else c.ctxAt j := by
  simp only [Cluster.ctxAt, Cluster.putCtx, mget_mput]

end Sys2Proof.Machine
end

