-- ==== Sys2Proof/Laws/Cache.lean ====
section
/-! SUPPORT. What caches, logical times and translations never touch: they change clusters and dies alone, so that every
byte of memory and every core stays as it was (R142, R151, R153 to R165). -/

namespace Sys2Proof.Machine

theorem Calm.refl (s : State) : Calm s s := ⟨rfl, fun _ => rfl, fun _ => rfl⟩

theorem Calm.trans {s t u : State} (h : Calm s t) (k : Calm t u) : Calm s u :=
  ⟨by rw [k.eq, h.eq], fun j => by rw [k.clusters j, h.clusters j], fun j => by rw [k.dies j, h.dies j]⟩

/-- Changing the cached part of a cluster, and that of a die. -/
theorem calm_cluster (s : State) (k : Nat) (l : List L1Line) (ts : SMap (Nat × Nat)) (b : ErrBank) :
    Calm s (s.putCluster k { s.clusterAt k with l1 := l, times := ts, bank := b }) := by
  refine ⟨rfl, fun j => ?_, fun _ => rfl⟩
  rw [State.clusterAt_putCluster]
  split <;> rename_i h
  · rw [h]
  · rfl

theorem calm_die (s : State) (d : Nat) (st : SMap (List Transl)) (c : List Transl) (l : L2) (b : ErrBank) :
    Calm s (s.putDie d { s.dieAt d with stations := st, llc := c, l2 := l, bank := b }) := by
  refine ⟨rfl, fun _ => rfl, fun j => ?_⟩
  rw [State.dieAt_putDie]
  split <;> rename_i h
  · rw [h]
  · rfl

theorem Calm.mem {s t : State} (h : Calm s t) : t.mem = s.mem := by rw [h.eq]
theorem Calm.core {s t : State} (h : Calm s t) : t.core = s.core := by rw [h.eq]
theorem Calm.cur {s t : State} (h : Calm s t) : t.cur = s.cur := by rw [h.eq]
theorem Calm.cores {s t : State} (h : Calm s t) : t.cores = s.cores := by rw [h.eq]
theorem Calm.io {s t : State} (h : Calm s t) : t.io = s.io := by rw [h.eq]
theorem Calm.pod {s t : State} (h : Calm s t) : t.pod = s.pod := by rw [h.eq]
theorem Calm.bad {s t : State} (h : Calm s t) : t.bad = s.bad := by rw [h.eq]
theorem Calm.free {s t : State} (h : Calm s t) : t.free = s.free := by rw [h.eq]
theorem Calm.cycle {s t : State} (h : Calm s t) : t.cycle = s.cycle := by rw [h.eq]

theorem Calm.readN {s t : State} (h : Calm s t) (k n : Nat) : t.readN k n = s.readN k n := by
  simp only [State.readN, h.mem]

theorem Calm.byteAt {s t : State} (h : Calm s t) (k : Nat) : t.byteAt k = s.byteAt k := by
  simp only [State.byteAt, h.mem]

theorem Calm.marked {s t : State} (h : Calm s t) (k n : Nat) : t.marked k n = s.marked k n := by
  simp only [State.marked, h.bad]

theorem calm_putL2 (s : State) (d : Nat) (l : L2) : Calm s (s.putL2 d l) := calm_die s d _ _ l _

theorem calm_l2Miss (s : State) (line dom : Nat) (e st w : Bool) : Calm s (l2Miss s line dom e st w) := by
  unfold l2Miss
  simp only
  repeat' split
  all_goals first | exact Calm.refl s | exact calm_putL2 _ _ _

theorem calm_l2Fill (s : State) (line dom : Nat) (e st w : Bool) : Calm s (l2Fill s line dom e st w) := by
  unfold l2Fill
  simp only
  split
  · exact calm_putL2 _ _ _
  · exact calm_l2Miss _ _ _ _ _ _

theorem calm_l2Dirty (s : State) (line : Nat) : Calm s (l2Dirty s line) := by
  unfold l2Dirty
  simp only
  repeat' split
  all_goals first | exact Calm.refl s | exact calm_putL2 _ _ _

theorem calm_l2Whole (s : State) (line dom : Nat) (e : Bool) : Calm s (l2Whole s line dom e) := by
  unfold l2Whole
  simp only
  repeat' split
  all_goals first | exact Calm.refl s | exact calm_putL2 _ _ _

theorem calm_setTimes (s : State) (k w r : Nat) : Calm s (s.setTimes k w r) := by
  unfold State.setTimes
  simp only
  repeat' split
  all_goals first | exact Calm.refl s | exact calm_putL2 _ _ _ | exact calm_cluster _ _ _ _ _

theorem calm_readTime (s : State) (k p : Nat) : Calm s (s.readTime k p).2 := calm_setTimes _ _ _ _

theorem calm_writeTime (s : State) (k p : Nat) : Calm s (s.writeTime k p).2 := calm_setTimes _ _ _ _

theorem calm_dieError (s : State) (d : Nat) (u : Bool) (unit i sp : Nat) (a j : Word) :
    Calm s (s.dieError d u unit i sp a j) := calm_die _ _ _ _ _ _
theorem calm_clusterError (s : State) (k : Nat) (u : Bool) (unit i sp : Nat) (a j : Word) :
    Calm s (s.clusterError k u unit i sp a j) := calm_cluster _ _ _ _ _

theorem calm_readTable (s : State) (k : Nat) : Calm s (readTable s k) := by
  unfold readTable
  split
  · exact (calm_l2Fill _ _ _ _ _ _).trans (calm_readTime _ _ _)
  · exact Calm.refl s

theorem calm_readTables (l : List Nat) : ∀ s : State, Calm s (l.foldl readTable s) := by
  induction l with
  | nil => exact Calm.refl
  | cons k l ih => intro s; exact (calm_readTable s k).trans (ih _)

theorem calm_noteWalk (s : State) (d sp va : Nat) : Calm s (noteWalk s d sp va) := by
  unfold noteWalk
  split
  · exact calm_dieError _ _ _ _ _ _ _ _
  · exact Calm.refl s

theorem calm_discardBad (s : State) (d c sp va : Nat) : Calm s (discardBad s d c sp va) := by
  unfold discardBad
  simp only
  split
  · exact Calm.refl s
  · exact (calm_die s d _ _ _ _).trans (calm_dieError _ _ _ _ _ _ _ _)

theorem calm_translate (s : State) (d c sp va : Nat) : Calm s (translate s d c sp va).2 := by
  have h := calm_discardBad s d c sp va
  unfold translate
  generalize discardBad s d c sp va = u at h ⊢
  have w := h.trans (calm_readTables (walkReads u d sp va) u)
  simp only
  split
  · exact h.trans (calm_die u d _ _ _ _)
  · split
    · exact h.trans (calm_die u d _ _ _ _)
    · split
      · exact w.trans (calm_die _ d _ _ _ _)
      · exact w.trans (calm_noteWalk _ _ _ _)
      · exact w

/-- Checking an access changes translation caches only (R151). -/
theorem calm_resolve (s : State) (ck sp : Nat) (a : Word) (n : Nat) (k : AccKind) :
    Calm s (resolve s ck sp a n k).2 := by
  unfold resolve
  split
  · exact Calm.refl s
  · split
    · exact Calm.refl s
    · simp only
      repeat' split
      all_goals exact Calm.refl s
    · rename_i va _
      have h := calm_translate s (ck / 4096) (ck % 4096 % 80) sp va
      split <;> rename_i hh <;> rw [hh] at h <;> exact h

theorem calm_resolveAll (k : AccKind) (l : List (Word × Nat)) : ∀ (s : State) (j : Nat),
    Calm s (resolveAll k s j l).2 := by
  induction l with
  | nil => intro s j; exact Calm.refl s
  | cons p l ih =>
    intro s j
    obtain ⟨a, n⟩ := p
    have h := calm_resolve s s.ck s.core.space a n k
    unfold resolveAll
    split
    · rename_i hh; rw [hh] at h; exact h
    · rename_i s1 hh
      rw [hh] at h
      have i := ih s1 (j + 1)
      split <;> rename_i h2 <;> rw [h2] at i <;> exact h.trans i

/-- With no quantum pending an access forces none (R180). -/
theorem settleRead_none {s : State} (h : s.pod.qnt = []) (k p : Nat) : settleRead s k p = s := by
  simp [settleRead, h, settleLine]

theorem settleWrite_none {s : State} (h : s.pod.qnt = []) (k p : Nat) : settleWrite s k p = s := by
  simp [settleWrite, h, settleLine]

/-- What putting bytes at a home leaves: the bytes in memory, error marks, and a change of caches (R153). -/
theorem commitDomain_eq (s : State) (ck dom k : Nat) (bs : List Byte) (leaf : Nat) :
    (commitDomain s ck dom k bs leaf).mem = writeFrom s.mem k bs ∧
    commitDomain s ck dom k bs leaf = { s with
      clusters := (commitDomain s ck dom k bs leaf).clusters, dies := (commitDomain s ck dom k bs leaf).dies,
      mem := (commitDomain s ck dom k bs leaf).mem, bad := (commitDomain s ck dom k bs leaf).bad } ∧
    Calm { s with mem := (commitDomain s ck dom k bs leaf).mem, bad := (commitDomain s ck dom k bs leaf).bad }
      (commitDomain s ck dom k bs leaf) := by
  unfold commitDomain
  simp only
  split
  · rename_i h
    have : bs = [] := by simpa using h
    subst this
    exact ⟨rfl, rfl, Calm.refl s⟩
  · split
    · have h1 := calm_l2Miss s (k / 128 * 128) dom (leafDedup leaf) (leafStream leaf)
        (bs.length == 128 && k % 128 == 0)
      have h2 := h1.trans (calm_l2Dirty _ (k / 128 * 128))
      generalize l2Dirty (l2Miss s (k / 128 * 128) dom (leafDedup leaf) (leafStream leaf)
        (bs.length == 128 && k % 128 == 0)) (k / 128 * 128) = u at h2 ⊢
      have put : ∀ v : State, Calm (u.writeBytes k bs) v →
          v.mem = writeFrom s.mem k bs ∧ v = { s with clusters := v.clusters, dies := v.dies, mem := v.mem } ∧
          Calm { s with mem := v.mem } v := by
        intro v hv
        refine ⟨?_, ?_, ?_, ?_, ?_⟩
        · rw [hv.mem]; show writeFrom u.mem k bs = _; rw [h2.mem]
        · rw [hv.eq, State.writeBytes, h2.eq]
        · rw [hv.eq, State.writeBytes, h2.eq]
        · exact fun j => by rw [hv.clusters j]; exact h2.clusters j ▸ rfl
        · exact fun j => by rw [hv.dies j]; exact h2.dies j ▸ rfl
      have fin : ∀ (v : State) (b : List Nat), Calm (u.writeBytes k bs) v →
          let c := v.putCluster ck ((v.clusterAt ck).l1Update k bs (v.lineTimes k))
          c.mem = writeFrom s.mem k bs ∧
          ({ c with bad := b } : State) = { s with clusters := c.clusters, dies := c.dies, mem := c.mem, bad := b } ∧
          Calm { s with mem := c.mem, bad := b } { c with bad := b } := by
        intro v b hv
        obtain ⟨p1, p2, p3⟩ := put _ (hv.trans (calm_cluster v ck
          ((v.clusterAt ck).l1Update k bs (v.lineTimes k)).l1 _ _))
        refine ⟨p1, ?_, ?_, p3.clusters, p3.dies⟩
        · exact congrArg (fun x : State => ({ x with bad := b } : State)) p2
        · exact congrArg (fun x : State => ({ x with bad := b } : State)) p2
      split
      · exact fin _ _ (calm_l2Whole (u.writeBytes k bs) (k / 128 * 128) dom (leafDedup leaf))
      · exact fin _ _ (Calm.refl _)
    · exact ⟨rfl, rfl, rfl, fun _ => rfl, fun _ => rfl⟩

/-- The same for a requester of a context (R383). -/
theorem commitBytes_eq (s : State) (ck sp k : Nat) (bs : List Byte) (leaf : Nat) :
    (commitBytes s ck sp k bs leaf).mem = writeFrom s.mem k bs ∧
    commitBytes s ck sp k bs leaf = { s with
      clusters := (commitBytes s ck sp k bs leaf).clusters, dies := (commitBytes s ck sp k bs leaf).dies,
      mem := (commitBytes s ck sp k bs leaf).mem, bad := (commitBytes s ck sp k bs leaf).bad } ∧
    Calm { s with mem := (commitBytes s ck sp k bs leaf).mem, bad := (commitBytes s ck sp k bs leaf).bad }
      (commitBytes s ck sp k bs leaf) :=
  commitDomain_eq s ck ((s.clusterAt ck).ctxAt sp).ddom k bs leaf

theorem commitBytes_mem (s : State) (ck sp k : Nat) (bs : List Byte) (leaf : Nat) :
    (commitBytes s ck sp k bs leaf).mem = writeFrom s.mem k bs := (commitBytes_eq s ck sp k bs leaf).1

theorem commitBytes_core (s : State) (ck sp k : Nat) (bs : List Byte) (leaf : Nat) :
    (commitBytes s ck sp k bs leaf).core = s.core := by rw [(commitBytes_eq s ck sp k bs leaf).2.1]

theorem commitBytes_cur (s : State) (ck sp k : Nat) (bs : List Byte) (leaf : Nat) :
    (commitBytes s ck sp k bs leaf).cur = s.cur := by rw [(commitBytes_eq s ck sp k bs leaf).2.1]

theorem commitBytes_pod (s : State) (ck sp k : Nat) (bs : List Byte) (leaf : Nat) :
    (commitBytes s ck sp k bs leaf).pod = s.pod := by rw [(commitBytes_eq s ck sp k bs leaf).2.1]

end Sys2Proof.Machine
end

