-- ==== Sys2Proof/Laws/Ops.lean ====
section
/-! SUPPORT. What the shared operations of a core do, said once: writing a register, going on, immediates, the end of a
gang, entering a handler. -/

namespace Sys2Proof.Machine

/-- An instruction that ends in `ret` wrote one register and nothing else. -/
theorem wrote_ret (s : State) (d : BitVec 5) (v : Word) : WroteGeneral s (s.ret d v) d v where
  value := by simp
  others := fun j hj => by rw [State.logical_ret, if_neg hj]
  pc := rfl
  marks := fun p => mem_mdel_iff
  fails := by
    show s.core.fails.map _ = _
    simp only [beq_iff_eq]
  bytes := fun j => rfl
  frame := rfl

theorem sext_toInt {n : Nat} (x : BitVec n) : sext x.toNat n = x.toInt := by
  simp only [sext, BitVec.toInt_eq_toNat_cond, Nat.mod_eq_of_lt x.isLt]

theorem wordOfInt_toInt {n : Nat} (x : BitVec n) : wordOfInt x.toInt = x.signExtend 64 := rfl

theorem sext_mod (x n : Nat) : sext x n = (BitVec.ofNat n x).toInt := by
  rw [← sext_toInt, BitVec.toNat_ofNat]; simp [sext]

theorem append_ofNat {n k : Nat} (a : Nat) (i : BitVec n) :
    (BitVec.ofNat (n + k) (a * 2 ^ n + i.toNat)).toInt = (BitVec.ofNat k a ++ i).toInt := by
  have h : (BitVec.ofNat (n + k) (a * 2 ^ n + i.toNat)).toNat = (BitVec.ofNat k a ++ i).toNat := by
    rw [BitVec.toNat_append, BitVec.toNat_ofNat, BitVec.toNat_ofNat, ← Nat.shiftLeft_add_eq_or_of_lt i.isLt,
      Nat.shiftLeft_eq, Nat.pow_add, Nat.mod_mul, Nat.mul_comm a, Nat.mul_add_mod, Nat.mod_eq_of_lt i.isLt,
      Nat.mul_add_div (Nat.two_pow_pos n), Nat.div_eq_of_lt i.isLt]
    simp [Nat.add_comm, Nat.mul_comm]
  rw [BitVec.toInt_eq_toNat_cond, BitVec.toInt_eq_toNat_cond, h, Nat.add_comm n k]

theorem imm_bits {n : Nat} (s : State) (i : BitVec n) (h : s.core.unit.wides ≤ 2) :
    wordOfInt (s.imm i.toNat n) = s.immBits i := by
  unfold State.imm State.immBits
  rw [sext_mod]
  obtain h0 | h1 | h2 : s.core.unit.wides = 0 ∨ s.core.unit.wides = 1 ∨ s.core.unit.wides = 2 := by omega
  · rw [h0]
    have : (BitVec.ofNat (n + 22 * 0) (s.core.unit.wide * 2 ^ n + i.toNat)) = i := by
      apply BitVec.eq_of_toNat_eq
      simp
    rw [this]; rfl
  · rw [h1, append_ofNat]; rfl
  · rw [h2, append_ofNat]; rfl

theorem wordOfInt_mul (a : Int) (n : Nat) : wordOfInt (a * n) = BitVec.ofNat 64 n * wordOfInt a := by
  simp [wordOfInt, BitVec.ofInt_mul, BitVec.mul_comm]

/-- The address of a load or store in words (R288). -/
theorem mul_imm (s : State) (o : BitVec 14) (n : Nat) (h : s.core.unit.wides ≤ 2) (b : BitVec 5) :
    s.addrFM b o n = s.fmAddress b o n := by
  unfold State.addrFM State.fmAddress
  rw [← imm_bits s o h, wordOfInt_mul]

/-- What ending a gang never touches of the leader. -/
structure SameCore (s t : State) : Prop where
  cur : t.cur = s.cur
  mem : t.mem = s.mem
  regs : t.core.regs = s.core.regs
  b : t.core.b = s.core.b
  f : t.core.f = s.core.f
  pc : t.core.pc = s.core.pc
  priv : t.core.priv = s.core.priv
  trap : t.core.trap = s.core.trap
  unit : t.core.unit = s.core.unit
  space : t.core.space = s.core.space
  running : t.core.running = s.core.running

theorem SameCore.refl (s : State) : SameCore s s := ⟨rfl, rfl, rfl, rfl, rfl, rfl, rfl, rfl, rfl, rfl, rfl⟩

theorem SameCore.trans {s t u : State} (h : SameCore s t) (k : SameCore t u) : SameCore s u :=
  ⟨k.cur.trans h.cur, k.mem.trans h.mem, k.regs.trans h.regs, k.b.trans h.b, k.f.trans h.f, k.pc.trans h.pc,
   k.priv.trans h.priv, k.trap.trans h.trap, k.unit.trans h.unit, k.space.trans h.space, k.running.trans h.running⟩

/-- A core that is put with the same registers is the same core. -/
theorem putCore_same (s : State) (k : Nat) (c : Core) (h : SameCore s { s with core := if k = s.cur then c else s.core }) :
    SameCore s (s.putCore k c) := by
  unfold State.putCore
  by_cases hk : k = s.cur
  · simpa [hk] using h
  · simp only [hk, if_false]
    exact ⟨rfl, rfl, rfl, rfl, rfl, rfl, rfl, rfl, rfl, rfl, rfl⟩

theorem dropFollower_same (ck : Nat) (s : State) (c : Nat) : SameCore s (dropFollower ck s c) := by
  unfold dropFollower listFree
  simp only
  refine SameCore.trans (t := (s.putCluster ck (releaseQueues (s.clusterAt ck) (s.coreAt (ck * 8 + c)))).putCore (ck * 8 + c)
    { s.coreAt (ck * 8 + c) with gang := {}, queues := [], vregs := [], vmarks := [], holds := [] }) ?_ ?_
  · refine SameCore.trans (t := s.putCluster ck (releaseQueues (s.clusterAt ck) (s.coreAt (ck * 8 + c)))) ?_ ?_
    · exact ⟨rfl, rfl, rfl, rfl, rfl, rfl, rfl, rfl, rfl, rfl, rfl⟩
    · apply putCore_same
      by_cases h : ck * 8 + c = s.cur
      · simp only [State.putCluster_cur, h, if_true, State.coreAt_cur]
        exact ⟨rfl, rfl, rfl, rfl, rfl, rfl, rfl, rfl, rfl, rfl, rfl⟩
      · simp only [State.putCluster_cur, h, if_false]
        exact SameCore.refl _
  · exact ⟨rfl, rfl, rfl, rfl, rfl, rfl, rfl, rfl, rfl, rfl, rfl⟩

theorem foldl_same {α : Type} (f : State → α → State) (hf : ∀ s a, SameCore s (f s a)) (l : List α) (s : State) :
    SameCore s (l.foldl f s) := by
  induction l generalizing s with
  | nil => exact SameCore.refl s
  | cons a l ih => exact (hf s a).trans (ih (f s a))

/-- Ending a gang keeps the leader's registers, mode, window, trap registers and memory (R51, R339). -/
theorem disband_same (s : State) : SameCore s (disband s s.cur) := by
  unfold disband
  simp only
  split
  · exact SameCore.refl s
  · have h1 := foldl_same (dropFollower (s.cur / 8)) (dropFollower_same (s.cur / 8)) (followersOf s s.cur) s
    generalize (followersOf s s.cur).foldl (dropFollower (s.cur / 8)) s = s1 at h1 ⊢
    have last : ∀ s2 : State, SameCore s s2 → SameCore s (s2.putCore s.cur
        { s2.coreAt s.cur with
          gang := { (s2.coreAt s.cur).gang with standing := false, code := 0, save := none, forming := 0 } }) := by
      intro s2 h2
      refine h2.trans (putCore_same _ _ _ ?_)
      rw [h2.cur.symm, if_pos rfl, State.coreAt_cur]
      exact ⟨rfl, rfl, rfl, rfl, rfl, rfl, rfl, rfl, rfl, rfl, rfl⟩
    cases (s.coreAt s.cur).gang.save with
    | none => exact last s1 h1
    | some o => exact last _ (h1.trans ⟨rfl, rfl, rfl, rfl, rfl, rfl, rfl, rfl, rfl, rfl, rfl⟩)

/-- What becomes of the gathers of a gang that a trap ends is nothing to the core itself (R51, R241). -/
theorem dropLanes_same (s : State) : SameCore s (dropLanes s) := by
  unfold dropLanes
  split <;> exact ⟨rfl, rfl, rfl, rfl, rfl, rfl, rfl, rfl, rfl, rfl, rfl⟩

theorem dropLanes_alone {s : State} (h : s.alone) : dropLanes s = s := by simp [dropLanes, h.1]

theorem disband_alone {s : State} (h : s.alone) : disband s s.cur = s := by
  obtain ⟨h1, h2, h3⟩ := h
  simp [disband, h1, h2, h3]

/-- A handler that can be entered is entered (R265). -/
theorem trap_took {s : State} (h : s.handlerReady) (cause : Nat) (v : Word) : TookTrap s (trap s cause v) cause v := by
  obtain ⟨h1, h2, h3⟩ := h
  have e : trap s cause v = enterHandler s cause v := by
    have h4 : ¬ (s.core.f + 128 < s.core.b + 40) := by omega
    simp only [trap, h1, Bool.not_true, Bool.false_eq_true, if_false, beq_eq_false_iff_ne.mpr h2, h4]
  have d : SameCore s (disband (dropLanes s) s.cur) := by
    have k := disband_same (dropLanes s)
    rw [(dropLanes_same s).cur] at k
    exact (dropLanes_same s).trans k
  rw [e]
  refine { status := ?_, saved := ?_, value := rfl, mode := rfl, window := ?_, pc := ?_, base := ?_, depth := ?_,
           registers := ?_, bytes := ?_, frame := ?_ }
  · show wordOfNat (cause + 256 * b2n (disband (dropLanes s) s.cur).core.priv) = _
    rw [d.priv]; cases s.core.priv <;> simp [wordOfNat, b2n]
  · show (disband (dropLanes s) s.cur).core.unit.base = _; rw [d.unit]
  · show (disband (dropLanes s) s.cur).core.b + 8 = _; rw [d.b]
  · show (disband (dropLanes s) s.cur).core.trap.base + _ = _; rw [d.trap]; rfl
  · show (disband (dropLanes s) s.cur).core.trap.base = _; rw [d.trap]
  · show (disband (dropLanes s) s.cur).core.trap.depth + 1 = _; rw [d.trap]
  · intro l; show mget _ (disband (dropLanes s) s.cur).core.regs _ = _; rw [d.regs]; rfl
  · intro j; show mget _ (disband (dropLanes s) s.cur).mem _ = _; rw [d.mem]; rfl
  · intro ha
    simp only [enterHandler, dropLanes_alone ha, disband_alone ha]

/-- A trap of a gang's member is taken like any other (R51). -/
theorem trapMember_took {s : State} (h : s.handlerReady) (m cause : Nat) (v : Word) :
    TookTrap s (trapMember s m cause v) cause v := by
  unfold trapMember
  split
  · rename_i hg
    have k := trap_took (s := { s with core := { s.core with gang := { s.core.gang with
        member := s.members.findIdx (· == s.ck * 8 + m), memberTrap := true } } }) h cause v
    exact { status := k.status, saved := k.saved, value := k.value, mode := k.mode, window := k.window, pc := k.pc,
            base := k.base, depth := k.depth, registers := k.registers, bytes := k.bytes,
            frame := fun ha => by rw [ha.1] at hg; cases hg }
  · exact trap_took h cause v

end Sys2Proof.Machine
end

