-- ==== Sys2Proof/Laws/Access.lean ====
section
/-! SUPPORT. What loads and stores do at their homes: the value a load brings, the bytes a store leaves, and that neither
touches a register (R165, R166, R415). -/

namespace Sys2Proof.Machine

theorem Touched.mem {s t : State} (h : Touched s t) : t.mem = s.mem := by rw [h.frame]
theorem Touched.regs {s t : State} (h : Touched s t) : t.core.regs = s.core.regs := by rw [h.frame]
theorem Touched.b {s t : State} (h : Touched s t) : t.core.b = s.core.b := by rw [h.frame]
theorem Touched.unit {s t : State} (h : Touched s t) : t.core.unit = s.core.unit := by rw [h.frame]

theorem Calm.touched {s t : State} (h : Calm s t) : Touched s t := by
  refine ⟨?_, ?_⟩
  · rw [h.eq]
  · refine ⟨?_, h.clusters, h.dies⟩
    rw [h.eq]

/-- A change of the current core's logical time and of the answers it has received. -/
theorem touched_core (s : State) (p : Nat) (a : List Nat) (n : Nat) :
    Touched s { s with core := { s.core with pts := p, answers := a, asked := n } } :=
  ⟨rfl, rfl, fun _ => rfl, fun _ => rfl⟩

theorem touched_setPts (s : State) (t : Nat) : Touched s (s.setPts t) := touched_core s t _ _

theorem Touched.refl (s : State) : Touched s s := (Calm.refl s).touched

theorem Touched.trans {s t u : State} (h : Touched s t) (k : Touched t u) : Touched s u := by
  refine ⟨?_, ?_, ?_, ?_⟩
  · rw [k.frame, h.frame]
  · rw [k.frame, h.frame]
  · exact fun j => by rw [k.calm.clusters j]; exact h.calm.clusters j ▸ rfl
  · exact fun j => by rw [k.calm.dies j]; exact h.calm.dies j ▸ rfl

theorem calm_fillL1 (s : State) (va k leaf : Nat) : Calm s (fillL1 s va k leaf) := by
  unfold fillL1; simp only; split
  · exact calm_cluster s s.ck _ _ _
  · exact Calm.refl s

theorem calm_loadFirst {s : State} (h : s.pod.qnt = []) (k leaf : Nat) : Calm s (loadFirst s k leaf) := by
  unfold loadFirst
  have c : Calm s (if k < 2 ^ 40 then
      l2Fill s (k / 128 * 128) s.ctx.ddom (leafDedup leaf) (leafStream leaf) false else s) := by
    split
    · exact calm_l2Fill _ _ _ _ _ _
    · exact Calm.refl s
  rw [settleRead_none (by rw [c.pod]; exact h)]
  exact c

theorem touched_loadHome {s : State} (h : s.pod.qnt = []) (va k n leaf : Nat) :
    Touched s (loadHome s va k n leaf).2 :=
  (calm_loadFirst h k leaf).touched.trans ((calm_readTime _ k s.core.pts).touched.trans
    ((touched_setPts _ _).trans (calm_fillL1 _ va k leaf).touched))

theorem loadMem_spec (s : State) (va k n leaf : Nat) (h : s.pod.qnt = []) :
    (loadMem s va k n leaf).1 = s.loadValue va k n leaf ∧ Touched s (loadMem s va k n leaf).2 := by
  unfold loadMem State.loadValue
  cases s.l1Hit va k leaf with
  | some x => exact ⟨rfl, touched_setPts _ _⟩
  | none =>
    have hh := touched_loadHome h va k n leaf
    refine ⟨?_, hh⟩
    show (loadHome s va k n leaf).2.readN k n = s.readN k n
    simp only [State.readN, hh.mem]

theorem loadPart_spec (s : State) (p : Part) (an : List Nat) (k : Nat) (hk : p.target.key? = some k)
    (hq : s.pod.qnt = []) (hs : s.soundFor p.addr.toNat k p.n p.leaf) :
    ∃ v s1, loadPart s p an = (v, none, an, s1) ∧ v = (match p.target with
      | .landing _ _ => s.readN k p.n
      | _ => s.loadValue p.addr.toNat k p.n p.leaf) ∧ Touched s s1 := by
  unfold loadPart
  obtain ⟨hm, hb⟩ := hs
  obtain ⟨addr, tgt, leaf, n⟩ := p
  cases tgt <;> simp only [Target.key?, Option.some.injEq, reduceCtorEq] at hk
  case hbm pa =>
    subst hk
    obtain ⟨e, hd⟩ := loadMem_spec s addr.toNat pa n leaf hq
    refine ⟨_, _, ?_, e, hd⟩
    simp only [Target.key?, hm, hb, Bool.false_eq_true, if_false]
  case array ck off =>
    subst hk
    obtain ⟨e, hd⟩ := loadMem_spec s addr.toNat (arrayKey ck off) n leaf hq
    refine ⟨_, _, ?_, e, hd⟩
    simp only [Target.key?, hm, hb, Bool.false_eq_true, if_false]
  case landing p a =>
    subst hk
    exact ⟨_, _, rfl, rfl, touched_setPts _ _⟩

theorem held_resolve {s s1 : State} {ck sp : Nat} {a : Word} {n : Nat} {k : AccKind} {r : AccR}
    (h : resolve s ck sp a n k = (r, s1)) : Calm s s1 := by
  have := calm_resolve s ck sp a n k
  rwa [h] at this

theorem calm_storeFirst_settle {s : State} (h : s.pod.qnt = []) (k n leaf : Nat) :
    ∃ s1, Calm s s1 ∧ storeFirst s k n leaf = s1.noteCode k n := by
  unfold storeFirst
  have c : Calm s (if k < 2 ^ 40 then
      l2Fill s (k / 128 * 128) (s.ctx.ddom) (leafDedup leaf) (leafStream leaf) (n == 128 && k % 128 == 0) else s) := by
    split
    · exact calm_l2Fill _ _ _ _ _ _
    · exact Calm.refl s
  refine ⟨_, c, ?_⟩
  simp only
  rw [settleWrite_none (by rw [c.pod]; exact h)]

theorem Stored.refl (s : State) : Stored s s := ⟨rfl, fun _ _ => rfl, Calm.refl s⟩

theorem Stored.trans {s t u : State} (h : Stored s t) (k : Stored t u) : Stored s u := by
  have hc : t.cur = s.cur := by rw [h.frame]
  refine ⟨?_, ?_, ?_, ?_, ?_⟩
  · rw [k.frame, h.frame]
  · exact fun j hj => by rw [k.cores j (hc ▸ hj), h.cores j hj]
  · rw [k.frame, h.frame]
  · exact fun j => by rw [k.calm.clusters j]; exact h.calm.clusters j ▸ rfl
  · exact fun j => by rw [k.calm.dies j]; exact h.calm.dies j ▸ rfl

theorem Touched.stored {s t : State} (h : Touched s t) (a : t.core.answers = s.core.answers)
    (b : t.core.asked = s.core.asked) : Stored s t := by
  refine ⟨?_, ?_, ?_, h.calm.clusters, h.calm.dies⟩
  · rw [h.frame, a, b]
  · intro j hj
    rw [h.frame]
    simp only [State.coreAt, hj, if_false]
  · rw [h.frame]

theorem stored_setPts (s : State) (t : Nat) : Stored s (s.setPts t) := (touched_setPts s t).stored rfl rfl

theorem mget_noteCode (m : Memory) (k n : Nat) (cs : SMap Core) (j : Nat) :
    mget (fun _ => ({} : Core)) (cs.map fun x => (x.1, x.2.noteCode m k n)) j = { mget (fun _ => ({} : Core)) cs j with
      oldCode := (mget (fun _ => ({} : Core)) (cs.map fun x => (x.1, x.2.noteCode m k n)) j).oldCode } := by
  induction cs with
  | nil => rfl
  | cons x cs ih =>
    simp only [List.map_cons, mget]
    split
    · rfl
    · exact ih

/-- Noting the words that are about to be overwritten changes them alone (R284). -/
theorem stored_noteCode (s : State) (k n : Nat) : Stored s (s.noteCode k n) := by
  refine ⟨rfl, fun j hj => ?_, rfl, fun _ => rfl, fun _ => rfl⟩
  have e : (s.noteCode k n).coreAt j = mget (fun _ => ({} : Core)) (s.cores.map fun x => (x.1, x.2.noteCode s.mem k n)) j :=
    if_neg hj
  have e0 : s.coreAt j = mget (fun _ => ({} : Core)) s.cores j := if_neg hj
  rw [e, e0]
  exact mget_noteCode s.mem k n s.cores j

/-- Bytes put at a home (R153). -/
theorem stored_commitDomain (s : State) (ck dom k : Nat) (bs : List Byte) (leaf : Nat) :
    Stored s (commitDomain s ck dom k bs leaf) := by
  obtain ⟨_, e, c⟩ := commitDomain_eq s ck dom k bs leaf
  refine ⟨?_, fun j hj => ?_, ?_, c.clusters, c.dies⟩
  · rw [e]
  · rw [e]; rfl
  · rw [e]

/-- A store at a home leaves its bytes there, and no register changes (R415). -/
theorem storeMem_spec {s : State} (h : s.pod.qnt = []) (k : Nat) (bs : List Byte) (leaf : Nat) :
    (storeMem s k bs leaf).mem = writeFrom s.mem k bs ∧ Stored s (storeMem s k bs leaf) := by
  obtain ⟨s1, c, e⟩ := calm_storeFirst_settle h k bs.length leaf
  unfold storeMem
  rw [e]
  simp only
  have w := calm_writeTime (s1.noteCode k bs.length) k (s1.noteCode k bs.length).core.pts
  have st : Stored s (s1.noteCode k bs.length) := (c.touched.stored (by rw [c.core]) (by rw [c.core])).trans (stored_noteCode _ _ _)
  have st2 := st.trans (w.touched.stored (by rw [w.core]) (by rw [w.core]))
  refine ⟨?_, st2.trans ((stored_setPts _ _).trans (stored_commitDomain _ _ _ _ _ _))⟩
  rw [commitBytes_mem]
  show writeFrom (State.writeTime _ _ _).2.mem k bs = _
  rw [w.mem]; show writeFrom s1.mem k bs = _; rw [c.mem]

theorem writeFrom_append (m : Memory) (k : Nat) (xs ys : List Byte) :
    writeFrom m k (xs ++ ys) = writeFrom (writeFrom m k xs) (k + xs.length) ys := by
  induction xs generalizing m k with
  | nil => rfl
  | cons x xs ih =>
    simp only [List.cons_append, writeFrom, ih, List.length_cons]
    rw [show k + 1 + xs.length = k + (xs.length + 1) from by omega]

/-- One write of at most a line at its home (R157, R164, R165). -/
theorem writeLine_spec (w : Writer) (leaf : Nat) (s : State) (k : Nat) (bs : List Byte) :
    (writeLine w leaf s k bs).mem = writeFrom s.mem k bs ∧ Stored s (writeLine w leaf s k bs) := by
  unfold writeLine
  simp only
  have c : Calm s (if k < 2 ^ 40 then
      l2Fill s (k / 128 * 128) (w.domain s) (leafDedup leaf) (leafStream leaf) (bs.length == 128) else s) := by
    split
    · exact calm_l2Fill _ _ _ _ _ _
    · exact Calm.refl s
  generalize (if k < 2 ^ 40 then
      l2Fill s (k / 128 * 128) (w.domain s) (leafDedup leaf) (leafStream leaf) (bs.length == 128) else s) = s1 at c ⊢
  have c1 := c.trans (calm_setTimes s1 (k / 128 * 128) w.time w.time)
  generalize s1.setTimes (k / 128 * 128) w.time w.time = s2 at c1 ⊢
  refine ⟨?_, ((c1.touched.stored (by rw [c1.core]) (by rw [c1.core])).trans (stored_noteCode s2 k bs.length)).trans
    (stored_commitDomain _ _ _ _ _ _)⟩
  rw [(commitDomain_eq _ _ _ _ _ _).1]
  show writeFrom s2.mem k bs = _
  rw [c1.mem]

/-- A write of bytes at a home leaves them there (R153). -/
theorem writeLines_spec (w : Writer) (leaf fuel : Nat) (s : State) (k : Nat) (bs : List Byte)
    (h : k % 128 + bs.length ≤ 128 * fuel) :
    (writeLines w leaf fuel s k bs).mem = writeFrom s.mem k bs ∧ Stored s (writeLines w leaf fuel s k bs) := by
  induction fuel generalizing s k bs with
  | zero =>
    have : bs = [] := List.eq_nil_of_length_eq_zero (by omega)
    subst this
    exact ⟨rfl, Stored.refl s⟩
  | succ fuel ih =>
    unfold writeLines
    cases bs with
    | nil => exact ⟨rfl, Stored.refl s⟩
    | cons b bs =>
      obtain ⟨m1, t1⟩ := writeLine_spec w leaf s k ((b :: bs).take (128 - k % 128))
      obtain ⟨m2, t2⟩ := ih (writeLine w leaf s k ((b :: bs).take (128 - k % 128))) (k + (128 - k % 128))
        ((b :: bs).drop (128 - k % 128)) (by
          rw [List.length_drop]
          have : (k + (128 - k % 128)) % 128 = 0 := by omega
          omega)
      refine ⟨?_, t1.trans t2⟩
      refine m2.trans ?_
      rw [m1]
      by_cases hl : 128 - k % 128 ≤ (b :: bs).length
      · have e := writeFrom_append s.mem k ((b :: bs).take (128 - k % 128)) ((b :: bs).drop (128 - k % 128))
        rw [List.take_append_drop, List.length_take, Nat.min_eq_left hl] at e
        exact e.symm
      · rw [List.drop_eq_nil_of_le (by omega), List.take_of_length_le (by omega)]; rfl

theorem eachLine_id (f : State → Nat → State) (hf : ∀ s k, s.pod.qnt = [] → f s k = s) (segs : List Seg) (s : State)
    (h : s.pod.qnt = []) : eachLine f s segs = s := by
  unfold eachLine
  induction segs with
  | nil => rfl
  | cons g gs ih =>
    rw [List.foldl_cons]
    cases g with
    | host p a n => exact ih
    | remote p a n => exact ih
    | mem k n leaf =>
      have e : ∀ l : List Nat, l.foldl (fun s i => f s ((k / 128 + i) * 128)) s = s := by
        intro l
        induction l with
        | nil => rfl
        | cons i l il => rw [List.foldl_cons, hf _ _ h]; exact il
      simp only [e, ite_self]
      exact ih

/-- With no quantum pending the time of a write is had at once. -/
theorem writePass_none {s : State} (h : s.pod.qnt = []) (segs : List Seg) (t : Nat) :
    writePass s segs t = (max t (leaseOf s segs + 1), s) := by
  unfold writePass
  rw [h]
  unfold writePassFuel
  simp only
  have e : ∀ p, settleSegs s segs p = s := fun p =>
    eachLine_id (fun s k => settleWrite s k p) (fun s k hq => settleWrite_none hq k p) segs s h
  rw [e, if_pos (by omega)]

/-- The current core writes a stretch of its own array (R161, R165). -/
theorem corePut_spec {s : State} (h : s.pod.qnt = []) (k : Nat) (bs : List Byte) :
    (corePut s k bs).mem = writeFrom s.mem k bs ∧ Stored s (corePut s k bs) := by
  have e : corePut s k bs = writeLines
      { ck := s.ck, space := s.core.space, time := max (s.core.pts + 1) (leaseOf s [.mem k bs.length 0] + 1) } 0
      (bs.length / 128 + 2) (s.setPts (max (s.core.pts + 1) (leaseOf s [.mem k bs.length 0] + 1))) k bs := by
    unfold corePut agentPut
    simp only [writePass_none h]
    simp only [writeSegs, Seg.len, List.take_length, State.putPts, State.putCore, if_true, State.agentPts,
      State.coreAt_cur]
    rfl
  obtain ⟨m, t⟩ := writeLines_spec
    { ck := s.ck, space := s.core.space, time := max (s.core.pts + 1) (leaseOf s [.mem k bs.length 0] + 1) } 0
    (bs.length / 128 + 2) (s.setPts (max (s.core.pts + 1) (leaseOf s [.mem k bs.length 0] + 1))) k bs (by omega)
  rw [e]
  exact ⟨m, (stored_setPts s _).trans t⟩

/-- What an access waits for does not change with its checks (R163, R168). -/
theorem Calm.ordered {s t : State} (c : Calm s t) (h : s.ordered) : t.ordered := by
  intro u ps
  have e : orderWaits t u ps = orderWaits s u ps := by
    simp only [orderWaits, c.pod, c.core, State.ck, c.cur]
  rw [e]; exact h u ps

theorem withParts_one (s : State) (k : AccKind) (a : Word) (n : Nat) (body : List Part → State → State) {s1 tgt leaf}
    (h : resolve s s.ck s.core.space a n k = (.ok tgt leaf, s1)) (o : s.ordered) :
    withParts s k [(a, n)] body = body [⟨a, tgt, leaf, n⟩] s1 := by
  have c := calm_resolve s s.ck s.core.space a n k
  rw [h] at c
  simp only [withParts, resolveAll, h, c.ordered o 0, Bool.and_false, Bool.false_eq_true, if_false]

theorem withParts_trap (s : State) (k : AccKind) (a : Word) (n : Nat) (body : List Part → State → State) {s1 c v}
    (h : resolve s s.ck s.core.space a n k = (.trap c v, s1)) :
    withParts s k [(a, n)] body = trapMember s1 (memberNo s 0) c v := by
  simp only [withParts, resolveAll, h]

theorem Calm.ready {s t : State} (c : Calm s t) (h : s.handlerReady) : t.handlerReady := by
  unfold State.handlerReady at *; rwa [c.core]

end Sys2Proof.Machine
end

