-- ==== Sys2Proof/Laws/Early.lean ====
section
/-! SUPPORT. The conditions before every other (R267), instruction by instruction: what `early` says of each, so that no
proof unfolds the tables of Accept.lean and Early.lean. -/

namespace Sys2Proof.Machine

theorem early_bfx (r0 : BitVec 5) (r1 : BitVec 5) (r2 : BitVec 5) (r3 : BitVec 1) (s : State) :
    early (.bfx r0 r1 r2 r3) s = (if badField (s.x r2) then some (1, s.x r2) else none) := rfl

theorem early_bfi (r0 : BitVec 5) (r1 : BitVec 5) (r2 : BitVec 5) (s : State) :
    early (.bfi r0 r1 r2) s = (if badField (s.x r2) then some (1, s.x r2) else none) := rfl

theorem early_cmp (r0 : BitVec 5) (r1 : BitVec 5) (r2 : BitVec 5) (r3 : BitVec 5) (r4 : BitVec 6) (s : State) :
    early (.cmp r0 r1 r2 r3 r4) s = (
      if (r3.toNat < 10 : Bool) then none
      else some (1, s.wordVal)) := rfl

theorem early_call (r0 : BitVec 2) (r1 : BitVec 24) (s : State) :
    early (.call r0 r1) s = (
      if (r0 != 0 : Bool) then none
      else some (1, s.wordVal)) := rfl

theorem early_ret (r0 : BitVec 5) (s : State) :
    early (.ret r0) s = (
      let k := (s.x r0).toNat % 4
      if k == 0 || s.core.b < 8 * k then some (1, s.wordVal) else none) := rfl

theorem early_haltR (r0 : BitVec 5) (r1 : BitVec 5) (s : State) :
    early (.haltR r0 r1) s = (
      let e := s.x r0
      if e == 0 || e.toNat % 32 != 0 || 2 ^ 40 ≤ e.toNat then some (1, e) else none) := rfl

theorem early_spawn (r0 : BitVec 5) (r1 : BitVec 5) (r2 : BitVec 16) (s : State) :
    early (.spawn r0 r1 r2) s = (
      if (r1.toNat ≤ 28 : Bool) then (if (spawnEntry s r2).toNat % 32 != 0 then some (1, spawnEntry s r2) else none)
      else some (1, s.wordVal)) := rfl

theorem early_touch (r0 : BitVec 5) (r1 : BitVec 5) (r2 : BitVec 5) (s : State) :
    early (.touch r0 r1 r2) s = (
      if (r2.toNat ≤ 2 : Bool) then (futureOnly (s.x r1))
      else some (1, s.wordVal)) := rfl

theorem early_resolve (r0 : BitVec 5) (r1 : BitVec 5) (r2 : BitVec 5) (r3 : BitVec 1) (s : State) :
    early (.resolve r0 r1 r2 r3) s = (futureOnly (s.x r1)) := rfl

theorem early_poison (r0 : BitVec 5) (r1 : BitVec 5) (r2 : BitVec 5) (r3 : BitVec 1) (s : State) :
    early (.poison r0 r1 r2 r3) s = (futureOnly (s.x r1)) := rfl

theorem early_cancel (r0 : BitVec 5) (r1 : BitVec 5) (s : State) :
    early (.cancel r0 r1) s = (
      let h := s.x r1
      if badForm h || hKind h == 3 then some (1, h)
      else if hKind h == 2 && hSub h == 4 then privWord s
      else if jobsFuture s h then privWord s
      else none) := rfl

theorem early_depdec (r0 : BitVec 5) (r1 : BitVec 5) (s : State) :
    early (.depdec r0 r1) s = (futureOnly (s.x r1)) := rfl

theorem early_bind (r0 : BitVec 5) (r1 : BitVec 5) (r2 : BitVec 5) (r3 : BitVec 4) (s : State) :
    early (.bind r0 r1 r2 r3) s = (
      if 8192 ≤ (s.x r2).toNat then some (1, s.x r2)
      else if (s.x r1).toNat % 32 != 0 || 2 ^ 40 ≤ (s.x r1).toNat then some (1, s.x r1)
      else none) := rfl

theorem early_hold (r0 : BitVec 5) (r1 : BitVec 5) (s : State) :
    early (.hold r0 r1) s = (
      if (isVec r0 : Bool) then (if 65536 ≤ (s.x r1).toNat then some (1, s.x r1) else none)
      else some (1, s.wordVal)) := rfl

theorem early_fspill (r0 : BitVec 5) (r1 : BitVec 5) (s : State) :
    early (.fspill r0 r1) s = (futureOnly (s.x r1)) := rfl

theorem early_ffill (r0 : BitVec 5) (r1 : BitVec 5) (s : State) :
    early (.ffill r0 r1) s = (futureOnly (s.x r1)) := rfl

theorem early_ldm (r0 : BitVec 5) (r1 : BitVec 5) (r2 : BitVec 14) (s : State) :
    early (.ldm r0 r1 r2) s = (
      if (isMom r0 : Bool) then none
      else some (1, s.wordVal)) := rfl

theorem early_stm (r0 : BitVec 5) (r1 : BitVec 5) (r2 : BitVec 14) (s : State) :
    early (.stm r0 r1 r2) s = (
      if (isMom r0 : Bool) then none
      else some (1, s.wordVal)) := rfl

theorem early_gath (r0 : BitVec 5) (r1 : BitVec 5) (r2 : BitVec 5) (r3 : BitVec 5) (s : State) :
    early (.gath r0 r1 r2 r3) s = (
      if (moveType r3 : Bool) then none
      else some (1, s.wordVal)) := rfl

theorem early_scat (r0 : BitVec 5) (r1 : BitVec 5) (r2 : BitVec 5) (r3 : BitVec 5) (s : State) :
    early (.scat r0 r1 r2 r3) s = (
      if (moveType r3 : Bool) then none
      else some (1, s.wordVal)) := rfl

theorem early_amo (r0 : BitVec 5) (r1 : BitVec 5) (r2 : BitVec 2) (r3 : BitVec 3) (r4 : BitVec 1) (r5 : BitVec 4) (s : State) :
    early (.amo r0 r1 r2 r3 r4 r5) s = (
      if (amoAccepted r3 r2 r4 r5 : Bool) then none
      else some (1, s.wordVal)) := rfl

theorem early_cas (r0 : BitVec 5) (r1 : BitVec 5) (r2 : BitVec 3) (r3 : BitVec 1) (s : State) :
    early (.cas r0 r1 r2 r3) s = (
      if (r0 != 31 && (r2 == 0 || r2 == 1 || r2 == 3 || r2 == 5) : Bool) then none
      else some (1, s.wordVal)) := rfl

theorem early_adv (r0 : BitVec 5) (r1 : BitVec 1) (r2 : BitVec 4) (s : State) :
    early (.adv r0 r1 r2) s = (
      if (24 ≤ r0.toNat : Bool) then none
      else some (1, s.wordVal)) := rfl

theorem early_cpy (r0 : BitVec 5) (r1 : BitVec 5) (r2 : BitVec 5) (s : State) :
    early (.cpy r0 r1 r2) s = (if 16777216 < (s.x r0).toNat then some (1, s.x r0) else none) := rfl

theorem early_cpyQ (r0 : BitVec 5) (r1 : BitVec 5) (r2 : BitVec 3) (s : State) :
    early (.cpyQ r0 r1 r2) s = (if 16777216 < (s.x r0).toNat then some (1, s.x r0) else none) := rfl

theorem early_amsg (r0 : BitVec 5) (r1 : BitVec 5) (r2 : BitVec 5) (s : State) :
    early (.amsg r0 r1 r2) s = (amsgIllegal s r1 r2 false) := rfl

theorem early_amsgP (r0 : BitVec 5) (r1 : BitVec 5) (r2 : BitVec 5) (s : State) :
    early (.amsgP r0 r1 r2) s = (amsgIllegal s r1 r2 true) := rfl

theorem early_rstv (r0 : BitVec 5) (r1 : BitVec 5) (r2 : BitVec 5) (r3 : BitVec 5) (s : State) :
    early (.rstv r0 r1 r2 r3) s = (
      if (isVec r2 && isVec r3 : Bool) then (if badForm (s.x r1) || hKind (s.x r1) != 3 then some (1, s.x r1) else none)
      else some (1, s.wordVal)) := rfl

theorem early_rstvLaneRange (r0 : BitVec 5) (r1 : BitVec 5) (r2 : BitVec 5) (r3 : BitVec 5) (r4 : BitVec 5) (s : State) :
    early (.rstvLaneRange r0 r1 r2 r3 r4) s = (
      if (isVec r3 && isVec r4 : Bool) then (let r := (s.x r2).toNat
      if bit r 7 || 32768 ≤ r || fld r 8 7 == 0 || 16 < fld r 8 7 then some (1, s.x r2)
      else if badForm (s.x r1) || hKind (s.x r1) != 3 then some (1, s.x r1)
      else none)
      else some (1, s.wordVal)) := rfl

theorem early_vadd (r0 : BitVec 5) (r1 : BitVec 5) (r2 : BitVec 5) (r3 : BitVec 5) (s : State) :
    early (.vadd r0 r1 r2 r3) s = (
      if (arithType r3 : Bool) then none
      else some (1, s.wordVal)) := rfl

theorem early_vsub (r0 : BitVec 5) (r1 : BitVec 5) (r2 : BitVec 5) (r3 : BitVec 5) (s : State) :
    early (.vsub r0 r1 r2 r3) s = (
      if (arithType r3 : Bool) then none
      else some (1, s.wordVal)) := rfl

theorem early_vmul (r0 : BitVec 5) (r1 : BitVec 5) (r2 : BitVec 5) (r3 : BitVec 5) (s : State) :
    early (.vmul r0 r1 r2 r3) s = (
      if (arithType r3 : Bool) then none
      else some (1, s.wordVal)) := rfl

theorem early_vfma (r0 : BitVec 5) (r1 : BitVec 5) (r2 : BitVec 5) (r3 : BitVec 5) (s : State) :
    early (.vfma r0 r1 r2 r3) s = (
      if (arithType r3 && isVec r0 : Bool) then none
      else some (1, s.wordVal)) := rfl

theorem early_vmin (r0 : BitVec 5) (r1 : BitVec 5) (r2 : BitVec 5) (r3 : BitVec 5) (s : State) :
    early (.vmin r0 r1 r2 r3) s = (
      if (arithType r3 : Bool) then none
      else some (1, s.wordVal)) := rfl

theorem early_vmax (r0 : BitVec 5) (r1 : BitVec 5) (r2 : BitVec 5) (r3 : BitVec 5) (s : State) :
    early (.vmax r0 r1 r2 r3) s = (
      if (arithType r3 : Bool) then none
      else some (1, s.wordVal)) := rfl

theorem early_vabs (r0 : BitVec 5) (r1 : BitVec 5) (r2 : BitVec 5) (s : State) :
    early (.vabs r0 r1 r2) s = (
      if (arithType r2 : Bool) then none
      else some (1, s.wordVal)) := rfl

theorem early_vsel (r0 : BitVec 5) (r1 : BitVec 5) (r2 : BitVec 5) (r3 : BitVec 5) (s : State) :
    early (.vsel r0 r1 r2 r3) s = (
      if (r3.toNat ≤ 12 && isVec r0 : Bool) then none
      else some (1, s.wordVal)) := rfl

theorem early_vmov (r0 : BitVec 5) (r1 : BitVec 5) (r2 : BitVec 5) (s : State) :
    early (.vmov r0 r1 r2) s = (
      if (r2.toNat ≤ 13 : Bool) then none
      else some (1, s.wordVal)) := rfl

theorem early_vbit (r0 : BitVec 5) (r1 : BitVec 5) (r2 : BitVec 5) (r3 : BitVec 5) (s : State) :
    early (.vbit r0 r1 r2 r3) s = (
      if (r3.toNat ≤ 13 && isVec r0 : Bool) then none
      else some (1, s.wordVal)) := rfl

theorem early_vperm (r0 : BitVec 5) (r1 : BitVec 5) (r2 : BitVec 5) (r3 : BitVec 5) (s : State) :
    early (.vperm r0 r1 r2 r3) s = (
      if (r3.toNat ≤ 12 : Bool) then none
      else some (1, s.wordVal)) := rfl

theorem early_vtrn (r0 : BitVec 5) (r1 : BitVec 5) (r2 : BitVec 5) (s : State) :
    early (.vtrn r0 r1 r2) s = (
      if (r2.toNat ≤ 12 && r0.toNat ≤ 16 && r1.toNat ≤ 16 : Bool) then none
      else some (1, s.wordVal)) := rfl

theorem early_vbcast (r0 : BitVec 5) (r1 : BitVec 5) (r2 : BitVec 5) (s : State) :
    early (.vbcast r0 r1 r2) s = (
      if (r2.toNat ≤ 12 : Bool) then none
      else some (1, s.wordVal)) := rfl

theorem early_vidx (r0 : BitVec 5) (r1 : BitVec 5) (r2 : BitVec 5) (s : State) :
    early (.vidx r0 r1 r2) s = (
      if (r2.toNat ≤ 7 : Bool) then none
      else some (1, s.wordVal)) := rfl

theorem early_vred (r0 : BitVec 5) (r1 : BitVec 5) (r2 : BitVec 5) (s : State) :
    early (.vred r0 r1 r2) s = (
      if (arithType r2 : Bool) then none
      else some (1, s.wordVal)) := rfl

theorem early_vdot (r0 : BitVec 5) (r1 : BitVec 5) (r2 : BitVec 5) (r3 : BitVec 5) (s : State) :
    early (.vdot r0 r1 r2 r3) s = (
      if ((r3.toNat ≤ 1 || (9 ≤ r3.toNat && r3.toNat ≤ 12)) && isVec r0 : Bool) then none
      else some (1, s.wordVal)) := rfl

theorem early_vcvt (r0 : BitVec 5) (r1 : BitVec 5) (r2 : BitVec 5) (r3 : BitVec 5) (s : State) :
    early (.vcvt r0 r1 r2 r3) s = (
      if (r2.toNat ≤ 13 && r3.toNat ≤ 13 : Bool) then none
      else some (1, s.wordVal)) := rfl

theorem early_vcmp (r0 : BitVec 5) (r1 : BitVec 5) (r2 : BitVec 5) (r3 : BitVec 1) (r4 : BitVec 4) (r5 : BitVec 1) (r6 : BitVec 1) (r7 : BitVec 4) (s : State) :
    early (.vcmp r0 r1 r2 r3 r4 r5 r6 r7) s = (
      if (r4.toNat < 10 && r7.toNat ≤ 10 && !(6 ≤ r4.toNat && 8 ≤ r7.toNat) : Bool) then none
      else some (1, s.wordVal)) := rfl

theorem early_vrcp (r0 : BitVec 5) (r1 : BitVec 5) (r2 : BitVec 5) (s : State) :
    early (.vrcp r0 r1 r2) s = (
      if (8 ≤ r2.toNat && r2.toNat ≤ 10 : Bool) then none
      else some (1, s.wordVal)) := rfl

theorem early_vrsq (r0 : BitVec 5) (r1 : BitVec 5) (r2 : BitVec 5) (s : State) :
    early (.vrsq r0 r1 r2) s = (
      if (8 ≤ r2.toNat && r2.toNat ≤ 10 : Bool) then none
      else some (1, s.wordVal)) := rfl

theorem early_vexp2 (r0 : BitVec 5) (r1 : BitVec 5) (r2 : BitVec 5) (s : State) :
    early (.vexp2 r0 r1 r2) s = (
      if (8 ≤ r2.toNat && r2.toNat ≤ 10 : Bool) then none
      else some (1, s.wordVal)) := rfl

theorem early_vlog2 (r0 : BitVec 5) (r1 : BitVec 5) (r2 : BitVec 5) (s : State) :
    early (.vlog2 r0 r1 r2) s = (
      if (8 ≤ r2.toNat && r2.toNat ≤ 10 : Bool) then none
      else some (1, s.wordVal)) := rfl

theorem early_vsin (r0 : BitVec 5) (r1 : BitVec 5) (r2 : BitVec 5) (s : State) :
    early (.vsin r0 r1 r2) s = (
      if (8 ≤ r2.toNat && r2.toNat ≤ 10 : Bool) then none
      else some (1, s.wordVal)) := rfl

theorem early_vtanh (r0 : BitVec 5) (r1 : BitVec 5) (r2 : BitVec 5) (s : State) :
    early (.vtanh r0 r1 r2) s = (
      if (8 ≤ r2.toNat && r2.toNat ≤ 10 : Bool) then none
      else some (1, s.wordVal)) := rfl

theorem early_madd (r0 : BitVec 5) (r1 : BitVec 5) (r2 : BitVec 5) (r3 : BitVec 1) (s : State) :
    early (.madd r0 r1 r2 r3) s = (
      if (isMom r0 && isMom r1 && isMom r2 : Bool) then none
      else some (1, s.wordVal)) := rfl

theorem early_msub (r0 : BitVec 5) (r1 : BitVec 5) (r2 : BitVec 5) (r3 : BitVec 1) (s : State) :
    early (.msub r0 r1 r2 r3) s = (
      if (isMom r0 && isMom r1 && isMom r2 : Bool) then none
      else some (1, s.wordVal)) := rfl

theorem early_mmul (r0 : BitVec 5) (r1 : BitVec 5) (r2 : BitVec 5) (r3 : BitVec 1) (s : State) :
    early (.mmul r0 r1 r2 r3) s = (
      if (isMom r0 && isMom r1 && isMom r2 : Bool) then none
      else some (1, s.wordVal)) := rfl

theorem early_mfma (r0 : BitVec 5) (r1 : BitVec 5) (r2 : BitVec 5) (r3 : BitVec 1) (s : State) :
    early (.mfma r0 r1 r2 r3) s = (
      if (isMom r0 && isMom r1 && isMom r2 : Bool) then none
      else some (1, s.wordVal)) := rfl

theorem early_mscl (r0 : BitVec 5) (r1 : BitVec 5) (r2 : BitVec 5) (r3 : BitVec 1) (s : State) :
    early (.mscl r0 r1 r2 r3) s = (
      if (isMom r0 && isMom r1 : Bool) then none
      else some (1, s.wordVal)) := rfl

theorem early_msq (r0 : BitVec 5) (r1 : BitVec 5) (r2 : BitVec 1) (s : State) :
    early (.msq r0 r1 r2) s = (
      if (isMom r0 && isMom r1 : Bool) then none
      else some (1, s.wordVal)) := rfl

theorem early_mrelu (r0 : BitVec 5) (r1 : BitVec 5) (r2 : BitVec 1) (s : State) :
    early (.mrelu r0 r1 r2) s = (
      if (isMom r0 && isMom r1 : Bool) then none
      else some (1, s.wordVal)) := rfl

theorem early_mexp (r0 : BitVec 5) (r1 : BitVec 5) (r2 : BitVec 1) (s : State) :
    early (.mexp r0 r1 r2) s = (
      if (isMom r0 && isMom r1 : Bool) then none
      else some (1, s.wordVal)) := rfl

theorem early_msigm (r0 : BitVec 5) (r1 : BitVec 5) (r2 : BitVec 1) (s : State) :
    early (.msigm r0 r1 r2) s = (
      if (isMom r0 && isMom r1 : Bool) then none
      else some (1, s.wordVal)) := rfl

theorem early_mset (r0 : BitVec 5) (r1 : BitVec 5) (r2 : BitVec 5) (r3 : BitVec 1) (s : State) :
    early (.mset r0 r1 r2 r3) s = (
      if (isMom r0 : Bool) then none
      else some (1, s.wordVal)) := rfl

theorem early_mcoll (r0 : BitVec 5) (r1 : BitVec 5) (r2 : BitVec 2) (r3 : BitVec 3) (r4 : BitVec 1) (s : State) :
    early (.mcoll r0 r1 r2 r3 r4) s = (
      if (isMom r1 && (2 ≤ r2.toNat || r3 == 0) : Bool) then none
      else some (1, s.wordVal)) := rfl

theorem early_lmbind (r0 : BitVec 5) (r1 : BitVec 5) (r2 : BitVec 5) (r3 : BitVec 1) (r4 : BitVec 5) (s : State) :
    early (.lmbind r0 r1 r2 r3 r4) s = (
      if (r4 == 9 || (11 ≤ r4.toNat && r4.toNat ≤ 14) : Bool) then none
      else some (1, s.wordVal)) := rfl

theorem early_lmbindUnbind (r0 : BitVec 5) (r1 : BitVec 5) (r2 : BitVec 5) (r3 : BitVec 1) (r4 : BitVec 5) (s : State) :
    early (.lmbindUnbind r0 r1 r2 r3 r4) s = (if r3 == 1 then privWord s else none) := rfl

theorem early_lmrun (r0 : BitVec 5) (r1 : BitVec 5) (r2 : BitVec 5) (r3 : BitVec 5) (s : State) :
    early (.lmrun r0 r1 r2 r3) s = (
      if (r3 == 9 || (11 ≤ r3.toNat && r3.toNat ≤ 13) : Bool) then none
      else some (1, s.wordVal)) := rfl

theorem early_lmdrn (r0 : BitVec 5) (r1 : BitVec 5) (r2 : BitVec 5) (r3 : BitVec 1) (r4 : BitVec 5) (s : State) :
    early (.lmdrn r0 r1 r2 r3 r4) s = (
      if (8 ≤ r4.toNat && r4.toNat ≤ 12 : Bool) then (if bit (s.x r2).toNat 27 then privWord s else none)
      else some (1, s.wordVal)) := rfl

theorem early_lmdrnV (r0 : BitVec 5) (r1 : BitVec 5) (r2 : BitVec 5) (r3 : BitVec 1) (s : State) :
    early (.lmdrnV r0 r1 r2 r3) s = (if bit (s.x r2).toNat 27 then privWord s else none) := rfl

theorem early_lmwt (r0 : BitVec 5) (r1 : BitVec 5) (r2 : BitVec 5) (r3 : BitVec 5) (s : State) :
    early (.lmwt r0 r1 r2 r3) s = (if bit (s.x r2).toNat 27 then privWord s else none) := rfl

theorem early_lmfrzOn (r0 : BitVec 5) (r1 : BitVec 5) (r2 : BitVec 5) (r3 : BitVec 5) (s : State) :
    early (.lmfrzOn r0 r1 r2 r3) s = (privWord s) := rfl

theorem early_lmfrzOff (r0 : BitVec 5) (r1 : BitVec 5) (r2 : BitVec 5) (r3 : BitVec 5) (s : State) :
    early (.lmfrzOff r0 r1 r2 r3) s = (privWord s) := rfl

theorem early_ckacc (r0 : BitVec 5) (r1 : BitVec 5) (s : State) :
    early (.ckacc r0 r1) s = (
      if (isVec r0 && isVec r1 : Bool) then none
      else some (1, s.wordVal)) := rfl

theorem early_cktst (r0 : BitVec 5) (r1 : BitVec 5) (r2 : BitVec 5) (s : State) :
    early (.cktst r0 r1 r2) s = (
      if (isVec r0 && isVec r1 : Bool) then none
      else some (1, s.wordVal)) := rfl

theorem early_mfs (r0 : BitVec 5) (r1 : BitVec 10) (s : State) :
    early (.mfs r0 r1) s = (
      if (sysNumber r1.toNat : Bool) then (if !s.core.priv && !userReads r1.toNat then some (2, wordOfNat r1.toNat) else none)
      else some (1, s.wordVal)) := rfl

theorem early_mts (r0 : BitVec 5) (r1 : BitVec 10) (s : State) :
    early (.mts r0 r1) s = (
      if (sysNumber r1.toNat : Bool) then (mtsEarly s r1.toNat (s.x r0))
      else some (1, s.wordVal)) := rfl

theorem early_eret (s : State) :
    early .eret s = (eretEarly s) := rfl

theorem early_xinv (r0 : BitVec 5) (r1 : BitVec 5) (r2 : BitVec 5) (s : State) :
    early (.xinv r0 r1 r2) s = (
      if (r2.toNat ≤ 2 && (r2 != 0 || r0 == 0) && (r2 == 2 || r1 == 0) : Bool) then (if r2 != 0 && 65536 ≤ (s.x r0).toNat then some (1, s.x r0)
      else if r2 == 2 && 2 ^ 56 ≤ (s.x r1).toNat then some (1, s.x r1)
      else privWord s)
      else some (1, s.wordVal)) := rfl

theorem early_unassignedInstructionWord (r0 : IWord) (s : State) :
    early (.unassignedInstructionWord r0) s = (some (1, wordOfNat r0.toNat)) := rfl

end Sys2Proof.Machine
end

