-- ==== Sys2Proof/Laws/Lanes.lean ====
section
/-! SUPPORT. Lanes of vector registers, operands over the members of a gang, and what writing a vector destination leaves
(R50, R123, R124, R421). -/

namespace Sys2Proof.Machine

theorem fld_lt (x lo n : Nat) : fld x lo n < 2 ^ n := Nat.mod_lt _ (Nat.two_pow_pos n)

/-- The number that lanes of w bits make. -/
theorem foldLanes_lt (w : Nat) (ls : List Nat) :
    ls.foldr (fun x n => x % 2 ^ w + n * 2 ^ w) 0 < 2 ^ (w * ls.length) := by
  induction ls with
  | nil => simp
  | cons x ls ih =>
    simp only [List.foldr_cons, List.length_cons, Nat.mul_add, Nat.mul_one, Nat.pow_add]
    have h1 := Nat.mod_lt x (Nat.two_pow_pos w)
    calc x % 2 ^ w + List.foldr (fun x n => x % 2 ^ w + n * 2 ^ w) 0 ls * 2 ^ w
        < 2 ^ w + List.foldr (fun x n => x % 2 ^ w + n * 2 ^ w) 0 ls * 2 ^ w := by omega
      _ = (List.foldr (fun x n => x % 2 ^ w + n * 2 ^ w) 0 ls + 1) * 2 ^ w := by rw [Nat.add_mul]; omega
      _ ≤ 2 ^ (w * ls.length) * 2 ^ w := Nat.mul_le_mul_right _ ih

theorem fld_foldLanes (w : Nat) (ls : List Nat) (l : Nat) (h : l < ls.length) :
    fld (ls.foldr (fun x n => x % 2 ^ w + n * 2 ^ w) 0) (w * l) w = ls[l] % 2 ^ w := by
  induction ls generalizing l with
  | nil => simp at h
  | cons x ls ih =>
    have h1 := Nat.mod_lt x (Nat.two_pow_pos w)
    cases l with
    | zero => simp [fld, Nat.add_mul_mod_self_right]
    | succ l =>
      have e : (x % 2 ^ w + List.foldr (fun x n => x % 2 ^ w + n * 2 ^ w) 0 ls * 2 ^ w) / 2 ^ w =
          List.foldr (fun x n => x % 2 ^ w + n * 2 ^ w) 0 ls := by
        rw [Nat.add_mul_div_right _ _ (Nat.two_pow_pos w), Nat.div_eq_of_lt h1, Nat.zero_add]
      have := ih l (by simpa using h)
      simp only [fld, Nat.shiftRight_eq_div_pow, List.foldr_cons, List.getElem_cons_succ] at this ⊢
      rw [Nat.mul_add, Nat.mul_one, Nat.add_comm (w * l) w, Nat.pow_add, ← Nat.div_div_eq_div_mul, e, this]

theorem laneOf_ofLanes (w : Nat) (ls : List Nat) (hl : w * ls.length ≤ 512) (l : Nat) (h : l < ls.length) :
    laneOf (ofLanes w ls) w l = ls[l] % 2 ^ w := by
  have b := foldLanes_lt w ls
  have : 2 ^ (w * ls.length) ≤ 2 ^ 512 := Nat.pow_le_pow_right (by omega) hl
  unfold laneOf ofLanes
  rw [BitVec.toNat_ofNat, Nat.mod_eq_of_lt (by omega), fld_foldLanes w ls l h]

/-- Lane l of a register made lane by lane. -/
theorem laneOf_fromLanes (w : Nat) (f : Nat → Nat) (l : Nat) (h : l < 512 / w) :
    laneOf (fromLanes w f) w l = f l % 2 ^ w := by
  unfold fromLanes
  rw [laneOf_ofLanes w _ (by simpa using Nat.mul_div_le 512 w) l (by simpa using h)]
  simp

theorem readMembers_length (s : State) (spec off : Nat) (ks : List Nat) (vs : List Vec)
    (h : s.readMembers spec off ks = .inl vs) : vs.length = ks.length := by
  induction ks generalizing vs with
  | nil => simp only [State.readMembers, Sum.inl.injEq] at h; subst h; rfl
  | cons k ks ih =>
    simp only [State.readMembers] at h
    split at h
    · cases h
    · split at h
      · cases h
      · rename_i hh
        cases h
        simp [ih _ hh]

theorem readV_length {s : State} {r : BitVec 5} {vs : List Vec} (h : s.readV r = .inl vs) :
    vs.length = s.members.length := readMembers_length s _ _ _ _ h

theorem operand_eq {s : State} {r : BitVec 5} {vs : List Vec} (h : s.readV r = .inl vs) (j : Nat) :
    s.operand r j = vs.getD j 0 := by simp [State.operand, h]

/-- The cores of a block are distinct (R49). -/
theorem members_nodup (s : State) : s.members.Nodup := by
  unfold State.members
  split
  · unfold blockOf
    rw [List.map_map]
    rw [List.Nodup, List.pairwise_map]
    refine List.Pairwise.imp_of_mem (R := (· < ·)) ?_ List.pairwise_lt_range
    · intro x y hx hy hxy e
      simp only [List.mem_range] at hx hy
      simp only [Function.comp_apply, Nat.add_left_cancel_iff] at e
      have h1 := Nat.mod_lt (s.cur % 8) (Nat.lt_of_le_of_lt (Nat.zero_le x) hx)
      generalize s.cur % 8 % gangSize s.core.gang.code = c at *
      generalize gangSize s.core.gang.code = n at *
      by_cases a : c + x < n <;> by_cases b : c + y < n
      · rw [Nat.mod_eq_of_lt a, Nat.mod_eq_of_lt b] at e; omega
      · rw [Nat.mod_eq_of_lt a, Nat.mod_eq_sub_mod (by omega), Nat.mod_eq_of_lt (by omega)] at e; omega
      · rw [Nat.mod_eq_of_lt b, Nat.mod_eq_sub_mod (by omega), Nat.mod_eq_of_lt (by omega)] at e; omega
      · rw [Nat.mod_eq_sub_mod (by omega), Nat.mod_eq_of_lt (by omega), Nat.mod_eq_sub_mod (a := c + y) (by omega), Nat.mod_eq_of_lt (by omega)] at e; omega
  · simp

/-- Writing one register of each of some cores. -/
theorem writeMembers_reg (spec off : Nat) (hs : spec < 24) (ks : List Nat) (vs : List Vec) (s : State)
    (hl : vs.length = ks.length) (hn : ks.Nodup) :
    let t := writeMembers spec off s ks vs
    (∀ j, j < ks.length → t.coreAt (ks.getD j 0) = (s.coreAt (ks.getD j 0)).setV spec (vs.getD j 0)) ∧
    (∀ k, k ∉ ks → t.coreAt k = s.coreAt k) ∧ t = { s with core := t.core, cores := t.cores } := by
  induction ks generalizing vs s with
  | nil => cases vs <;> exact ⟨fun _ h => absurd h (by simp), fun _ _ => rfl, rfl⟩
  | cons k ks ih =>
    cases vs with
    | nil => simp at hl
    | cons v vs =>
      have hw : s.writeSpec k spec off v = s.putCore k ((s.coreAt k).setV spec v) := by
        simp only [State.writeSpec, hs, if_true]
      have hp : s.putCore k ((s.coreAt k).setV spec v) = { s with
          core := (s.putCore k ((s.coreAt k).setV spec v)).core
          cores := (s.putCore k ((s.coreAt k).setV spec v)).cores } := by
        unfold State.putCore; split <;> rfl
      obtain ⟨i1, i2, i3⟩ := ih vs (s.writeSpec k spec off v) (by simpa using hl) (List.nodup_cons.mp hn).2
      simp only [writeMembers]
      generalize writeMembers spec off (s.writeSpec k spec off v) ks vs = t at *
      rw [hw] at i1 i2 i3
      have hk : k ∉ ks := (List.nodup_cons.mp hn).1
      refine ⟨?_, ?_, ?_⟩
      · intro j hj
        cases j with
        | zero =>
          show t.coreAt k = _
          rw [i2 k hk, State.coreAt_putCore_self]; rfl
        | succ j =>
          have hj' : j < ks.length := by simpa using hj
          have := i1 j hj'
          rw [State.coreAt_putCore, if_neg] at this
          · exact this
          · intro h
            rw [List.getD_eq_getElem?_getD, List.getElem?_eq_getElem hj', Option.getD_some] at h
            exact hk (h ▸ List.getElem_mem hj')
      · intro j hj
        rw [i2 j (fun h => hj (by simp [h])), State.coreAt_putCore, if_neg (fun h => hj (by simp [h]))]
      · rw [i3, hp]

theorem adv_coreAt (s : State) (k : Nat) : (s.adv).coreAt k = if k = s.cur then s.adv.core else s.coreAt k := by
  unfold State.coreAt; simp only [State.adv_cur, State.adv_cores]; by_cases h : k = s.cur <;> simp [h]

/-- Writing registers of the members (R50, R123). -/
theorem retV_lanes {s : State} {spec : BitVec 5} {vs : List Vec} (hs : spec.toNat < 24)
    (hl : vs.length = s.members.length) : WroteLanes s (s.retV spec vs) spec.toNat vs := by
  have e : s.retV spec vs = (writeMembers spec.toNat s.qoff s s.members vs).adv := by
    simp [State.retV, State.writeUnder, reserveMembers, hs]
  obtain ⟨i1, i2, i3⟩ := writeMembers_reg spec.toNat s.qoff hs s.members vs s hl (members_nodup s)
  rw [e]
  generalize writeMembers spec.toNat s.qoff s s.members vs = t at *
  have hcur : t.cur = s.cur := by rw [i3]
  have all : ∀ k, t.coreAt k = s.coreAt k ∨ ∃ v, t.coreAt k = (s.coreAt k).setV spec.toNat v := by
    intro k
    by_cases hk : k ∈ s.members
    · obtain ⟨j, hj, rfl⟩ := List.getElem_of_mem hk
      have := i1 j hj
      rw [List.getD_eq_getElem?_getD, List.getElem?_eq_getElem hj, Option.getD_some] at this
      exact .inr ⟨_, this⟩
    · exact .inl (i2 k hk)
  have hcore : t.core = { s.core with vregs := t.core.vregs, vmarks := t.core.vmarks } := by
    have h := all s.cur
    rw [State.coreAt_cur, ← hcur, State.coreAt_cur] at h
    rcases h with h | ⟨v, h⟩ <;> rw [h] <;> rfl
  have hc : ∀ k, (t.adv.coreAt k).vregs = (t.coreAt k).vregs ∧ (t.adv.coreAt k).vmarks = (t.coreAt k).vmarks := by
    intro k; rw [adv_coreAt]; split
    · rename_i hk; subst hk; rw [State.coreAt_cur]; exact ⟨rfl, rfl⟩
    · exact ⟨rfl, rfl⟩
  refine { value := ?_, sound := ?_, others := ?_, marks := ?_, outside := ?_, pc := ?_, frame := ?_, cores := ?_ }
  · intro j hj
    unfold Core.v; rw [(hc _).1, i1 j hj]
    exact (Core.v_setV _ _ _ _).trans (if_pos rfl)
  · intro k hk p hp
    rw [(hc k).2] at hp
    obtain ⟨j, hj, rfl⟩ := List.getElem_of_mem hk
    have := i1 j hj
    rw [List.getD_eq_getElem?_getD, List.getElem?_eq_getElem hj, Option.getD_some] at this
    rw [this] at hp
    exact (mem_mdel_iff.1 hp).2
  · intro k m hm
    unfold Core.v; rw [(hc _).1]
    rcases all k with h | ⟨v, h⟩ <;> rw [h]
    exact (Core.v_setV _ _ _ _).trans (if_neg hm)
  · intro k p hp
    rw [(hc k).2]
    rcases all k with h | ⟨v, h⟩ <;> rw [h]
    exact mem_mdel_iff.trans (and_iff_left hp)
  · intro k hk hk2
    rw [adv_coreAt, if_neg (hcur ▸ hk2), i2 k hk]
  · show t.core.unit.here + 4 = _; rw [hcore]
  · unfold State.adv
    rw [i3]
    simp only
    rw [hcore]
  · intro k hk
    rw [adv_coreAt, if_neg (hcur ▸ hk)]
    rcases all k with h | ⟨v, h⟩ <;> rw [h] <;> rfl

/-- Writing the unpublished slot of a queue on a core that stands alone (R124). -/
theorem retV_slot {s : State} {spec : BitVec 5} {vs : List Vec} (h : s.canWrite spec) (hs : 24 ≤ spec.toNat)
    (hl : vs.length = s.members.length) : WroteSlot s (s.retV spec vs) (spec.toNat - 24) (vs.getD 0 0) := by
  have hs' : ¬ spec.toNat < 24 := by omega
  obtain ⟨hg, hr, hn, hq0⟩ := h.resolve_left hs'
  have hm : s.members = [s.cur] := by simp [State.members, hg]
  obtain ⟨r, hr⟩ := Option.isSome_iff_exists.mp hr
  obtain ⟨v, rfl⟩ : ∃ v, vs = [v] := by
    rw [hm] at hl
    rcases vs with _ | ⟨v, _ | ⟨_, _⟩⟩
    · simp at hl
    · exact ⟨v, rfl⟩
    · simp at hl
  obtain ⟨q, hq⟩ : ∃ q, spec.toNat - 24 = q := ⟨_, rfl⟩
  rw [hq] at hn hr ⊢
  obtain ⟨i, hi⟩ : ∃ i, i = ((s.core.q q).head + (s.core.q q).n + s.qoff) % 16 := ⟨_, rfl⟩
  have hkey : slotKey s.ck r ((s.core.q q).head + (s.core.q q).n + s.qoff) = slotKey s.ck r i := by
    simp only [slotKey, hi, Nat.mod_mod]
  obtain ⟨pm, pt⟩ := corePut_spec hq0 (slotKey s.ck r i) (leBytes 64 v.toNat)
  obtain ⟨u, hu⟩ : ∃ u, u = corePut s (slotKey s.ck r i) (leBytes 64 v.toNat) := ⟨_, rfl⟩
  rw [← hu] at pm pt
  have hcur : u.cur = s.cur := by rw [pt.frame]
  have hn' : ¬ 16 ≤ (s.core.q q).n + s.qoff := by omega
  have e1 : s.writeUnder spec.toNat s.qoff s.members = none := by
    simp only [State.writeUnder, if_neg hs', hm, hq, State.coreAt_cur, List.find?, hn', decide_false, Option.map_none]
  have e2 : reserveMembers s spec.toNat s.members = some s := by
    simp only [reserveMembers, if_neg hs', hm, hq, List.foldl, Option.bind_some, reserveQueue, State.coreAt_cur, hr]
  have e3 : s.writeSpec s.cur spec.toNat s.qoff v =
      { u with core := u.core.setQ q { s.core.q q with marks := mdel (s.core.q q).marks i } } := by
    unfold State.writeSpec
    simp only
    rw [if_neg hs', hq, State.coreAt_cur]
    split
    · rename_i h; rw [hr] at h; cases h
    · rename_i r' h
      rw [hr] at h
      cases h
      rw [← hi]
      rw [show s.cur / 8 = s.ck from rfl, ← hu]
      unfold State.putCore
      rw [hcur, if_pos rfl, ← hcur, State.coreAt_cur]
  have e : s.retV spec [v] =
      State.adv { u with core := u.core.setQ q { s.core.q q with marks := mdel (s.core.q q).marks i } } := by
    unfold State.retV
    rw [e1]
    simp only [e2]
    rw [hm]
    simp only [writeMembers, e3]
  rw [e]
  have hqs : ∀ j, u.core.q j = s.core.q j := by intro j; rw [pt.frame]; rfl
  have hq' : ∀ j, (State.adv { u with core := u.core.setQ q { s.core.q q with marks := mdel (s.core.q q).marks i } }).core.q j =
      if j = q then { s.core.q q with marks := mdel (s.core.q q).marks i } else s.core.q j := by
    intro j
    refine (Core.q_setQ u.core q j _).trans ?_
    rw [hqs]
  refine { value := ?_, bytes := ?_, others := ?_, queue := ?_, pc := ?_, frame := ?_ }
  · have h1 : ((State.adv { u with core := u.core.setQ q { s.core.q q with marks := mdel (s.core.q q).marks i } }).coreAt s.cur).q q =
        { s.core.q q with marks := mdel (s.core.q q).marks i } := by
      rw [adv_coreAt, if_pos hcur.symm]; exact (hq' q).trans (if_pos rfl)
    rw [State.slot, h1]
    simp only [hr]
    rw [show s.cur / 8 = s.ck from rfl, hkey]
    have h2 := readN_writeN s (slotKey s.ck r i) 64 v.toNat
    have h3 : ∀ t : State, t.mem = u.mem → t.readN (slotKey s.ck r i) 64 = v.toNat % 256 ^ 64 := by
      intro t ht
      rw [← h2]
      simp only [State.readN, ht, pm, State.writeN]
    rw [h3]
    case a => rfl
    apply BitVec.eq_of_toNat_eq
    have := v.isLt
    rw [BitVec.toNat_ofNat, show (256 : Nat) ^ 64 = 2 ^ 512 from by rw [show (256 : Nat) = 2 ^ 8 from rfl, ← Nat.pow_mul],
      Nat.mod_mod, Nat.mod_eq_of_lt this]
    rfl
  · intro r' hr' j hj
    rw [hr] at hr'; cases hr'
    rw [hkey] at hj
    show mget _ u.mem j = _
    rw [pm]
    exact mget_writeFrom_out _ _ _ (by simpa using hj)
  · intro j hj
    rw [hq', if_neg hj]
  · rw [hq', if_pos rfl, hi]
  · show u.core.unit.here + 4 = _; rw [pt.frame]
  · have st : Stored { s with core := { s.core with
        queues := (u.core.setQ q { s.core.q q with marks := mdel (s.core.q q).marks i }).queues
        pc := u.core.unit.here + 4 } }
        (State.adv { u with core := u.core.setQ q { s.core.q q with marks := mdel (s.core.q q).marks i } }) := by
      refine ⟨?_, ?_, ?_, pt.calm.clusters, pt.calm.dies⟩
      · unfold State.adv
        simp only [Core.setQ]
        rw [pt.frame]
      · intro k hk
        rw [adv_coreAt, if_neg (hcur ▸ hk)]
        have := pt.cores k hk
        unfold State.coreAt at this ⊢
        simp only [hcur, hk, if_false] at this ⊢
        exact this
      · unfold State.adv
        simp only [Core.setQ]
        rw [pt.frame]
    exact st

/-- Writing a vector destination that can be written (R50, R124). -/
theorem retV_wrote {s : State} {spec : BitVec 5} {vs : List Vec} (h : s.canWrite spec)
    (hl : vs.length = s.members.length) : WroteVector s (s.retV spec vs) spec vs :=
  ⟨fun hs => retV_lanes hs hl, fun hs => retV_slot h hs hl⟩

end Sys2Proof.Machine
end

