-- ==== Sys2Proof/Laws/PerInstr.lean ====
section
/-! SUPPORT. Statements about every instruction, one lemma per constructor. -/

namespace Sys2Proof.Laws.Fits

/-- A row of the table has an encoding exactly where it is said to, and an encoding is one 32-bit word (R284, R287). -/
def Statement (i : Instr) : Prop :=
  (encodeNat i).isSome = hasWord i ∧ ∀ n, encodeNat i = some n → n < 2 ^ 32

theorem add (x0 : BitVec 5) (x1 : BitVec 5) (x2 : BitVec 5) : Statement (.add x0 x1 x2) := by
  refine ⟨rfl, fun n h => ?_⟩
  have hx0 := x0.isLt
  have hx1 := x1.isLt
  have hx2 := x2.isLt
  have h := Option.some.inj h
  omega

theorem sub (x0 : BitVec 5) (x1 : BitVec 5) (x2 : BitVec 5) : Statement (.sub x0 x1 x2) := by
  refine ⟨rfl, fun n h => ?_⟩
  have hx0 := x0.isLt
  have hx1 := x1.isLt
  have hx2 := x2.isLt
  have h := Option.some.inj h
  omega

theorem mul (x0 : BitVec 5) (x1 : BitVec 5) (x2 : BitVec 5) : Statement (.mul x0 x1 x2) := by
  refine ⟨rfl, fun n h => ?_⟩
  have hx0 := x0.isLt
  have hx1 := x1.isLt
  have hx2 := x2.isLt
  have h := Option.some.inj h
  omega

theorem mulh (x0 : BitVec 5) (x1 : BitVec 5) (x2 : BitVec 5) : Statement (.mulh x0 x1 x2) := by
  refine ⟨rfl, fun n h => ?_⟩
  have hx0 := x0.isLt
  have hx1 := x1.isLt
  have hx2 := x2.isLt
  have h := Option.some.inj h
  omega

theorem div (x0 : BitVec 5) (x1 : BitVec 5) (x2 : BitVec 5) : Statement (.div x0 x1 x2) := by
  refine ⟨rfl, fun n h => ?_⟩
  have hx0 := x0.isLt
  have hx1 := x1.isLt
  have hx2 := x2.isLt
  have h := Option.some.inj h
  omega

theorem rem (x0 : BitVec 5) (x1 : BitVec 5) (x2 : BitVec 5) : Statement (.rem x0 x1 x2) := by
  refine ⟨rfl, fun n h => ?_⟩
  have hx0 := x0.isLt
  have hx1 := x1.isLt
  have hx2 := x2.isLt
  have h := Option.some.inj h
  omega

theorem and (x0 : BitVec 5) (x1 : BitVec 5) (x2 : BitVec 5) : Statement (.and x0 x1 x2) := by
  refine ⟨rfl, fun n h => ?_⟩
  have hx0 := x0.isLt
  have hx1 := x1.isLt
  have hx2 := x2.isLt
  have h := Option.some.inj h
  omega

theorem or (x0 : BitVec 5) (x1 : BitVec 5) (x2 : BitVec 5) : Statement (.or x0 x1 x2) := by
  refine ⟨rfl, fun n h => ?_⟩
  have hx0 := x0.isLt
  have hx1 := x1.isLt
  have hx2 := x2.isLt
  have h := Option.some.inj h
  omega

theorem xor (x0 : BitVec 5) (x1 : BitVec 5) (x2 : BitVec 5) : Statement (.xor x0 x1 x2) := by
  refine ⟨rfl, fun n h => ?_⟩
  have hx0 := x0.isLt
  have hx1 := x1.isLt
  have hx2 := x2.isLt
  have h := Option.some.inj h
  omega

theorem shl (x0 : BitVec 5) (x1 : BitVec 5) (x2 : BitVec 5) : Statement (.shl x0 x1 x2) := by
  refine ⟨rfl, fun n h => ?_⟩
  have hx0 := x0.isLt
  have hx1 := x1.isLt
  have hx2 := x2.isLt
  have h := Option.some.inj h
  omega

theorem shr (x0 : BitVec 5) (x1 : BitVec 5) (x2 : BitVec 5) : Statement (.shr x0 x1 x2) := by
  refine ⟨rfl, fun n h => ?_⟩
  have hx0 := x0.isLt
  have hx1 := x1.isLt
  have hx2 := x2.isLt
  have h := Option.some.inj h
  omega

theorem sha (x0 : BitVec 5) (x1 : BitVec 5) (x2 : BitVec 5) : Statement (.sha x0 x1 x2) := by
  refine ⟨rfl, fun n h => ?_⟩
  have hx0 := x0.isLt
  have hx1 := x1.isLt
  have hx2 := x2.isLt
  have h := Option.some.inj h
  omega

theorem min (x0 : BitVec 5) (x1 : BitVec 5) (x2 : BitVec 5) : Statement (.min x0 x1 x2) := by
  refine ⟨rfl, fun n h => ?_⟩
  have hx0 := x0.isLt
  have hx1 := x1.isLt
  have hx2 := x2.isLt
  have h := Option.some.inj h
  omega

theorem max (x0 : BitVec 5) (x1 : BitVec 5) (x2 : BitVec 5) : Statement (.max x0 x1 x2) := by
  refine ⟨rfl, fun n h => ?_⟩
  have hx0 := x0.isLt
  have hx1 := x1.isLt
  have hx2 := x2.isLt
  have h := Option.some.inj h
  omega

theorem sel (x0 : BitVec 5) (x1 : BitVec 5) (x2 : BitVec 5) (x3 : BitVec 5) : Statement (.sel x0 x1 x2 x3) := by
  refine ⟨rfl, fun n h => ?_⟩
  have hx0 := x0.isLt
  have hx1 := x1.isLt
  have hx2 := x2.isLt
  have hx3 := x3.isLt
  have h := Option.some.inj h
  omega

theorem mov (x0 : BitVec 5) (x1 : BitVec 5) : Statement (.mov x0 x1) := by
  refine ⟨rfl, fun n h => ?_⟩
  have hx0 := x0.isLt
  have hx1 := x1.isLt
  have h := Option.some.inj h
  omega

theorem clz (x0 : BitVec 5) (x1 : BitVec 5) : Statement (.clz x0 x1) := by
  refine ⟨rfl, fun n h => ?_⟩
  have hx0 := x0.isLt
  have hx1 := x1.isLt
  have h := Option.some.inj h
  omega

theorem popc (x0 : BitVec 5) (x1 : BitVec 5) : Statement (.popc x0 x1) := by
  refine ⟨rfl, fun n h => ?_⟩
  have hx0 := x0.isLt
  have hx1 := x1.isLt
  have h := Option.some.inj h
  omega

theorem bfx (x0 : BitVec 5) (x1 : BitVec 5) (x2 : BitVec 5) (x3 : BitVec 1) : Statement (.bfx x0 x1 x2 x3) := by
  refine ⟨rfl, fun n h => ?_⟩
  have hx0 := x0.isLt
  have hx1 := x1.isLt
  have hx2 := x2.isLt
  have hx3 := x3.isLt
  have h := Option.some.inj h
  omega

theorem bfi (x0 : BitVec 5) (x1 : BitVec 5) (x2 : BitVec 5) : Statement (.bfi x0 x1 x2) := by
  refine ⟨rfl, fun n h => ?_⟩
  have hx0 := x0.isLt
  have hx1 := x1.isLt
  have hx2 := x2.isLt
  have h := Option.some.inj h
  omega

theorem lea (x0 : BitVec 5) (x1 : BitVec 5) (x2 : BitVec 5) (x3 : BitVec 5) : Statement (.lea x0 x1 x2 x3) := by
  refine ⟨rfl, fun n h => ?_⟩
  have hx0 := x0.isLt
  have hx1 := x1.isLt
  have hx2 := x2.isLt
  have hx3 := x3.isLt
  have h := Option.some.inj h
  omega

theorem cmp (x0 : BitVec 5) (x1 : BitVec 5) (x2 : BitVec 5) (x3 : BitVec 5) (x4 : BitVec 6) : Statement (.cmp x0 x1 x2 x3 x4) := by
  refine ⟨rfl, fun n h => ?_⟩
  have hx0 := x0.isLt
  have hx1 := x1.isLt
  have hx2 := x2.isLt
  have hx3 := x3.isLt
  have hx4 := x4.isLt
  have h := Option.some.inj h
  omega

theorem addi (x0 : BitVec 5) (x1 : BitVec 5) (x2 : BitVec 16) : Statement (.addi x0 x1 x2) := by
  refine ⟨rfl, fun n h => ?_⟩
  have hx0 := x0.isLt
  have hx1 := x1.isLt
  have hx2 := x2.isLt
  have h := Option.some.inj h
  omega

theorem andi (x0 : BitVec 5) (x1 : BitVec 5) (x2 : BitVec 16) : Statement (.andi x0 x1 x2) := by
  refine ⟨rfl, fun n h => ?_⟩
  have hx0 := x0.isLt
  have hx1 := x1.isLt
  have hx2 := x2.isLt
  have h := Option.some.inj h
  omega

theorem ori (x0 : BitVec 5) (x1 : BitVec 5) (x2 : BitVec 16) : Statement (.ori x0 x1 x2) := by
  refine ⟨rfl, fun n h => ?_⟩
  have hx0 := x0.isLt
  have hx1 := x1.isLt
  have hx2 := x2.isLt
  have h := Option.some.inj h
  omega

theorem movi (x0 : BitVec 5) (x1 : BitVec 16) : Statement (.movi x0 x1) := by
  refine ⟨rfl, fun n h => ?_⟩
  have hx0 := x0.isLt
  have hx1 := x1.isLt
  have h := Option.some.inj h
  omega

theorem br (x0 : BitVec 5) (x1 : BitVec 6) (x2 : BitVec 1) (x3 : BitVec 14) : Statement (.br x0 x1 x2 x3) := by
  refine ⟨rfl, fun n h => ?_⟩
  have hx0 := x0.isLt
  have hx1 := x1.isLt
  have hx2 := x2.isLt
  have hx3 := x3.isLt
  have h := Option.some.inj h
  omega

theorem jmp (x0 : BitVec 26) : Statement (.jmp x0) := by
  refine ⟨rfl, fun n h => ?_⟩
  have hx0 := x0.isLt
  have h := Option.some.inj h
  omega

theorem jmpi (x0 : BitVec 5) : Statement (.jmpi x0) := by
  refine ⟨rfl, fun n h => ?_⟩
  have hx0 := x0.isLt
  have h := Option.some.inj h
  omega

theorem call (x0 : BitVec 2) (x1 : BitVec 24) : Statement (.call x0 x1) := by
  refine ⟨rfl, fun n h => ?_⟩
  have hx0 := x0.isLt
  have hx1 := x1.isLt
  have h := Option.some.inj h
  omega

theorem ret (x0 : BitVec 5) : Statement (.ret x0) := by
  refine ⟨rfl, fun n h => ?_⟩
  have hx0 := x0.isLt
  have h := Option.some.inj h
  omega

theorem yield (x0 : BitVec 16) : Statement (.yield x0) := by
  refine ⟨rfl, fun n h => ?_⟩
  have hx0 := x0.isLt
  have h := Option.some.inj h
  omega

theorem halt (x0 : BitVec 5) : Statement (.halt x0) := by
  refine ⟨rfl, fun n h => ?_⟩
  have hx0 := x0.isLt
  have h := Option.some.inj h
  omega

theorem haltR (x0 : BitVec 5) (x1 : BitVec 5) : Statement (.haltR x0 x1) := by
  refine ⟨rfl, fun n h => ?_⟩
  have hx0 := x0.isLt
  have hx1 := x1.isLt
  have h := Option.some.inj h
  omega

theorem spawn (x0 : BitVec 5) (x1 : BitVec 5) (x2 : BitVec 16) : Statement (.spawn x0 x1 x2) := by
  refine ⟨rfl, fun n h => ?_⟩
  have hx0 := x0.isLt
  have hx1 := x1.isLt
  have hx2 := x2.isLt
  have h := Option.some.inj h
  omega

theorem touch (x0 : BitVec 5) (x1 : BitVec 5) (x2 : BitVec 5) : Statement (.touch x0 x1 x2) := by
  refine ⟨rfl, fun n h => ?_⟩
  have hx0 := x0.isLt
  have hx1 := x1.isLt
  have hx2 := x2.isLt
  have h := Option.some.inj h
  omega

theorem resolve (x0 : BitVec 5) (x1 : BitVec 5) (x2 : BitVec 5) (x3 : BitVec 1) : Statement (.resolve x0 x1 x2 x3) := by
  refine ⟨rfl, fun n h => ?_⟩
  have hx0 := x0.isLt
  have hx1 := x1.isLt
  have hx2 := x2.isLt
  have hx3 := x3.isLt
  have h := Option.some.inj h
  omega

theorem poison (x0 : BitVec 5) (x1 : BitVec 5) (x2 : BitVec 5) (x3 : BitVec 1) : Statement (.poison x0 x1 x2 x3) := by
  refine ⟨rfl, fun n h => ?_⟩
  have hx0 := x0.isLt
  have hx1 := x1.isLt
  have hx2 := x2.isLt
  have hx3 := x3.isLt
  have h := Option.some.inj h
  omega

theorem cancel (x0 : BitVec 5) (x1 : BitVec 5) : Statement (.cancel x0 x1) := by
  refine ⟨rfl, fun n h => ?_⟩
  have hx0 := x0.isLt
  have hx1 := x1.isLt
  have h := Option.some.inj h
  omega

theorem launch (x0 : BitVec 5) (x1 : BitVec 5) : Statement (.launch x0 x1) := by
  refine ⟨rfl, fun n h => ?_⟩
  have hx0 := x0.isLt
  have hx1 := x1.isLt
  have h := Option.some.inj h
  omega

theorem gang (x0 : BitVec 2) : Statement (.gang x0) := by
  refine ⟨rfl, fun n h => ?_⟩
  have hx0 := x0.isLt
  have h := Option.some.inj h
  omega

theorem disband : Statement (.disband) := by
  refine ⟨rfl, fun n h => ?_⟩
  have h := Option.some.inj h
  omega

theorem depdec (x0 : BitVec 5) (x1 : BitVec 5) : Statement (.depdec x0 x1) := by
  refine ⟨rfl, fun n h => ?_⟩
  have hx0 := x0.isLt
  have hx1 := x1.isLt
  have h := Option.some.inj h
  omega

theorem reside (x0 : BitVec 5) : Statement (.reside x0) := by
  refine ⟨rfl, fun n h => ?_⟩
  have hx0 := x0.isLt
  have h := Option.some.inj h
  omega

theorem bind (x0 : BitVec 5) (x1 : BitVec 5) (x2 : BitVec 5) (x3 : BitVec 4) : Statement (.bind x0 x1 x2 x3) := by
  refine ⟨rfl, fun n h => ?_⟩
  have hx0 := x0.isLt
  have hx1 := x1.isLt
  have hx2 := x2.isLt
  have hx3 := x3.isLt
  have h := Option.some.inj h
  omega

theorem hold (x0 : BitVec 5) (x1 : BitVec 5) : Statement (.hold x0 x1) := by
  refine ⟨rfl, fun n h => ?_⟩
  have hx0 := x0.isLt
  have hx1 := x1.isLt
  have h := Option.some.inj h
  omega

theorem fspill (x0 : BitVec 5) (x1 : BitVec 5) : Statement (.fspill x0 x1) := by
  refine ⟨rfl, fun n h => ?_⟩
  have hx0 := x0.isLt
  have hx1 := x1.isLt
  have h := Option.some.inj h
  omega

theorem ffill (x0 : BitVec 5) (x1 : BitVec 5) : Statement (.ffill x0 x1) := by
  refine ⟨rfl, fun n h => ?_⟩
  have hx0 := x0.isLt
  have hx1 := x1.isLt
  have h := Option.some.inj h
  omega

theorem ld (x0 : BitVec 5) (x1 : BitVec 5) (x2 : BitVec 2) (x3 : BitVec 14) : Statement (.ld x0 x1 x2 x3) := by
  refine ⟨rfl, fun n h => ?_⟩
  have hx0 := x0.isLt
  have hx1 := x1.isLt
  have hx2 := x2.isLt
  have hx3 := x3.isLt
  have h := Option.some.inj h
  omega

theorem st (x0 : BitVec 5) (x1 : BitVec 5) (x2 : BitVec 2) (x3 : BitVec 14) : Statement (.st x0 x1 x2 x3) := by
  refine ⟨rfl, fun n h => ?_⟩
  have hx0 := x0.isLt
  have hx1 := x1.isLt
  have hx2 := x2.isLt
  have hx3 := x3.isLt
  have h := Option.some.inj h
  omega

theorem ldv (x0 : BitVec 5) (x1 : BitVec 5) (x2 : BitVec 14) : Statement (.ldv x0 x1 x2) := by
  refine ⟨rfl, fun n h => ?_⟩
  have hx0 := x0.isLt
  have hx1 := x1.isLt
  have hx2 := x2.isLt
  have h := Option.some.inj h
  omega

theorem stv (x0 : BitVec 5) (x1 : BitVec 5) (x2 : BitVec 14) : Statement (.stv x0 x1 x2) := by
  refine ⟨rfl, fun n h => ?_⟩
  have hx0 := x0.isLt
  have hx1 := x1.isLt
  have hx2 := x2.isLt
  have h := Option.some.inj h
  omega

theorem ldm (x0 : BitVec 5) (x1 : BitVec 5) (x2 : BitVec 14) : Statement (.ldm x0 x1 x2) := by
  refine ⟨rfl, fun n h => ?_⟩
  have hx0 := x0.isLt
  have hx1 := x1.isLt
  have hx2 := x2.isLt
  have h := Option.some.inj h
  omega

theorem stm (x0 : BitVec 5) (x1 : BitVec 5) (x2 : BitVec 14) : Statement (.stm x0 x1 x2) := by
  refine ⟨rfl, fun n h => ?_⟩
  have hx0 := x0.isLt
  have hx1 := x1.isLt
  have hx2 := x2.isLt
  have h := Option.some.inj h
  omega

theorem gath (x0 : BitVec 5) (x1 : BitVec 5) (x2 : BitVec 5) (x3 : BitVec 5) : Statement (.gath x0 x1 x2 x3) := by
  refine ⟨rfl, fun n h => ?_⟩
  have hx0 := x0.isLt
  have hx1 := x1.isLt
  have hx2 := x2.isLt
  have hx3 := x3.isLt
  have h := Option.some.inj h
  omega

theorem scat (x0 : BitVec 5) (x1 : BitVec 5) (x2 : BitVec 5) (x3 : BitVec 5) : Statement (.scat x0 x1 x2 x3) := by
  refine ⟨rfl, fun n h => ?_⟩
  have hx0 := x0.isLt
  have hx1 := x1.isLt
  have hx2 := x2.isLt
  have hx3 := x3.isLt
  have h := Option.some.inj h
  omega

theorem amo (x0 : BitVec 5) (x1 : BitVec 5) (x2 : BitVec 2) (x3 : BitVec 3) (x4 : BitVec 1) (x5 : BitVec 4) : Statement (.amo x0 x1 x2 x3 x4 x5) := by
  refine ⟨rfl, fun n h => ?_⟩
  have hx0 := x0.isLt
  have hx1 := x1.isLt
  have hx2 := x2.isLt
  have hx3 := x3.isLt
  have hx4 := x4.isLt
  have hx5 := x5.isLt
  have h := Option.some.inj h
  omega

theorem cas (x0 : BitVec 5) (x1 : BitVec 5) (x2 : BitVec 3) (x3 : BitVec 1) : Statement (.cas x0 x1 x2 x3) := by
  refine ⟨rfl, fun n h => ?_⟩
  have hx0 := x0.isLt
  have hx1 := x1.isLt
  have hx2 := x2.isLt
  have hx3 := x3.isLt
  have h := Option.some.inj h
  omega

theorem fence (x0 : BitVec 1) : Statement (.fence x0) := by
  refine ⟨rfl, fun n h => ?_⟩
  have hx0 := x0.isLt
  have h := Option.some.inj h
  omega

theorem adv (x0 : BitVec 5) (x1 : BitVec 1) (x2 : BitVec 4) : Statement (.adv x0 x1 x2) := by
  refine ⟨rfl, fun n h => ?_⟩
  have hx0 := x0.isLt
  have hx1 := x1.isLt
  have hx2 := x2.isLt
  have h := Option.some.inj h
  omega

theorem permit (x0 : BitVec 5) (x1 : BitVec 5) (x2 : BitVec 5) : Statement (.permit x0 x1 x2) := by
  refine ⟨rfl, fun n h => ?_⟩
  have hx0 := x0.isLt
  have hx1 := x1.isLt
  have hx2 := x2.isLt
  have h := Option.some.inj h
  omega

theorem cpy (x0 : BitVec 5) (x1 : BitVec 5) (x2 : BitVec 5) : Statement (.cpy x0 x1 x2) := by
  refine ⟨rfl, fun n h => ?_⟩
  have hx0 := x0.isLt
  have hx1 := x1.isLt
  have hx2 := x2.isLt
  have h := Option.some.inj h
  omega

theorem cpyQ (x0 : BitVec 5) (x1 : BitVec 5) (x2 : BitVec 3) : Statement (.cpyQ x0 x1 x2) := by
  refine ⟨rfl, fun n h => ?_⟩
  have hx0 := x0.isLt
  have hx1 := x1.isLt
  have hx2 := x2.isLt
  have h := Option.some.inj h
  omega

theorem amsg (x0 : BitVec 5) (x1 : BitVec 5) (x2 : BitVec 5) : Statement (.amsg x0 x1 x2) := by
  refine ⟨rfl, fun n h => ?_⟩
  have hx0 := x0.isLt
  have hx1 := x1.isLt
  have hx2 := x2.isLt
  have h := Option.some.inj h
  omega

theorem amsgP (x0 : BitVec 5) (x1 : BitVec 5) (x2 : BitVec 5) : Statement (.amsgP x0 x1 x2) := by
  refine ⟨rfl, fun n h => ?_⟩
  have hx0 := x0.isLt
  have hx1 := x1.isLt
  have hx2 := x2.isLt
  have h := Option.some.inj h
  omega

theorem rstv (x0 : BitVec 5) (x1 : BitVec 5) (x2 : BitVec 5) (x3 : BitVec 5) : Statement (.rstv x0 x1 x2 x3) := by
  refine ⟨rfl, fun n h => ?_⟩
  have hx0 := x0.isLt
  have hx1 := x1.isLt
  have hx2 := x2.isLt
  have hx3 := x3.isLt
  have h := Option.some.inj h
  omega

theorem rstvLaneRange (x0 : BitVec 5) (x1 : BitVec 5) (x2 : BitVec 5) (x3 : BitVec 5) (x4 : BitVec 5) : Statement (.rstvLaneRange x0 x1 x2 x3 x4) := by
  refine ⟨rfl, fun n h => ?_⟩
  have hx0 := x0.isLt
  have hx1 := x1.isLt
  have hx2 := x2.isLt
  have hx3 := x3.isLt
  have hx4 := x4.isLt
  have h := Option.some.inj h
  omega

theorem vadd (x0 : BitVec 5) (x1 : BitVec 5) (x2 : BitVec 5) (x3 : BitVec 5) : Statement (.vadd x0 x1 x2 x3) := by
  refine ⟨rfl, fun n h => ?_⟩
  have hx0 := x0.isLt
  have hx1 := x1.isLt
  have hx2 := x2.isLt
  have hx3 := x3.isLt
  have h := Option.some.inj h
  omega

theorem vsub (x0 : BitVec 5) (x1 : BitVec 5) (x2 : BitVec 5) (x3 : BitVec 5) : Statement (.vsub x0 x1 x2 x3) := by
  refine ⟨rfl, fun n h => ?_⟩
  have hx0 := x0.isLt
  have hx1 := x1.isLt
  have hx2 := x2.isLt
  have hx3 := x3.isLt
  have h := Option.some.inj h
  omega

theorem vmul (x0 : BitVec 5) (x1 : BitVec 5) (x2 : BitVec 5) (x3 : BitVec 5) : Statement (.vmul x0 x1 x2 x3) := by
  refine ⟨rfl, fun n h => ?_⟩
  have hx0 := x0.isLt
  have hx1 := x1.isLt
  have hx2 := x2.isLt
  have hx3 := x3.isLt
  have h := Option.some.inj h
  omega

theorem vfma (x0 : BitVec 5) (x1 : BitVec 5) (x2 : BitVec 5) (x3 : BitVec 5) : Statement (.vfma x0 x1 x2 x3) := by
  refine ⟨rfl, fun n h => ?_⟩
  have hx0 := x0.isLt
  have hx1 := x1.isLt
  have hx2 := x2.isLt
  have hx3 := x3.isLt
  have h := Option.some.inj h
  omega

theorem vmin (x0 : BitVec 5) (x1 : BitVec 5) (x2 : BitVec 5) (x3 : BitVec 5) : Statement (.vmin x0 x1 x2 x3) := by
  refine ⟨rfl, fun n h => ?_⟩
  have hx0 := x0.isLt
  have hx1 := x1.isLt
  have hx2 := x2.isLt
  have hx3 := x3.isLt
  have h := Option.some.inj h
  omega

theorem vmax (x0 : BitVec 5) (x1 : BitVec 5) (x2 : BitVec 5) (x3 : BitVec 5) : Statement (.vmax x0 x1 x2 x3) := by
  refine ⟨rfl, fun n h => ?_⟩
  have hx0 := x0.isLt
  have hx1 := x1.isLt
  have hx2 := x2.isLt
  have hx3 := x3.isLt
  have h := Option.some.inj h
  omega

theorem vabs (x0 : BitVec 5) (x1 : BitVec 5) (x2 : BitVec 5) : Statement (.vabs x0 x1 x2) := by
  refine ⟨rfl, fun n h => ?_⟩
  have hx0 := x0.isLt
  have hx1 := x1.isLt
  have hx2 := x2.isLt
  have h := Option.some.inj h
  omega

theorem vsel (x0 : BitVec 5) (x1 : BitVec 5) (x2 : BitVec 5) (x3 : BitVec 5) : Statement (.vsel x0 x1 x2 x3) := by
  refine ⟨rfl, fun n h => ?_⟩
  have hx0 := x0.isLt
  have hx1 := x1.isLt
  have hx2 := x2.isLt
  have hx3 := x3.isLt
  have h := Option.some.inj h
  omega

theorem vmov (x0 : BitVec 5) (x1 : BitVec 5) (x2 : BitVec 5) : Statement (.vmov x0 x1 x2) := by
  refine ⟨rfl, fun n h => ?_⟩
  have hx0 := x0.isLt
  have hx1 := x1.isLt
  have hx2 := x2.isLt
  have h := Option.some.inj h
  omega

theorem vbit (x0 : BitVec 5) (x1 : BitVec 5) (x2 : BitVec 5) (x3 : BitVec 5) : Statement (.vbit x0 x1 x2 x3) := by
  refine ⟨rfl, fun n h => ?_⟩
  have hx0 := x0.isLt
  have hx1 := x1.isLt
  have hx2 := x2.isLt
  have hx3 := x3.isLt
  have h := Option.some.inj h
  omega

theorem vperm (x0 : BitVec 5) (x1 : BitVec 5) (x2 : BitVec 5) (x3 : BitVec 5) : Statement (.vperm x0 x1 x2 x3) := by
  refine ⟨rfl, fun n h => ?_⟩
  have hx0 := x0.isLt
  have hx1 := x1.isLt
  have hx2 := x2.isLt
  have hx3 := x3.isLt
  have h := Option.some.inj h
  omega

theorem vtrn (x0 : BitVec 5) (x1 : BitVec 5) (x2 : BitVec 5) : Statement (.vtrn x0 x1 x2) := by
  refine ⟨rfl, fun n h => ?_⟩
  have hx0 := x0.isLt
  have hx1 := x1.isLt
  have hx2 := x2.isLt
  have h := Option.some.inj h
  omega

theorem vbcast (x0 : BitVec 5) (x1 : BitVec 5) (x2 : BitVec 5) : Statement (.vbcast x0 x1 x2) := by
  refine ⟨rfl, fun n h => ?_⟩
  have hx0 := x0.isLt
  have hx1 := x1.isLt
  have hx2 := x2.isLt
  have h := Option.some.inj h
  omega

theorem vidx (x0 : BitVec 5) (x1 : BitVec 5) (x2 : BitVec 5) : Statement (.vidx x0 x1 x2) := by
  refine ⟨rfl, fun n h => ?_⟩
  have hx0 := x0.isLt
  have hx1 := x1.isLt
  have hx2 := x2.isLt
  have h := Option.some.inj h
  omega

theorem vred (x0 : BitVec 5) (x1 : BitVec 5) (x2 : BitVec 5) : Statement (.vred x0 x1 x2) := by
  refine ⟨rfl, fun n h => ?_⟩
  have hx0 := x0.isLt
  have hx1 := x1.isLt
  have hx2 := x2.isLt
  have h := Option.some.inj h
  omega

theorem vdot (x0 : BitVec 5) (x1 : BitVec 5) (x2 : BitVec 5) (x3 : BitVec 5) : Statement (.vdot x0 x1 x2 x3) := by
  refine ⟨rfl, fun n h => ?_⟩
  have hx0 := x0.isLt
  have hx1 := x1.isLt
  have hx2 := x2.isLt
  have hx3 := x3.isLt
  have h := Option.some.inj h
  omega

theorem vcvt (x0 : BitVec 5) (x1 : BitVec 5) (x2 : BitVec 5) (x3 : BitVec 5) : Statement (.vcvt x0 x1 x2 x3) := by
  refine ⟨rfl, fun n h => ?_⟩
  have hx0 := x0.isLt
  have hx1 := x1.isLt
  have hx2 := x2.isLt
  have hx3 := x3.isLt
  have h := Option.some.inj h
  omega

theorem vcmp (x0 : BitVec 5) (x1 : BitVec 5) (x2 : BitVec 5) (x3 : BitVec 1) (x4 : BitVec 4) (x5 : BitVec 1) (x6 : BitVec 1) (x7 : BitVec 4) : Statement (.vcmp x0 x1 x2 x3 x4 x5 x6 x7) := by
  refine ⟨rfl, fun n h => ?_⟩
  have hx0 := x0.isLt
  have hx1 := x1.isLt
  have hx2 := x2.isLt
  have hx3 := x3.isLt
  have hx4 := x4.isLt
  have hx5 := x5.isLt
  have hx6 := x6.isLt
  have hx7 := x7.isLt
  have h := Option.some.inj h
  omega

theorem vrcp (x0 : BitVec 5) (x1 : BitVec 5) (x2 : BitVec 5) : Statement (.vrcp x0 x1 x2) := by
  refine ⟨rfl, fun n h => ?_⟩
  have hx0 := x0.isLt
  have hx1 := x1.isLt
  have hx2 := x2.isLt
  have h := Option.some.inj h
  omega

theorem vrsq (x0 : BitVec 5) (x1 : BitVec 5) (x2 : BitVec 5) : Statement (.vrsq x0 x1 x2) := by
  refine ⟨rfl, fun n h => ?_⟩
  have hx0 := x0.isLt
  have hx1 := x1.isLt
  have hx2 := x2.isLt
  have h := Option.some.inj h
  omega

theorem vexp2 (x0 : BitVec 5) (x1 : BitVec 5) (x2 : BitVec 5) : Statement (.vexp2 x0 x1 x2) := by
  refine ⟨rfl, fun n h => ?_⟩
  have hx0 := x0.isLt
  have hx1 := x1.isLt
  have hx2 := x2.isLt
  have h := Option.some.inj h
  omega

theorem vlog2 (x0 : BitVec 5) (x1 : BitVec 5) (x2 : BitVec 5) : Statement (.vlog2 x0 x1 x2) := by
  refine ⟨rfl, fun n h => ?_⟩
  have hx0 := x0.isLt
  have hx1 := x1.isLt
  have hx2 := x2.isLt
  have h := Option.some.inj h
  omega

theorem vsin (x0 : BitVec 5) (x1 : BitVec 5) (x2 : BitVec 5) : Statement (.vsin x0 x1 x2) := by
  refine ⟨rfl, fun n h => ?_⟩
  have hx0 := x0.isLt
  have hx1 := x1.isLt
  have hx2 := x2.isLt
  have h := Option.some.inj h
  omega

theorem vtanh (x0 : BitVec 5) (x1 : BitVec 5) (x2 : BitVec 5) : Statement (.vtanh x0 x1 x2) := by
  refine ⟨rfl, fun n h => ?_⟩
  have hx0 := x0.isLt
  have hx1 := x1.isLt
  have hx2 := x2.isLt
  have h := Option.some.inj h
  omega

theorem madd (x0 : BitVec 5) (x1 : BitVec 5) (x2 : BitVec 5) (x3 : BitVec 1) : Statement (.madd x0 x1 x2 x3) := by
  refine ⟨rfl, fun n h => ?_⟩
  have hx0 := x0.isLt
  have hx1 := x1.isLt
  have hx2 := x2.isLt
  have hx3 := x3.isLt
  have h := Option.some.inj h
  omega

theorem msub (x0 : BitVec 5) (x1 : BitVec 5) (x2 : BitVec 5) (x3 : BitVec 1) : Statement (.msub x0 x1 x2 x3) := by
  refine ⟨rfl, fun n h => ?_⟩
  have hx0 := x0.isLt
  have hx1 := x1.isLt
  have hx2 := x2.isLt
  have hx3 := x3.isLt
  have h := Option.some.inj h
  omega

theorem mmul (x0 : BitVec 5) (x1 : BitVec 5) (x2 : BitVec 5) (x3 : BitVec 1) : Statement (.mmul x0 x1 x2 x3) := by
  refine ⟨rfl, fun n h => ?_⟩
  have hx0 := x0.isLt
  have hx1 := x1.isLt
  have hx2 := x2.isLt
  have hx3 := x3.isLt
  have h := Option.some.inj h
  omega

theorem mfma (x0 : BitVec 5) (x1 : BitVec 5) (x2 : BitVec 5) (x3 : BitVec 1) : Statement (.mfma x0 x1 x2 x3) := by
  refine ⟨rfl, fun n h => ?_⟩
  have hx0 := x0.isLt
  have hx1 := x1.isLt
  have hx2 := x2.isLt
  have hx3 := x3.isLt
  have h := Option.some.inj h
  omega

theorem mscl (x0 : BitVec 5) (x1 : BitVec 5) (x2 : BitVec 5) (x3 : BitVec 1) : Statement (.mscl x0 x1 x2 x3) := by
  refine ⟨rfl, fun n h => ?_⟩
  have hx0 := x0.isLt
  have hx1 := x1.isLt
  have hx2 := x2.isLt
  have hx3 := x3.isLt
  have h := Option.some.inj h
  omega

theorem msq (x0 : BitVec 5) (x1 : BitVec 5) (x2 : BitVec 1) : Statement (.msq x0 x1 x2) := by
  refine ⟨rfl, fun n h => ?_⟩
  have hx0 := x0.isLt
  have hx1 := x1.isLt
  have hx2 := x2.isLt
  have h := Option.some.inj h
  omega

theorem mrelu (x0 : BitVec 5) (x1 : BitVec 5) (x2 : BitVec 1) : Statement (.mrelu x0 x1 x2) := by
  refine ⟨rfl, fun n h => ?_⟩
  have hx0 := x0.isLt
  have hx1 := x1.isLt
  have hx2 := x2.isLt
  have h := Option.some.inj h
  omega

theorem mexp (x0 : BitVec 5) (x1 : BitVec 5) (x2 : BitVec 1) : Statement (.mexp x0 x1 x2) := by
  refine ⟨rfl, fun n h => ?_⟩
  have hx0 := x0.isLt
  have hx1 := x1.isLt
  have hx2 := x2.isLt
  have h := Option.some.inj h
  omega

theorem msigm (x0 : BitVec 5) (x1 : BitVec 5) (x2 : BitVec 1) : Statement (.msigm x0 x1 x2) := by
  refine ⟨rfl, fun n h => ?_⟩
  have hx0 := x0.isLt
  have hx1 := x1.isLt
  have hx2 := x2.isLt
  have h := Option.some.inj h
  omega

theorem mset (x0 : BitVec 5) (x1 : BitVec 5) (x2 : BitVec 5) (x3 : BitVec 1) : Statement (.mset x0 x1 x2 x3) := by
  refine ⟨rfl, fun n h => ?_⟩
  have hx0 := x0.isLt
  have hx1 := x1.isLt
  have hx2 := x2.isLt
  have hx3 := x3.isLt
  have h := Option.some.inj h
  omega

theorem mcoll (x0 : BitVec 5) (x1 : BitVec 5) (x2 : BitVec 2) (x3 : BitVec 3) (x4 : BitVec 1) : Statement (.mcoll x0 x1 x2 x3 x4) := by
  refine ⟨rfl, fun n h => ?_⟩
  have hx0 := x0.isLt
  have hx1 := x1.isLt
  have hx2 := x2.isLt
  have hx3 := x3.isLt
  have hx4 := x4.isLt
  have h := Option.some.inj h
  omega

theorem lmbind (x0 : BitVec 5) (x1 : BitVec 5) (x2 : BitVec 5) (x3 : BitVec 1) (x4 : BitVec 5) : Statement (.lmbind x0 x1 x2 x3 x4) := by
  refine ⟨rfl, fun n h => ?_⟩
  have hx0 := x0.isLt
  have hx1 := x1.isLt
  have hx2 := x2.isLt
  have hx3 := x3.isLt
  have hx4 := x4.isLt
  have h := Option.some.inj h
  omega

theorem lmbindUnbind (x0 : BitVec 5) (x1 : BitVec 5) (x2 : BitVec 5) (x3 : BitVec 1) (x4 : BitVec 5) : Statement (.lmbindUnbind x0 x1 x2 x3 x4) := by
  refine ⟨rfl, fun n h => ?_⟩
  have hx0 := x0.isLt
  have hx1 := x1.isLt
  have hx2 := x2.isLt
  have hx3 := x3.isLt
  have hx4 := x4.isLt
  have h := Option.some.inj h
  omega

theorem lmrun (x0 : BitVec 5) (x1 : BitVec 5) (x2 : BitVec 5) (x3 : BitVec 5) : Statement (.lmrun x0 x1 x2 x3) := by
  refine ⟨rfl, fun n h => ?_⟩
  have hx0 := x0.isLt
  have hx1 := x1.isLt
  have hx2 := x2.isLt
  have hx3 := x3.isLt
  have h := Option.some.inj h
  omega

theorem lmmom (x0 : BitVec 5) (x1 : BitVec 5) (x2 : BitVec 5) : Statement (.lmmom x0 x1 x2) := by
  refine ⟨rfl, fun n h => ?_⟩
  have hx0 := x0.isLt
  have hx1 := x1.isLt
  have hx2 := x2.isLt
  have h := Option.some.inj h
  omega

theorem lmzero (x0 : BitVec 5) (x1 : BitVec 5) (x2 : BitVec 5) (x3 : BitVec 5) : Statement (.lmzero x0 x1 x2 x3) := by
  refine ⟨rfl, fun n h => ?_⟩
  have hx0 := x0.isLt
  have hx1 := x1.isLt
  have hx2 := x2.isLt
  have hx3 := x3.isLt
  have h := Option.some.inj h
  omega

theorem lmdrn (x0 : BitVec 5) (x1 : BitVec 5) (x2 : BitVec 5) (x3 : BitVec 1) (x4 : BitVec 5) : Statement (.lmdrn x0 x1 x2 x3 x4) := by
  refine ⟨rfl, fun n h => ?_⟩
  have hx0 := x0.isLt
  have hx1 := x1.isLt
  have hx2 := x2.isLt
  have hx3 := x3.isLt
  have hx4 := x4.isLt
  have h := Option.some.inj h
  omega

theorem lmdrnV (x0 : BitVec 5) (x1 : BitVec 5) (x2 : BitVec 5) (x3 : BitVec 1) : Statement (.lmdrnV x0 x1 x2 x3) := by
  refine ⟨rfl, fun n h => ?_⟩
  have hx0 := x0.isLt
  have hx1 := x1.isLt
  have hx2 := x2.isLt
  have hx3 := x3.isLt
  have h := Option.some.inj h
  omega

theorem lmsclOn (x0 : BitVec 5) (x1 : BitVec 5) (x2 : BitVec 5) (x3 : BitVec 5) : Statement (.lmsclOn x0 x1 x2 x3) := by
  refine ⟨rfl, fun n h => ?_⟩
  have hx0 := x0.isLt
  have hx1 := x1.isLt
  have hx2 := x2.isLt
  have hx3 := x3.isLt
  have h := Option.some.inj h
  omega

theorem lmsclOff (x0 : BitVec 5) (x1 : BitVec 5) (x2 : BitVec 5) (x3 : BitVec 5) : Statement (.lmsclOff x0 x1 x2 x3) := by
  refine ⟨rfl, fun n h => ?_⟩
  have hx0 := x0.isLt
  have hx1 := x1.isLt
  have hx2 := x2.isLt
  have hx3 := x3.isLt
  have h := Option.some.inj h
  omega

theorem lmchk (x0 : BitVec 5) (x1 : BitVec 5) (x2 : BitVec 5) (x3 : BitVec 5) : Statement (.lmchk x0 x1 x2 x3) := by
  refine ⟨rfl, fun n h => ?_⟩
  have hx0 := x0.isLt
  have hx1 := x1.isLt
  have hx2 := x2.isLt
  have hx3 := x3.isLt
  have h := Option.some.inj h
  omega

theorem lmcb (x0 : BitVec 5) (x1 : BitVec 5) (x2 : BitVec 5) (x3 : BitVec 5) : Statement (.lmcb x0 x1 x2 x3) := by
  refine ⟨rfl, fun n h => ?_⟩
  have hx0 := x0.isLt
  have hx1 := x1.isLt
  have hx2 := x2.isLt
  have hx3 := x3.isLt
  have h := Option.some.inj h
  omega

theorem lmwt (x0 : BitVec 5) (x1 : BitVec 5) (x2 : BitVec 5) (x3 : BitVec 5) : Statement (.lmwt x0 x1 x2 x3) := by
  refine ⟨rfl, fun n h => ?_⟩
  have hx0 := x0.isLt
  have hx1 := x1.isLt
  have hx2 := x2.isLt
  have hx3 := x3.isLt
  have h := Option.some.inj h
  omega

theorem lmfrzOn (x0 : BitVec 5) (x1 : BitVec 5) (x2 : BitVec 5) (x3 : BitVec 5) : Statement (.lmfrzOn x0 x1 x2 x3) := by
  refine ⟨rfl, fun n h => ?_⟩
  have hx0 := x0.isLt
  have hx1 := x1.isLt
  have hx2 := x2.isLt
  have hx3 := x3.isLt
  have h := Option.some.inj h
  omega

theorem lmfrzOff (x0 : BitVec 5) (x1 : BitVec 5) (x2 : BitVec 5) (x3 : BitVec 5) : Statement (.lmfrzOff x0 x1 x2 x3) := by
  refine ⟨rfl, fun n h => ?_⟩
  have hx0 := x0.isLt
  have hx1 := x1.isLt
  have hx2 := x2.isLt
  have hx3 := x3.isLt
  have h := Option.some.inj h
  omega

theorem ckacc (x0 : BitVec 5) (x1 : BitVec 5) : Statement (.ckacc x0 x1) := by
  refine ⟨rfl, fun n h => ?_⟩
  have hx0 := x0.isLt
  have hx1 := x1.isLt
  have h := Option.some.inj h
  omega

theorem cktst (x0 : BitVec 5) (x1 : BitVec 5) (x2 : BitVec 5) : Statement (.cktst x0 x1 x2) := by
  refine ⟨rfl, fun n h => ?_⟩
  have hx0 := x0.isLt
  have hx1 := x1.isLt
  have hx2 := x2.isLt
  have h := Option.some.inj h
  omega

theorem mfs (x0 : BitVec 5) (x1 : BitVec 10) : Statement (.mfs x0 x1) := by
  refine ⟨rfl, fun n h => ?_⟩
  have hx0 := x0.isLt
  have hx1 := x1.isLt
  have h := Option.some.inj h
  omega

theorem mts (x0 : BitVec 5) (x1 : BitVec 10) : Statement (.mts x0 x1) := by
  refine ⟨rfl, fun n h => ?_⟩
  have hx0 := x0.isLt
  have hx1 := x1.isLt
  have h := Option.some.inj h
  omega

theorem trap (x0 : BitVec 5) : Statement (.trap x0) := by
  refine ⟨rfl, fun n h => ?_⟩
  have hx0 := x0.isLt
  have h := Option.some.inj h
  omega

theorem eret : Statement (.eret) := by
  refine ⟨rfl, fun n h => ?_⟩
  have h := Option.some.inj h
  omega

theorem xinv (x0 : BitVec 5) (x1 : BitVec 5) (x2 : BitVec 5) : Statement (.xinv x0 x1 x2) := by
  refine ⟨rfl, fun n h => ?_⟩
  have hx0 := x0.isLt
  have hx1 := x1.isLt
  have hx2 := x2.isLt
  have h := Option.some.inj h
  omega

theorem cmoI : Statement (.cmoI) := by
  refine ⟨rfl, fun n h => ?_⟩
  have h := Option.some.inj h
  omega

theorem cmoDrop (x0 : BitVec 5) : Statement (.cmoDrop x0) := by
  refine ⟨rfl, fun n h => ?_⟩
  have hx0 := x0.isLt
  have h := Option.some.inj h
  omega

theorem cmoPf (x0 : BitVec 5) : Statement (.cmoPf x0) := by
  refine ⟨rfl, fun n h => ?_⟩
  have hx0 := x0.isLt
  have h := Option.some.inj h
  omega

theorem nop : Statement (.nop) := by
  refine ⟨rfl, fun n h => ?_⟩
  have h := Option.some.inj h
  omega

theorem spillWriteAck (x0 : Nat) : Statement (.spillWriteAck x0) := ⟨rfl, fun _ h => nomatch h⟩

theorem lateWriteLands (x0 : Nat) : Statement (.lateWriteLands x0) := ⟨rfl, fun _ h => nomatch h⟩

theorem translationDone (x0 : Nat) (x1 : Nat) (x2 : Nat) : Statement (.translationDone x0 x1 x2) := ⟨rfl, fun _ h => nomatch h⟩

theorem hbmFillReturn (x0 : Nat) (x1 : Nat) (x2 : Bool) (x3 : Bool) : Statement (.hbmFillReturn x0 x1 x2 x3) := ⟨rfl, fun _ h => nomatch h⟩

theorem combinerFlush (x0 : Nat) : Statement (.combinerFlush x0) := ⟨rfl, fun _ h => nomatch h⟩

theorem comBatchApply (x0 : Nat) : Statement (.comBatchApply x0) := ⟨rfl, fun _ h => nomatch h⟩

theorem ptsTick (x0 : Nat) (x1 : Nat) : Statement (.ptsTick x0 x1) := ⟨rfl, fun _ h => nomatch h⟩

theorem wcntIdleTick (x0 : Nat) (x1 : Nat) : Statement (.wcntIdleTick x0 x1) := ⟨rfl, fun _ h => nomatch h⟩

theorem overlongHoldWait (x0 : Nat) (x1 : Nat) : Statement (.overlongHoldWait x0 x1) := ⟨rfl, fun _ h => nomatch h⟩

theorem taskDispatch (x0 : Nat) : Statement (.taskDispatch x0) := ⟨rfl, fun _ h => nomatch h⟩

theorem stagingStart (x0 : Nat) : Statement (.stagingStart x0) := ⟨rfl, fun _ h => nomatch h⟩

theorem tilePushLanded (x0 : Nat) (x1 : Nat) (x2 : Nat) : Statement (.tilePushLanded x0 x1 x2) := ⟨rfl, fun _ h => nomatch h⟩

theorem outputWriteBackDone (x0 : Nat) (x1 : Nat) : Statement (.outputWriteBackDone x0 x1) := ⟨rfl, fun _ h => nomatch h⟩

theorem wakeWaiters (x0 : Nat) (x1 : Nat) : Statement (.wakeWaiters x0 x1) := ⟨rfl, fun _ h => nomatch h⟩

theorem copyComplete (x0 : Nat) : Statement (.copyComplete x0) := ⟨rfl, fun _ h => nomatch h⟩

theorem engineJobComplete (x0 : Nat) : Statement (.engineJobComplete x0) := ⟨rfl, fun _ h => nomatch h⟩

theorem queueSlotLanding (x0 : Nat) : Statement (.queueSlotLanding x0) := ⟨rfl, fun _ h => nomatch h⟩

theorem loomPieceStart (x0 : Nat) : Statement (.loomPieceStart x0) := ⟨rfl, fun _ h => nomatch h⟩

theorem loomCommandComplete (x0 : Nat) (x1 : Nat) : Statement (.loomCommandComplete x0 x1) := ⟨rfl, fun _ h => nomatch h⟩

theorem loomFreezeDone (x0 : Nat) : Statement (.loomFreezeDone x0) := ⟨rfl, fun _ h => nomatch h⟩

theorem placerTask (x0 : Nat) : Statement (.placerTask x0) := ⟨rfl, fun _ h => nomatch h⟩

theorem taskPlacement (x0 : Packet) : Statement (.taskPlacement x0) := ⟨rfl, fun _ h => nomatch h⟩

theorem launchQueueDrain (x0 : Nat) : Statement (.launchQueueDrain x0) := ⟨rfl, fun _ h => nomatch h⟩

theorem launchRelease (x0 : Nat) (x1 : Nat) : Statement (.launchRelease x0 x1) := ⟨rfl, fun _ h => nomatch h⟩

theorem sweepStart (x0 : Nat) (x1 : Nat) : Statement (.sweepStart x0 x1) := ⟨rfl, fun _ h => nomatch h⟩

theorem sweep (x0 : Nat) (x1 : Nat) : Statement (.sweep x0 x1) := ⟨rfl, fun _ h => nomatch h⟩

theorem sweepResult (x0 : Nat) (x1 : Nat) : Statement (.sweepResult x0 x1) := ⟨rfl, fun _ h => nomatch h⟩

theorem phaseBarrierPass (x0 : Nat) (x1 : Nat) : Statement (.phaseBarrierPass x0 x1) := ⟨rfl, fun _ h => nomatch h⟩

theorem keptEntryScan (x0 : Nat) : Statement (.keptEntryScan x0) := ⟨rfl, fun _ h => nomatch h⟩

theorem cancelScanStep (x0 : Nat) : Statement (.cancelScanStep x0) := ⟨rfl, fun _ h => nomatch h⟩

theorem balancerCheck (x0 : Nat) : Statement (.balancerCheck x0) := ⟨rfl, fun _ h => nomatch h⟩

theorem migrationCopyDone (x0 : Nat) (x1 : Nat) : Statement (.migrationCopyDone x0 x1) := ⟨rfl, fun _ h => nomatch h⟩

theorem forwardingEntryExpiry (x0 : Nat) (x1 : Nat) : Statement (.forwardingEntryExpiry x0 x1) := ⟨rfl, fun _ h => nomatch h⟩

theorem remoteLoad (x0 : Packet) : Statement (.remoteLoad x0) := ⟨rfl, fun _ h => nomatch h⟩

theorem remoteStore (x0 : Packet) : Statement (.remoteStore x0) := ⟨rfl, fun _ h => nomatch h⟩

theorem remoteAmo (x0 : Packet) : Statement (.remoteAmo x0) := ⟨rfl, fun _ h => nomatch h⟩

theorem remoteCas (x0 : Packet) : Statement (.remoteCas x0) := ⟨rfl, fun _ h => nomatch h⟩

theorem answer (x0 : Packet) : Statement (.answer x0) := ⟨rfl, fun _ h => nomatch h⟩

theorem remoteTouch (x0 : Packet) : Statement (.remoteTouch x0) := ⟨rfl, fun _ h => nomatch h⟩

theorem remoteResolve (x0 : Packet) : Statement (.remoteResolve x0) := ⟨rfl, fun _ h => nomatch h⟩

theorem remotePoison (x0 : Packet) : Statement (.remotePoison x0) := ⟨rfl, fun _ h => nomatch h⟩

theorem remoteCancel (x0 : Packet) : Statement (.remoteCancel x0) := ⟨rfl, fun _ h => nomatch h⟩

theorem remoteDepdec (x0 : Packet) : Statement (.remoteDepdec x0) := ⟨rfl, fun _ h => nomatch h⟩

theorem remoteFspill (x0 : Packet) : Statement (.remoteFspill x0) := ⟨rfl, fun _ h => nomatch h⟩

theorem remoteFfill (x0 : Packet) : Statement (.remoteFfill x0) := ⟨rfl, fun _ h => nomatch h⟩

theorem remoteWake (x0 : Packet) : Statement (.remoteWake x0) := ⟨rfl, fun _ h => nomatch h⟩

theorem rstvStore (x0 : Packet) : Statement (.rstvStore x0) := ⟨rfl, fun _ h => nomatch h⟩

theorem channelDelivery (x0 : Packet) : Statement (.channelDelivery x0) := ⟨rfl, fun _ h => nomatch h⟩

theorem activationCreate (x0 : Nat) (x1 : Nat) (x2 : Nat) : Statement (.activationCreate x0 x1 x2) := ⟨rfl, fun _ h => nomatch h⟩

theorem entryAddressMessage (x0 : Packet) : Statement (.entryAddressMessage x0) := ⟨rfl, fun _ h => nomatch h⟩

theorem lcmdCreateJob (x0 : Nat) (x1 : Word) (x2 : Word) : Statement (.lcmdCreateJob x0 x1 x2) := ⟨rfl, fun _ h => nomatch h⟩

theorem lcmdOpenPhase (x0 : Nat) (x1 : Word) (x2 : Word) : Statement (.lcmdOpenPhase x0 x1 x2) := ⟨rfl, fun _ h => nomatch h⟩

theorem lcmdCloseJob (x0 : Nat) (x1 : Word) (x2 : Word) : Statement (.lcmdCloseJob x0 x1 x2) := ⟨rfl, fun _ h => nomatch h⟩

theorem asplitWrite (x0 : Nat) (x1 : Word) : Statement (.asplitWrite x0 x1) := ⟨rfl, fun _ h => nomatch h⟩

theorem asplitApply (x0 : Nat) : Statement (.asplitApply x0) := ⟨rfl, fun _ h => nomatch h⟩

theorem lpoolWrite (x0 : Nat) (x1 : Word) : Statement (.lpoolWrite x0 x1) := ⟨rfl, fun _ h => nomatch h⟩

theorem ebstatClear (x0 : Nat) (x1 : Word) : Statement (.ebstatClear x0 x1) := ⟨rfl, fun _ h => nomatch h⟩

theorem l2CounterClear (x0 : Nat) (x1 : Nat) (x2 : Word) : Statement (.l2CounterClear x0 x1 x2) := ⟨rfl, fun _ h => nomatch h⟩

theorem deviceRegisterWrite (x0 : Nat) (x1 : Word) : Statement (.deviceRegisterWrite x0 x1) := ⟨rfl, fun _ h => nomatch h⟩

theorem msixVectorSend (x0 : Nat) (x1 : Nat) (x2 : Word) : Statement (.msixVectorSend x0 x1 x2) := ⟨rfl, fun _ h => nomatch h⟩

theorem booteWrite (x0 : Word) : Statement (.booteWrite x0) := ⟨rfl, fun _ h => nomatch h⟩

theorem filterConsumerWrite (x0 : Nat) (x1 : Nat) (x2 : Word) : Statement (.filterConsumerWrite x0 x1 x2) := ⟨rfl, fun _ h => nomatch h⟩

theorem hostMessageWrite (x0 : Nat) (x1 : Nat) (x2 : Nat) (x3 : Vec) : Statement (.hostMessageWrite x0 x1 x2 x3) := ⟨rfl, fun _ h => nomatch h⟩

theorem hostMemoryAccess (x0 : Nat) (x1 : Nat) (x2 : Nat) (x3 : Bool) (x4 : Nat) : Statement (.hostMemoryAccess x0 x1 x2 x3 x4) := ⟨rfl, fun _ h => nomatch h⟩

theorem chronographFrame (x0 : Nat) (x1 : Bool) (x2 : List Byte) (x3 : Nat) (x4 : Nat) : Statement (.chronographFrame x0 x1 x2 x3 x4) := ⟨rfl, fun _ h => nomatch h⟩

theorem ptpMessage (x0 : Nat) (x1 : Nat) : Statement (.ptpMessage x0 x1) := ⟨rfl, fun _ h => nomatch h⟩

theorem fabricHeaderError (x0 : Nat) : Statement (.fabricHeaderError x0) := ⟨rfl, fun _ h => nomatch h⟩

theorem endToEndTimeout (x0 : Nat) : Statement (.endToEndTimeout x0) := ⟨rfl, fun _ h => nomatch h⟩

theorem linkMarginLoss (x0 : Nat) (x1 : Bool) (x2 : Bool) : Statement (.linkMarginLoss x0 x1 x2) := ⟨rfl, fun _ h => nomatch h⟩

theorem moduleFailureMark (x0 : Nat) : Statement (.moduleFailureMark x0) := ⟨rfl, fun _ h => nomatch h⟩

theorem correctedErrorWindow (x0 : Nat) (x1 : Nat) : Statement (.correctedErrorWindow x0 x1) := ⟨rfl, fun _ h => nomatch h⟩

theorem patrolScrub (x0 : Nat) (x1 : Bool) : Statement (.patrolScrub x0 x1) := ⟨rfl, fun _ h => nomatch h⟩

theorem clusterRetest (x0 : Nat) (x1 : Nat) (x2 : Nat) : Statement (.clusterRetest x0 x1 x2) := ⟨rfl, fun _ h => nomatch h⟩

theorem powerOn (x0 : Bool) : Statement (.powerOn x0) := ⟨rfl, fun _ h => nomatch h⟩

theorem resetRequest (x0 : Bool) : Statement (.resetRequest x0) := ⟨rfl, fun _ h => nomatch h⟩

theorem unassignedInstructionWord (x0 : IWord) : Statement (.unassignedInstructionWord x0) := by
  refine ⟨rfl, fun n h => ?_⟩
  have hx0 := x0.isLt
  have h := Option.some.inj h
  omega

theorem killMessage (x0 : Nat) (x1 : Nat) : Statement (.killMessage x0 x1) := ⟨rfl, fun _ h => nomatch h⟩

theorem qntQuantumWrite (x0 : Nat) (x1 : Nat) : Statement (.qntQuantumWrite x0 x1) := ⟨rfl, fun _ h => nomatch h⟩

theorem jobReadPassDone (x0 : Nat) : Statement (.jobReadPassDone x0) := ⟨rfl, fun _ h => nomatch h⟩

theorem contextSwitch (x0 : Nat) (x1 : Nat) (x2 : Nat) : Statement (.contextSwitch x0 x1 x2) := ⟨rfl, fun _ h => nomatch h⟩

end Sys2Proof.Laws.Fits
end

