-- ==== Sys2Proof/Laws/Place.lean ====
section
/-! SUPPORT. Free choices of a place: one is made wherever there is a candidate, and it is a candidate (log entries 12 and
20). -/

namespace Sys2Proof.Machine

/-- What is chosen is one of the places. -/
theorem pickPlace_mem {n o : Nat} {l : List Nat} (h : pickPlace n l = some o) : o ∈ l := by
  cases l with
  | nil => simp [pickPlace] at h
  | cons x xs =>
    simp only [pickPlace, Option.some.injEq] at h
    have hi : Config.place n % (xs.length + 1) < (x :: xs).length := Nat.mod_lt _ (Nat.succ_pos _)
    rw [List.getD_eq_getElem?_getD, List.getElem?_eq_getElem hi, Option.getD_some] at h
    exact h ▸ List.getElem_mem hi

/-- Something is chosen where there is a place. -/
theorem pickPlace_isSome {n x : Nat} {l : List Nat} (h : x ∈ l) : (pickPlace n l).isSome := by
  cases l with
  | nil => simp at h
  | cons y ys => rfl

/-- A region that was found lies on a granule of the pool, within it, and clear of every region (R141). -/
theorem findRegion_fits {c : Cluster} {len o : Nat} (h : c.findRegion len = some o) :
    ∃ i < c.poolLen * 8, o = c.poolBase * 1024 + 128 * i ∧
      o + (len + 127) / 128 * 128 ≤ c.poolBase * 1024 + c.poolLen * 1024 ∧
      ∀ r ∈ c.regions, o + (len + 127) / 128 * 128 ≤ r.off ∨ r.off + (r.len + 127) / 128 * 128 ≤ o := by
  have hm := pickPlace_mem h
  simp only [List.mem_filter, List.mem_map, List.mem_range, Bool.and_eq_true, decide_eq_true_eq, List.all_eq_true,
    Bool.or_eq_true] at hm
  obtain ⟨⟨i, hi, rfl⟩, hf, hr⟩ := hm
  exact ⟨i, hi, rfl, hf, hr⟩

/-- A free record of a die's ladder table, other than a given one, lets one be chosen. -/
theorem freeLadderBut_isSome {s : State} {die i : Nat} {but : Option Nat} (hi : i < 4096) (hb : some i ≠ but)
    (hk : (mget (fun _ => ({} : Ladder)) (s.dieAt die).ladder i).kind = .free) : (freeLadderBut s die but).isSome := by
  refine pickPlace_isSome (x := i) (List.mem_filter.2 ⟨List.mem_range.2 hi, ?_⟩)
  simp only [Bool.and_eq_true, Bool.or_eq_true, bne_iff_ne]
  exact ⟨hb, .inl (by rw [hk]; rfl)⟩

/-- A die's ladder table without a free record and without one that can be made anew gives none. -/
theorem freeLadder_none {s : State} {die : Nat}
    (h : ∀ i < 4096, let r := mget (fun _ => ({} : Ladder)) (s.dieAt die).ladder i; r.kind ≠ .free ∧ reusable s r = false) :
    freeLadder s die = none := by
  unfold freeLadder freeLadderBut
  rw [List.filter_eq_nil_iff.2]
  · rfl
  · intro i hi
    simpa using h i (List.mem_range.1 hi)

/-- Two free records let two be chosen. -/
theorem twoLadders_isSome {s : State} {die : Nat}
    (h0 : (mget (fun _ => ({} : Ladder)) (s.dieAt die).ladder 0).kind = .free)
    (h1 : (mget (fun _ => ({} : Ladder)) (s.dieAt die).ladder 1).kind = .free) : (twoLadders s die).isSome := by
  have first : (freeLadder s die).isSome := freeLadderBut_isSome (i := 0) (by omega) (fun x => nomatch x) h0
  unfold twoLadders
  cases e : freeLadder s die with
  | none => rw [e] at first; cases first
  | some i =>
    rw [Option.isSome_map]
    by_cases hi : i = 0
    · exact freeLadderBut_isSome (i := 1) (by omega) (fun x => by cases hi; cases x) h1
    · exact freeLadderBut_isSome (i := 0) (by omega) (fun x => hi (by cases x; rfl)) h0

end Sys2Proof.Machine
end

