-- ==== Sys2Proof/Tests/Slice0.lean ====
section
/-! SUPPORT. Tests: ill-formed terms that the checks refuse, a word of every encoding, small steps with results worked
out by hand from the rules, and for every statement with hypotheses states and operands that meet them. -/

namespace Sys2Proof.Tests

open Sys2Proof Sys2Proof.Machine

set_option Elab.async false

/-- Words written out from the encodings (R287, R289 to R297): ADD to MAX. -/
theorem test_decode_1 :
    decodeNat 0x07FAA800 = .instr (.add 31 26 21) ∧
    decodeNat 0x0797F801 = .instr (.sub 28 23 31) ∧
    decodeNat 0x0734E002 = .instr (.mul 25 20 28) ∧
    decodeNat 0x06DEC803 = .instr (.mulh 22 30 25) ∧
    decodeNat 0x067BB004 = .instr (.div 19 27 22) ∧
    decodeNat 0x07B89805 = .instr (.rem 29 24 19) ∧
    decodeNat 0x0755E806 = .instr (.and 26 21 29) ∧
    decodeNat 0x06FFD007 = .instr (.or 23 31 26) ∧
    decodeNat 0x069CB808 = .instr (.xor 20 28 23) ∧
    decodeNat 0x07D9A009 = .instr (.shl 30 25 20) ∧
    decodeNat 0x0776F00A = .instr (.shr 27 22 30) ∧
    decodeNat 0x0713D80B = .instr (.sha 24 19 27) ∧
    decodeNat 0x06BDC00C = .instr (.min 21 29 24) ∧
    decodeNat 0x07FAA80D = .instr (.max 31 26 21) := by decide

/-- Words written out from the encodings (R287, R289 to R297): SEL to JMP. -/
theorem test_decode_2 :
    decodeNat 0x0797FE8E = .instr (.sel 28 23 31 26) ∧
    decodeNat 0x0734000F = .instr (.mov 25 20) ∧
    decodeNat 0x06DE0010 = .instr (.clz 22 30) ∧
    decodeNat 0x067B0011 = .instr (.popc 19 27) ∧
    decodeNat 0x07B89812 = .instr (.bfx 29 24 19 0) ∧
    decodeNat 0x0755E813 = .instr (.bfi 26 21 29) ∧
    decodeNat 0x06FFD554 = .instr (.lea 23 31 26 21) ∧
    decodeNat 0x0A9CBFFA = .instr (.cmp 20 28 23 31 58) ∧
    decodeNat 0x0FD9FFF4 = .instr (.addi 30 25 65524) ∧
    decodeNat 0x1376FFFE = .instr (.andi 27 22 65534) ∧
    decodeNat 0x1713FFFB = .instr (.ori 24 19 65531) ∧
    decodeNat 0x1AA0FFFD = .instr (.movi 21 65533) ∧
    decodeNat 0x23FD7FFD = .instr (.br 31 58 1 16381) ∧
    decodeNat 0x27FFFFFC = .instr (.jmp 67108860) := by decide

/-- Words written out from the encodings (R287, R289 to R297): JMPI to SPAWN. -/
theorem test_decode_3 :
    decodeNat 0x28190000 = .instr (.jmpi 25) ∧
    decodeNat 0x2CFFFFFE = .instr (.call 0 16777214) ∧
    decodeNat 0x30130000 = .instr (.ret 19) ∧
    decodeNat 0x3400FFFD = .instr (.yield 65533) ∧
    decodeNat 0x381A0000 = .instr (.halt 26) ∧
    decodeNat 0x3AFF0001 = .instr (.haltR 23 31) ∧
    decodeNat 0x3E9CFFF7 = .instr (.spawn 20 28 65527) := by decide

/-- Words written out from the encodings (R287, R289 to R297): TOUCH to LD. -/
theorem test_decode_4 :
    decodeNat 0x43D90500 = .instr (.touch 30 25 20) ∧
    decodeNat 0x4376F001 = .instr (.resolve 27 22 30 0) ∧
    decodeNat 0x4313D842 = .instr (.poison 24 19 27 1) ∧
    decodeNat 0x42BD0003 = .instr (.cancel 21 29) ∧
    decodeNat 0x43FA0004 = .instr (.launch 31 26) ∧
    decodeNat 0x400000C5 = .instr (.gang 3) ∧
    decodeNat 0x40000006 = .instr (.disband) ∧
    decodeNat 0x42DE0007 = .instr (.depdec 22 30) ∧
    decodeNat 0x42600008 = .instr (.reside 19) ∧
    decodeNat 0x43B89AC9 = .instr (.bind 29 24 19 11) ∧
    decodeNat 0x4355000A = .instr (.hold 26 21) ∧
    decodeNat 0x42FF000B = .instr (.fspill 23 31) ∧
    decodeNat 0x429C000C = .instr (.ffill 20 28) ∧
    decodeNat 0x63D97FFC = .instr (.ld 30 25 1 16380) := by decide

/-- Words written out from the encodings (R287, R289 to R297): ST to CPY_Q. -/
theorem test_decode_5 :
    decodeNat 0x6776BFF9 = .instr (.st 27 22 2 16377) ∧
    decodeNat 0x6B133FFB = .instr (.ldv 24 19 16379) ∧
    decodeNat 0x6EBD3FF8 = .instr (.stv 21 29 16376) ∧
    decodeNat 0x73FA3FF5 = .instr (.ldm 31 26 16373) ∧
    decodeNat 0x77973FFF = .instr (.stm 28 23 16383) ∧
    decodeNat 0x7B34E5C0 = .instr (.gath 25 20 28 23) ∧
    decodeNat 0x7ADECD01 = .instr (.scat 22 30 25 20) ∧
    decodeNat 0x7A7B4502 = .instr (.amo 19 27 1 0 1 4) ∧
    decodeNat 0x7BB81403 = .instr (.cas 29 24 2 1) ∧
    decodeNat 0x78000044 = .instr (.fence 1) ∧
    decodeNat 0x7AE00685 = .instr (.adv 23 1 10) ∧
    decodeNat 0x7A9CB806 = .instr (.permit 20 28 23) ∧
    decodeNat 0x7FD9A000 = .instr (.cpy 30 25 20) ∧
    decodeNat 0x7F76000B = .instr (.cpyQ 27 22 3) := by decide

/-- Words written out from the encodings (R287, R289 to R297): AMSG to RSTV_LANE_RANGE. -/
theorem test_decode_6 :
    decodeNat 0x8313D800 = .instr (.amsg 24 19 27) ∧
    decodeNat 0x82BDC001 = .instr (.amsgP 21 29 24) ∧
    decodeNat 0x87FA02BD = .instr (.rstv 31 26 21 29) ∧
    decodeNat 0x8797FF55 = .instr (.rstvLaneRange 28 23 31 26 21) := by decide

/-- Words written out from the encodings (R287, R289 to R297): VADD to VIDX. -/
theorem test_decode_7 :
    decodeNat 0x8B34E5C0 = .instr (.vadd 25 20 28 23) ∧
    decodeNat 0x8ADECD01 = .instr (.vsub 22 30 25 20) ∧
    decodeNat 0x8A7BB782 = .instr (.vmul 19 27 22 30) ∧
    decodeNat 0x8BB89EC3 = .instr (.vfma 29 24 19 27) ∧
    decodeNat 0x8B55EE04 = .instr (.vmin 26 21 29 24) ∧
    decodeNat 0x8AFFD545 = .instr (.vmax 23 31 26 21) ∧
    decodeNat 0x8A9C05C6 = .instr (.vabs 20 28 23) ∧
    decodeNat 0x8BD9A707 = .instr (.vsel 30 25 20 28) ∧
    decodeNat 0x8B760788 = .instr (.vmov 27 22 30) ∧
    decodeNat 0x8B13DD89 = .instr (.vbit 24 19 27 22) ∧
    decodeNat 0x8ABDC4CA = .instr (.vperm 21 29 24 19) ∧
    decodeNat 0x8BFA054B = .instr (.vtrn 31 26 21) ∧
    decodeNat 0x8B9707CC = .instr (.vbcast 28 23 31) ∧
    decodeNat 0x8B34070D = .instr (.vidx 25 20 28) := by decide

/-- Words written out from the encodings (R287, R289 to R297): VRED to VTANH. -/
theorem test_decode_8 :
    decodeNat 0x8ADE064E = .instr (.vred 22 30 25) ∧
    decodeNat 0x8A7BB78F = .instr (.vdot 19 27 22 30) ∧
    decodeNat 0x8BB89ED0 = .instr (.vcvt 29 24 19 27) ∧
    decodeNat 0x8F55E8DE = .instr (.vcmp 26 21 29 0 3 0 1 14) ∧
    decodeNat 0x92FF0680 = .instr (.vrcp 23 31 26) ∧
    decodeNat 0x929C05C1 = .instr (.vrsq 20 28 23) ∧
    decodeNat 0x93D90502 = .instr (.vexp2 30 25 20) ∧
    decodeNat 0x93760783 = .instr (.vlog2 27 22 30) ∧
    decodeNat 0x931306C4 = .instr (.vsin 24 19 27) ∧
    decodeNat 0x92BD0605 = .instr (.vtanh 21 29 24) := by decide

/-- Words written out from the encodings (R287, R289 to R297): MADD to MCOLL. -/
theorem test_decode_9 :
    decodeNat 0x9BFAAC40 = .instr (.madd 31 26 21 1) ∧
    decodeNat 0x9B97FC01 = .instr (.msub 28 23 31 0) ∧
    decodeNat 0x9B34E442 = .instr (.mmul 25 20 28 1) ∧
    decodeNat 0x9ADECC03 = .instr (.mfma 22 30 25 0) ∧
    decodeNat 0x9A7BB444 = .instr (.mscl 19 27 22 1) ∧
    decodeNat 0x9BB80445 = .instr (.msq 29 24 1) ∧
    decodeNat 0x9B550406 = .instr (.mrelu 26 21 0) ∧
    decodeNat 0x9AFF0447 = .instr (.mexp 23 31 1) ∧
    decodeNat 0x9A9C0408 = .instr (.msigm 20 28 0) ∧
    decodeNat 0x9BD9A409 = .instr (.mset 30 25 20 0) ∧
    decodeNat 0x9B768C0A = .instr (.mcoll 27 22 2 1 0) := by decide

/-- Words written out from the encodings (R287, R289 to R297): LMBIND to LMFRZ_OFF. -/
theorem test_decode_10 :
    decodeNat 0xA313D9E0 = .instr (.lmbind 24 19 27 0 30) ∧
    decodeNat 0xA2BDC7B0 = .instr (.lmbindUnbind 21 29 24 1 27) ∧
    decodeNat 0xA3FAA9D1 = .instr (.lmrun 31 26 21 29) ∧
    decodeNat 0xA397F912 = .instr (.lmmom 28 23 31) ∧
    decodeNat 0xA334E173 = .instr (.lmzero 25 20 28 23) ∧
    decodeNat 0xA2DECDC4 = .instr (.lmdrn 22 30 25 1 28) ∧
    decodeNat 0xA27BB284 = .instr (.lmdrnV 19 27 22 0) ∧
    decodeNat 0xA3B89BB5 = .instr (.lmsclOn 29 24 19 27) ∧
    decodeNat 0xA355E985 = .instr (.lmsclOff 26 21 29 24) ∧
    decodeNat 0xA2FFD156 = .instr (.lmchk 23 31 26 21) ∧
    decodeNat 0xA29CB9F7 = .instr (.lmcb 20 28 23 31) ∧
    decodeNat 0xA3D9A1C8 = .instr (.lmwt 30 25 20 28) ∧
    decodeNat 0xA376F399 = .instr (.lmfrzOn 27 22 30 25) ∧
    decodeNat 0xA313D969 = .instr (.lmfrzOff 24 19 27 22) := by decide

/-- Words written out from the encodings (R287, R289 to R297): CKACC to NOP. -/
theorem test_decode_11 :
    decodeNat 0xAABD0000 = .instr (.ckacc 21 29) ∧
    decodeNat 0xABFAA801 = .instr (.cktst 31 26 21) ∧
    decodeNat 0xF380FDC0 = .instr (.mfs 28 1015) ∧
    decodeNat 0xF019FD01 = .instr (.mts 25 1012) ∧
    decodeNat 0xF0160002 = .instr (.trap 22) ∧
    decodeNat 0xF0000003 = .instr (.eret) ∧
    decodeNat 0xF01DC4C4 = .instr (.xinv 29 24 19) ∧
    decodeNat 0xF0000005 = .instr (.cmoI) ∧
    decodeNat 0xF0170045 = .instr (.cmoDrop 23) ∧
    decodeNat 0xF0140085 = .instr (.cmoPf 20) ∧
    decodeNat 0xFC000000 = .instr (.nop) := by decide


/-- Ill-formed terms of the scalar and control instructions, one for each check. -/
theorem test_illformed_scalar :
    [Instr.cmp 0 0 0 10 0, .call 0 0, .spawn 0 29 0, .touch 0 0 3, .hold 24 0, .ldm 16 0 0, .stm 16 0 0,
      .gath 0 0 0 13, .gath 0 0 0 16, .scat 0 0 0 14, .amo 0 0 0 0 0 10, .amo 0 0 0 0 0 9, .amo 0 0 0 6 0 0,
      .amo 0 0 0 2 0 0, .amo 0 0 0 4 1 0, .amo 0 0 1 0 0 1, .cas 31 0 0 0, .cas 0 0 2 0, .cas 0 0 6 0,
      .adv 23 0 0].all (fun i => !wellFormed i) = true := by decide

/-- Ill-formed terms of the vector instructions. -/
theorem test_illformed_vector :
    [Instr.rstv 0 0 24 0, .rstv 0 0 0 24, .rstvLaneRange 0 0 0 24 0, .rstvLaneRange 0 0 0 0 24, .vadd 0 0 0 11,
      .vsub 0 0 0 11, .vmul 0 0 0 11, .vmin 0 0 0 11, .vmax 0 0 0 11, .vfma 0 0 0 11, .vfma 24 0 0 0, .vabs 0 0 11,
      .vsel 0 0 0 13, .vsel 24 0 0 0, .vmov 0 0 14, .vbit 0 0 0 14, .vbit 24 0 0 0, .vperm 0 0 0 13, .vtrn 0 0 13,
      .vtrn 17 0 0, .vtrn 0 17 0, .vbcast 0 0 13, .vidx 0 0 8, .vred 0 0 11, .vdot 0 0 0 2, .vdot 0 0 0 8,
      .vdot 0 0 0 13, .vdot 24 0 0 0, .vcvt 0 0 14 0, .vcvt 0 0 0 14, .vcmp 0 0 0 0 10 0 0 0, .vcmp 0 0 0 0 0 0 0 11,
      .vcmp 0 0 0 0 6 0 0 8, .vrcp 0 0 7, .vrsq 0 0 11, .vexp2 0 0 7, .vlog2 0 0 11, .vsin 0 0 7,
      .vtanh 0 0 11].all (fun i => !wellFormed i) = true := by decide

/-- Ill-formed terms of the moment, loom and system instructions. -/
theorem test_illformed_others :
    [Instr.madd 16 0 0 0, .madd 0 16 0 0, .madd 0 0 16 0, .msub 16 0 0 0, .mmul 0 16 0 0, .mfma 0 0 16 0, .mscl 16 0 0 0,
      .mscl 0 16 0 0, .msq 16 0 0, .mrelu 0 16 0, .mexp 16 0 0, .msigm 0 16 0, .mset 16 0 0 0, .mcoll 0 16 0 0 0,
      .mcoll 0 0 0 1 0, .mcoll 0 0 1 1 0, .lmbind 0 0 0 0 8, .lmbind 0 0 0 0 15, .lmrun 0 0 0 10, .lmrun 0 0 0 14,
      .lmdrn 0 0 0 0 7, .lmdrn 0 0 0 0 13, .ckacc 24 0, .ckacc 0 24, .cktst 24 0 0, .cktst 0 24 0, .mfs 0 4, .mfs 0 26,
      .mts 0 44, .mts 0 64, .xinv 0 0 3, .xinv 1 0 0, .xinv 0 1 1].all (fun i => !wellFormed i) = true := by decide

/-- Ill-formed events: a unit that does not exist, and a word that is an instruction. -/
theorem test_illformed_events :
    [Instr.unassignedInstructionWord 0x04221800, .spillWriteAck 3200, .taskDispatch 65536, .loomPieceStart 4095,
      .ptsTick 0 9, .wcntIdleTick 3200 0, .contextSwitch 0 8 0, .tilePushLanded 0 4096 0, .tilePushLanded 0 0 4,
      .outputWriteBackDone 0 4096, .placerTask 16, .balancerCheck 16, .activationCreate 0 0 16,
      .hostMessageWrite 2 0 64 0, .ptpMessage 2 0, .linkMarginLoss 8 false false, .moduleFailureMark 1024,
      .clusterRetest 0 4 0, .clusterRetest 0 0 4].all (fun i => !wellFormed i) = true := by decide

/-- Well-formed terms at the edges of the same checks. -/
theorem test_wellformed_edges :
    [Instr.cmp 0 0 0 9 0, .spawn 0 28 0, .touch 0 0 2, .gath 0 0 0 15, .amo 0 0 3 2 0 1, .amo 0 0 0 0 1 9, .cas 30 0 5 0,
      .adv 24 0 0, .vtrn 16 16 12, .vcmp 0 0 0 0 9 0 0 7, .vdot 23 0 0 12, .mcoll 31 15 2 7 1, .lmbind 0 0 0 0 14, .mfs 0 63,
      .xinv 31 31 2, .unassignedInstructionWord 0, .taskDispatch 3199, .clusterRetest 65535 3 3,
      .ptsTick 0 7].all wellFormed = false ∧
    [Instr.cmp 0 0 0 9 0, .spawn 0 28 0, .touch 0 0 2, .gath 0 0 0 15, .amo 0 0 3 2 0 1, .amo 0 0 0 0 1 9, .cas 30 0 5 0,
      .adv 24 0 0, .vtrn 16 16 12, .vcmp 0 0 0 0 9 0 0 7, .vdot 23 0 0 12, .mcoll 31 15 2 7 1, .lmbind 0 0 0 0 14, .mfs 0 63,
      .xinv 31 31 2, .unassignedInstructionWord 0, .taskDispatch 3199, .clusterRetest 3199 3 3,
      .ptsTick 0 7, .ptsTick 0 8, .ptsTick 4095 4,
      .ptsTick 69631 0].all wellFormed = true := by decide


/-- A page of 4 KiB of context 0 whose translation a station holds. -/
def page (n leaf : Nat) : Transl := { space := 0, page := n, bits := 12, leaf := leaf }

/-- Leaves with write and L1 permission (R144): HBM at 0x5000, an array, the device window, module 1, host port 0. -/
def hbmLeaf : Nat := 5 * 4096 + 512 + 1024
def deviceLeaf : Nat := 3 * 4 + 512 + 0x10000000000
def remoteLeaf : Nat := 4 * 4 + 512 + 2 ^ 52
def hostLeaf : Nat := 5 * 4 + 512 + 7 * 4096

/-- The pages of the tests: 1, 8 and the stack area at 256 HBM, 2 devices, 3 another module, 4 a host. -/
def die0 : Die :=
  { stations := [(0, [page 256 hbmLeaf, page 1 hbmLeaf, page 2 deviceLeaf, page 3 remoteLeaf, page 4 hostLeaf, page 8 hbmLeaf])] }

/-- The task in slot 0 of cluster 0, on core 0, unprivileged, at 0x1000, with a handler at 0x8000. -/
def task0 : Task := { st := .running, started := true, visible := true, home := futureHandle 0 0 0 1, launch := 1 }
def core0 : Core :=
  { running := some 0, pc := 0x1000, unit := { base := 0x1000, here := 0x1000, word := 0x1234 },
    trap := { base := 0x8000, written := true } }
def cluster0 : Cluster := { tasks := [(0, task0)], entries := [(0, { st := .empty, gen := 1, count := 1, task := true })] }

/-- That task with registers of its core. -/
def work (regs : SMap Word) : State :=
  { core := { core0 with regs := regs }, clusters := [(0, cluster0)], dies := [(0, die0)], pod := { populated := [0, 1] } }

/-- The same in privileged code. -/
def boss (regs : SMap Word) : State := { work regs with core := { core0 with regs := regs, priv := true } }

/-- Whether an outcome is a next state of which something holds. -/
def after (o : Out) (p : State → Bool) : Bool :=
  match o with
  | .next t => p t
  | _ => false

/-- Whether a result is one of which something holds. -/
def okAnd {ε α : Type} (r : Except ε α) (p : α → Bool) : Bool :=
  match r with
  | .ok x => p x
  | .error _ => false

/-- Whether a window transfer was made. -/
def isMoved (w : Window) : Bool :=
  match w with
  | .moved _ _ => true
  | _ => false

/-- Whether a handler can be entered, as a value. -/
def readyNow (s : State) : Bool := s.core.trap.written && s.core.trap.base != 0 && decide (s.core.b + 40 ≤ s.core.f + 128)

theorem work_ready (regs : SMap Word) : (work regs).handlerReady :=
  ⟨rfl, (by decide : (0x8000 : Word) ≠ 0), (by decide : 0 + 40 ≤ 0 + 128)⟩

theorem work_alone : (work []).alone := ⟨rfl, rfl, by decide⟩

theorem boss_ready (regs : SMap Word) : (boss regs).handlerReady :=
  ⟨rfl, (by decide : (0x8000 : Word) ≠ 0), (by decide : 0 + 40 ≤ 0 + 128)⟩

/-- Two WIDE payloads before an ADDI, none before a SUB. -/
theorem witness_ScalarResults :
    (let s : State := { work [(1, 5)] with core := { (work [(1, 5)]).core with unit := { wides := 2, wide := 0x80000000001 } } };
      s.core.unit.wides ≤ 2 ∧ scalarResult s (.addi 2 1 3) = some (2, 0xF800000000010008)) ∧
    scalarResult (work [(1, 5), (2, 7)]) (.sub 2 1 2) = some (2, 0xFFFFFFFFFFFFFFFE) := by decide

/-- Divisors 7 and 0; a field up to bit 63, and one that ends at bit 64; the last condition code and the first beyond. -/
theorem witness_PartialScalarResults :
    (work [(1, 5), (2, 7)]).x 2 ≠ 0 ∧ (work [(1, 5)]).x 2 = 0 ∧
    (let b := (work [(2, 0x013F)]).x 2;
      0 < (b.extractLsb' 8 7).toNat ∧ (b.extractLsb' 0 6).toNat + (b.extractLsb' 8 7).toNat ≤ 64) ∧
    (let b := (work [(2, 0x4001)]).x 2;
      64 < (b.extractLsb' 0 6).toNat + (b.extractLsb' 8 7).toNat) ∧
    (9 : BitVec 5).toNat < 10 ∧ 10 ≤ (10 : BitVec 5).toNat ∧ ∀ regs, (work regs).handlerReady :=
  ⟨by decide, by decide, by decide, by decide, by decide, by decide, work_ready⟩

theorem witness_ControlTransfers :
    (work []).core.unit.wides ≤ 2 ∧ ((work [(1, 0x2000)]).x 1).extractLsb' 0 2 = 0 ∧
    ((work [(1, 0x2003)]).x 1).extractLsb' 0 2 ≠ 0 ∧ (work [(1, 0x2003)]).handlerReady :=
  ⟨by decide, by decide, by decide, work_ready _⟩

/-- The last call that finds room, a return to the floor, and returns that take ILLEGAL. -/
theorem witness_CallAndReturn :
    (let s : State := { work [] with core := { core0 with b := 72 } };
      s.core.b + 8 * (3 : BitVec 2).toNat + 32 ≤ s.core.f + 128) ∧
    (let s : State := { work [] with core := { core0 with b := 24, regs := [(25, 0x2003)] } };
      let k := ((s.x 1).extractLsb' 0 2).toNat;
      k ≠ 0 ∧ s.core.f + 8 * k ≤ s.core.b) ∧
    (let k := (((work [(1, 0x2003)]).x 1).extractLsb' 0 2).toNat;
      k = 0 ∨ (work [(1, 0x2003)]).core.b < 8 * k) ∧ (work [(1, 0x2003)]).handlerReady :=
  ⟨by decide, by decide, by decide, work_ready _⟩

/-- A call and a return that move a window, with a handler that can be entered behind them; a full stack region. -/
theorem witness_CallAndReturn_windows :
    (let s : State := { work [] with core := { core0 with b := 100 } };
      s.core.running = some 0 ∧ s.core.f + 128 < s.core.b + 8 * (3 : BitVec 2).toNat + 32 ∧
      okAnd (stackDepth s s.ck s.core.space 0) (fun r => r.1 = 0 && !r.2.1 &&
        okAnd (stackWrite s.ck s.core.space 0 r.2.2 3648 ((List.range 32).map fun i => s.core.logical (s.core.f + i))) (fun s1 =>
          okAnd (stackWrite s.ck s.core.space 0 s1 0 [BitVec.ofNat 64 256]) (fun s2 =>
            readyNow { s2 with core := { s2.core with f := s.core.f + 32 } }))) = true) ∧
    (let s : State := { work [] with core := { core0 with b := 80 }, mem := [(0x5000, 0x38), (0x5001, 0x31)] };
      s.core.running = some 0 ∧ s.core.f + 128 < s.core.b + 8 * (3 : BitVec 2).toNat + 32 ∧ readyNow s = true ∧
      okAnd (stackDepth s s.ck s.core.space 0) (fun r => decide (12736 < r.1 + 256) && !r.2.1) = true) ∧
    (let s : State := { work [(25, 0x2003)] with core := { core0 with b := 24, f := 24, regs := [(25, 0x2003)] }, mem := [(0x5001, 1)] };
      let k := ((s.x 1).extractLsb' 0 2).toNat;
      k ≠ 0 ∧ 8 * k ≤ s.core.b ∧ s.core.b < s.core.f + 8 * k ∧
      okAnd (stackDepth s s.ck s.core.space 0) (fun r => r.1 = 256 && !r.2.1 &&
        okAnd (stackRead s.ck s.core.space 0 r.2.2 3648 32) (fun x => !x.2.1 &&
          okAnd (stackWrite s.ck s.core.space 0 x.2.2 0 [0]) (fun s2 =>
            readyNow { s2 with core := { s2.core with f := 0 } }))) = true) := by decide +kernel

/-- An ERET from base 8 and one from base 0 of privileged code, one of unprivileged code. -/
theorem witness_TrapsAndReturns_erets :
    (let s : State := { boss [] with core := { (boss []).core with
        b := 8, trap := { core0.trap with pc := 0x3000, cause := 0x11F, depth := 1 } } };
      s.core.priv = true ∧ s.core.trap.kill = 0 ∧ s.task.cancel = false ∧ 8 ≤ s.core.b ∧ s.core.f + 8 ≤ s.core.b ∧
      s.core.trap.pc.extractLsb' 0 2 = 0) ∧
    ((boss []).core.priv = true ∧ (boss []).core.trap.kill = 0 ∧ (boss []).task.cancel = false ∧ (boss []).core.b < 8) ∧
    (work []).core.priv = false ∧ (work [(1, 7)]).handlerReady ∧ (boss []).handlerReady :=
  ⟨by decide, by decide, by decide, work_ready _, boss_ready _⟩

/-- A trap before the first write of TBASE, and one while it is 0; an ERET under the kill flag, one of a cancelled task, one
to an address that is not aligned, one that brings its window back first. -/
theorem witness_TrapsAndReturns_ends :
    ({ work [] with core := { core0 with trap := {} } } : State).core.trap.written = false ∧
    (let s : State := { work [] with core := { core0 with trap := { written := true } } };
      s.core.running = some 0 ∧ s.core.trap.written = true ∧ s.core.trap.base = 0) ∧
    (let s : State := { boss [] with core := { core0 with priv := true, trap := { core0.trap with kill := 1 } } };
      s.core.running = some 0 ∧ s.core.priv = true ∧ s.core.trap.kill = 1) ∧
    (let s : State := { boss [] with clusters := [(0, { cluster0 with tasks := [(0, { task0 with cancel := true })] })] };
      s.core.running = some 0 ∧ s.core.priv = true ∧ s.core.trap.kill = 0 ∧ s.task.cancel = true) ∧
    (let s : State := { boss [] with core := { core0 with priv := true, b := 8, trap := { core0.trap with pc := 0x3002 } } };
      s.core.priv = true ∧ s.core.trap.kill = 0 ∧ s.task.cancel = false ∧ 8 ≤ s.core.b ∧
      s.core.trap.pc.extractLsb' 0 2 ≠ 0 ∧ readyNow s = true) ∧
    (let s : State := { boss [] with core := { core0 with
        priv := true, b := 8, f := 8, trap := { core0.trap with pc := 0x3000 } } };
      s.core.priv = true ∧ s.core.trap.kill = 0 ∧ s.task.cancel = false ∧ 8 ≤ s.core.b ∧ s.core.b < s.core.f + 8 ∧
      s.core.trap.pc.extractLsb' 0 2 = 0 ∧ isMoved (fillWindow s) = true) := by decide +kernel

theorem witness_TrapsAndReturns_both :
    ((work []).handlerReady ∧ (work []).alone) ∧ (work []).core.f ≤ (work []).core.b ∧
    (work []).core.unit.base.extractLsb' 0 2 = 0 ∧ (work []).core.trap.kill = 0 ∧ (work []).task.cancel = false ∧
    ∃ t, exec (.trap 1) (work []) = .next t :=
  ⟨⟨work_ready _, work_alone⟩, by decide, by decide, by decide, by decide, _, rfl⟩

theorem witness_YieldReloads :
    (boss []).core.priv = true ∧ (work []).core.priv = false ∧ (work []).task.cancel = false ∧
    (work []).core.preempt = false ∧ (work []).core.running = some 0 ∧
    (let s : State := { work [] with clusters := [(0, { cluster0 with tasks := [(0, { task0 with cancel := true })] })] };
      s.core.priv = false ∧ s.core.running = some 0 ∧ s.task.cancel = true) := by decide

/-- Whether a task was parked. -/
def isDone (p : Park) : Bool :=
  match p with
  | .done _ => true
  | _ => false

/-- A request whose park saves the whole wide state. -/
theorem witness_YieldReloads_parks :
    let s : State := { work [] with core := { core0 with preempt := true } }
    s.core.priv = false ∧ s.core.running = some 0 ∧ s.task.cancel = false ∧ s.core.preempt = true ∧
      isDone (parkPreempt s (s.core.unit.here + 4)) = true ∧ s.core.gang.standing = false ∧ s.core.gang.save = none ∧
      (match saveWindow s 0 with
        | (.done s1, _) => okAnd (stackWrite s.ck s.core.space 0 s1 64
            ((List.range 192).map (fun i => (s.core.v (i / 8)).extractLsb' (64 * (i % 8)) 64) ++
              (List.range 256).map fun i => (s.core.m (i / 16)).extractLsb' (64 * (i % 16)) 64)) (fun _ => true)
        | _ => false) = true := by decide +kernel


/-- An offset of an address in the near form (R137). -/
def near (off : Nat) : Word := BitVec.ofNat 64 (2 ^ 63 + off)

/-- What an access of the current core resolves to. -/
def goal (s : State) (a : Word) (n : Nat) (k : AccKind) : AccR := (resolve s s.ck s.core.space a n k).1

/-- Nothing of a task is under way at another module where nothing is to land. -/
theorem ordered_of (s : State) (h : s.pod.late = []) : s.ordered := by
  intro use ps
  rw [orderWaits, h]
  rfl

theorem work_ordered (regs : SMap Word) : (work regs).ordered := ordered_of _ rfl

/-- A load of the last byte of the scratchpad, one of HBM, of another module, of a host, of a device; a misaligned one, and
one past the scratchpad. -/
theorem witness_LoadGeneral :
    (let s := work [(1, near 131071)];
      goal s (s.fmAddress 1 0 1) 1 .load = .ok (.array 0 131071) 0 ∧ s.pod.qnt = [] ∧
      (let s1 := (resolve s s.ck s.core.space (s.fmAddress 1 0 1) 1 .load).2;
        s1.marked (arrayKey 0 131071) 1 = false ∧ s1.badCopy (s.fmAddress 1 0 1).toNat (arrayKey 0 131071) 0 = false)) ∧
    (let s := work [(1, 0x1008)];
      goal s (s.fmAddress 1 0x3FFF 8) 8 .load = .ok (.hbm 0x5000) hbmLeaf ∧
      (let s1 := (resolve s s.ck s.core.space (s.fmAddress 1 0x3FFF 8) 8 .load).2;
        s1.marked 0x5000 8 = false ∧ s1.badCopy 0x1000 0x5000 hbmLeaf = false)) ∧
    (let s := work [(1, 0x3008)];
      goal s (s.fmAddress 1 0 8) 8 .load = .ok (.remote 1 0x3008) remoteLeaf ∧ s.core.running.isSome) ∧
    goal (work [(1, 0x4010)]) ((work [(1, 0x4010)]).fmAddress 1 0 8) 8 .load = .ok (.host 0 0x7010) hostLeaf ∧
    goal (work [(1, 0x2000)]) ((work [(1, 0x2000)]).fmAddress 1 0 8) 8 .load = .ok (.device 0x10000000000) deviceLeaf ∧
    ((work [(1, 0x1001)]).fmAddress 1 0 8).toNat % 8 ≠ 0 ∧
    goal (work [(1, near 131072)]) ((work [(1, near 131072)]).fmAddress 1 0 1) 1 .load =
      .trap 4 (0x0702000000000000 + 131072 - 0x0002000000000000) ∧ ∀ regs, (work regs).ordered :=
  ⟨by decide, by decide, by decide, by decide, by decide, by decide, by decide, work_ordered⟩

/-- Context 0 with one slot, whose entry is in the middle of its wake sequence: an allocation waits. -/
def blocked : State :=
  { work [] with clusters := [(0, { cluster0 with
      ctxs := [(0, { live := true, ftLimit := 1 })],
      entries := [(0, { st := .full, gen := 1, count := 1, toWake := [7] })] })] }

theorem blocked_waits : ladderWaits blocked 0 1 0 0 = true := by
  obtain ⟨⟨i, j⟩, h⟩ := Option.isSome_iff_exists.1 (twoLadders_isSome (s := blocked) (die := 0) (by decide) (by decide))
  have e : (createJob blocked 0 0 0).1 = 5 := by
    unfold createJob
    rw [h]
    rfl
  unfold ladderWaits
  simp only [e]
  decide

theorem blocked_device : devWaits blocked 0x1000C800300 1 = true := by
  have e : devOf 0x1000C800300 = .die 0 0x300 := by decide +kernel
  have n : (1 : Word).toNat = 1 := by decide
  have a : (blocked.dieAt 0).lca = 0 := rfl
  have b : (blocked.dieAt 0).lcb = 0 := rfl
  rw [devWaits, e, regWaits, n, a, b, blocked_waits]
  rfl

theorem witness_StoreGeneral :
    (let s := work [(1, near 131064)];
      goal s (s.fmAddress 1 0 8) 8 .store = .ok (.array 0 131064) 0 ∧ s.pod.qnt = [] ∧
      beforeWrite s (arrayKey 0 131064) 8 = some s) ∧
    (let j : Job := { id := 4, ck := 0, core := 1, slot := 3, count := 1, len := 64, rsegs := [.mem 0x5000 64 hbmLeaf] };
      let s : State := { work [(1, 0x1000)] with pod := { jobs := [j] } };
      goal s (s.fmAddress 1 0 8) 8 .store = .ok (.hbm 0x5000) hbmLeaf ∧ s.pod.qnt = [] ∧
      beforeWrite (resolve s s.ck s.core.space (s.fmAddress 1 0 8) 8 .store).2 0x5000 8 = none) ∧
    goal (work [(1, 0x3008)]) ((work [(1, 0x3008)]).fmAddress 1 0 8) 8 .store = .ok (.remote 1 0x3008) remoteLeaf ∧
    goal (work [(1, 0x4010)]) ((work [(1, 0x4010)]).fmAddress 1 0 8) 8 .store = .ok (.host 0 0x7010) hostLeaf ∧
    goal (work [(1, 0x2000)]) ((work [(1, 0x2000)]).fmAddress 1 0 8) 8 .store = .ok (.device 0x10000000000) deviceLeaf ∧
    devWaits (work []) 0x10000000000 7 = false ∧ devWaits blocked 0x1000C800300 1 = true ∧
    ((work [(1, 0x1004)]).fmAddress 1 0 8).toNat % 8 ≠ 0 ∧
    goal (work [(1, near 262136)]) ((work [(1, near 262136)]).fmAddress 1 0 8) 8 .store = .trap 4 0x070000000003FFF8 :=
  ⟨by decide, by decide +kernel, by decide, by decide, by decide, by decide, blocked_device, by decide, by decide⟩

/-- Registers as sources and destination, a queue with room as destination, a queue without the element as source. -/
theorem witness_VectorLaneResults :
    accepted (.vadd 23 1 2 8) = true ∧ (∃ f, laneOp (work []) (.vadd 23 1 2 8) = some (23, 32, [1, 2], f)) ∧
    (∃ vs, (work []).readV 1 = .inl vs) ∧ (∃ vs, (work []).readV 2 = .inl vs) ∧ (work []).canWrite 23 ∧
    (let s : State := { work [] with core := { core0 with queues := [(7, { n := 15, region := some 65536 })] } };
      s.canWrite 31) ∧
    (∃ m v, (work []).readV 24 = .inr (m, v)) ∧ (work []).handlerReady :=
  ⟨by decide, ⟨_, rfl⟩, ⟨_, rfl⟩, ⟨_, rfl⟩, .inl (by decide), .inr ⟨rfl, by decide, by decide⟩, ⟨_, _, rfl⟩, work_ready _⟩

theorem witness_VectorMovers :
    (∃ xs, (work []).readV 1 = .inl xs) ∧ (work []).canWrite 0 ∧ (13 : BitVec 5).toNat ≤ 13 ∧ (0 : BitVec 5).toNat < 24 ∧
    (∃ ys, (work []).readV 2 = .inl ys) ∧ (12 : BitVec 5).toNat ≤ 12 ∧ (7 : BitVec 5).toNat ≤ 7 ∧
    (10 : BitVec 5).toNat ≤ 10 ∧ (16 : BitVec 5).toNat ≤ 16 :=
  ⟨⟨_, rfl⟩, .inl (by decide), by decide, by decide, ⟨_, rfl⟩, by decide, by decide, by decide, by decide⟩

/-- A conversion of zeros to I8, none of whose lanes overflows; one of the largest finite F32 to E4M3 under a mode in
which overflow traps, of the leader and of a follower; and a comparison at the last accepted code. -/
theorem witness_ConversionsAndCompares :
    (∃ xs, (work []).readV 1 = .inl xs) ∧ (work []).canWrite 0 ∧
    (let s := work [];
      ∀ l, l < 16 → (convType 0 s.rm (stochBits s 0 l) s.ovf (decType 8 (laneOf (s.operand 1 0) 32 l))).2 = false) ∧
    (let s : State := { work [] with core := { core0 with
        vregs := [(1, BitVec.ofNat 512 0x7F7FFFFF)], modes := { fpmode := 8 } } };
      s.ovf = true ∧ (convType 11 s.rm (stochBits s 0 0) s.ovf (decType 8 (laneOf (s.operand 1 0) 32 0))).2 = true ∧
        s.core.trap.written = true) ∧
    (let s : State := { work [] with
        core := { core0 with gang := { code := 1, standing := true }, modes := { fpmode := 8 } },
        cores := [(1, { gang := { follows := some 0 }, vregs := [(1, BitVec.ofNat 512 0x7F7FFFFF)] })] };
      s.members.length = 2 ∧ (convType 11 s.rm 0 s.ovf (decType 8 (laneOf (s.operand 1 1) 32 0))).2 = true ∧
      ∀ i, i < 16 → (convType 11 s.rm 0 s.ovf (decType 8 (laneOf (s.operand 1 0) 32 i))).2 = false) ∧
    (∃ ys, (work []).readV 2 = .inl ys) ∧ (9 : BitVec 4).toNat < 10 ∧ (7 : BitVec 4).toNat < 8 :=
  ⟨⟨_, rfl⟩, .inl (by decide), by decide +kernel, by decide +kernel, by decide +kernel, ⟨_, rfl⟩, by decide, by decide⟩

/-- Sources of +0, and a source whose variance in lane 0 is negative. -/
theorem witness_MomentResults :
    accepted (.madd 0 1 2 0) = true ∧ (∃ f, momentOp (work []) (.madd 0 1 2 0) = some (0, 0, [1, 2], f)) ∧
    negSource (momSources (work []) 0 [1, 2]) = none ∧ (work []).clamps = false ∧
    (let s : State := { work [] with core := { core0 with mregs := [(1, BitVec.ofNat 1024 (0xBF800000 * 2 ^ 32))] } };
      s.clamps = false ∧ (negSource (momSources s 0 [1, 2])).isSome) :=
  ⟨by decide, ⟨_, rfl⟩, by decide +kernel, by decide, by decide +kernel⟩

theorem witness_WideLoads :
    (let s := work [(1, near 131008)];
      memberAccesses s (s.fmAddress 1 0 64) = [(near 131008, 64)] ∧
      (resolveAll .load s 0 [(near 131008, 64)]).1 = .inl [⟨near 131008, .array 0 131008, 0, 64⟩] ∧
      s.pod.qnt = [] ∧ s.marked (arrayKey 0 131008) 64 = false ∧ 2 ^ 40 ≤ arrayKey 0 131008 ∧
      ∀ x ∈ (resolveAll .load s 0 [(near 131008, 64)]).2.cluster.l1, x.ue = false) ∧
    (work []).canWrite 0 ∧
    (let s := work [(1, near 131040)];
      (resolveAll .load s 0 (memberAccesses s (s.fmAddress 1 0 64))).1 = .inr (0, 3, near 131040)) ∧
    (work []).destUnder 0 = none ∧
    (let s : State := { work [] with core := { core0 with queues := [(0, { n := 16, region := some 65536 })] } };
      s.destUnder 24 = some (0, 8)) ∧
    (let s := work [(1, 0x1000)];
      (resolveAll .load s 0 [(s.fmAddress 1 0 128, 128)]).1 = .inl [⟨0x1000, .hbm 0x5000, hbmLeaf, 128⟩] ∧
      s.marked 0x5000 128 = false ∧ s.badCopy 0x1000 0x5000 hbmLeaf = false) ∧
    (let s := work [(1, 0x1040)];
      (resolveAll .load s 0 [(s.fmAddress 1 0 128, 128)]).1 = .inr (0, 3, 0x1040)) ∧
    16 ≤ (16 : BitVec 5).toNat :=
  ⟨by decide, .inl (by decide), by decide, by decide, by decide, by decide, by decide, by decide⟩

theorem witness_WideStores :
    (∃ vs, (work [(1, near 131008)]).readV 0 = .inl vs) ∧
    (let s := work [(1, near 131008)];
      (resolveAll .store s 0 (memberAccesses s (s.fmAddress 1 0 64))).1 =
        .inl [⟨near 131008, .array 0 131008, 0, 64⟩] ∧ s.pod.qnt = [] ∧
      beforeParts s [⟨near 131008, .array 0 131008, 0, 64⟩] = some s) ∧
    (let s := work [(1, near 131072)];
      (resolveAll .store s 0 (memberAccesses s (s.fmAddress 1 0 64))).1 = .inr (0, 4, 0x0700000000020000)) ∧
    (∃ m v, (work []).readV 31 = .inr (m, v)) ∧
    (let s := work [(1, 0x1F80)];
      (resolveAll .store s 0 [(s.fmAddress 1 0 128, 128)]).1 = .inl [⟨0x1F80, .hbm 0x5F80, hbmLeaf, 128⟩] ∧
      beforeParts s [⟨0x1F80, .hbm 0x5F80, hbmLeaf, 128⟩] = some s) ∧
    (let s := work [(1, 0x1F40)];
      (resolveAll .store s 0 [(s.fmAddress 1 0 128, 128)]).1 = .inr (0, 3, 0x1F40)) :=
  ⟨⟨_, rfl⟩, by decide, by decide, ⟨_, _, rfl⟩, by decide, by decide⟩

/-- Atomics of 8 bytes at the end of a page, with every use; codes that are not accepted; another module; a page without
write permission. -/
theorem witness_AtomicResults :
    (let s := work [(1, 0x1FF8)];
      amoAccepted 0 0 0 0 = true ∧ amoAccepted 2 3 0 1 = true ∧ amoAccepted 4 0 0 8 = true ∧ amoAccepted 5 0 1 9 = true ∧
      amoAccepted 6 0 0 0 = false ∧ goal s (s.x 1) 8 .atomic = .ok (.hbm 0x5FF8) hbmLeaf ∧
      s.marked 0x5FF8 8 = false ∧ s.cluster.l1? 0 0x1FF8 = none ∧ s.pod.qnt = [] ∧ beforeWrite s 0x5FF8 8 = some s ∧ qntFull s 0x5FF8 = false ∧
      s.pod.qntDone.find? (fun y => y.1 == 0x5FF8) = none ∧ s.core.running.isSome) ∧
    goal (work []) 0x3008 8 .atomic = .ok (.remote 1 0x3008) remoteLeaf ∧
    goal (work []) 0x2000 8 .atomic = .trap 4 0x0B00000000002000 ∧ (31 : BitVec 5) ≠ 30 := by decide

theorem witness_FenceOrders :
    (usedPending (work []) || answersPending (work []) || jobsPending (work [])) = false ∧
    (let s : State := { work [] with pod := { jobs := [{ id := 1, ck := 0, core := 0, slot := 0, count := 1 }] } };
      jobsPending s = true) ∧
    (let s : State := { work [] with clusters := [(0, { cluster0 with
        loom := { freezing := [{ ck := 0, slot := 0, count := 1, reg := 7 }] } })] };
      jobsPending s = true) := by decide


/-- The handle of the future in slot 5 of cluster 0, generation 3 (R16), and a cluster whose slot 5 holds an entry. -/
def h5 : Word := 0x4000000005000003
def e5 : Entry := { st := .empty, gen := 3, count := 3 }
def fut (e : Entry) (regs : SMap Word) : State :=
  { work regs with clusters := [(0, { cluster0 with entries := cluster0.entries ++ [(5, e)] })] }

/-- The same with a task in slot 5. -/
def futTask (e : Entry) (t : Task) (regs : SMap Word) : State :=
  { work regs with clusters := [(0, { cluster0 with
      entries := cluster0.entries ++ [(5, e)], tasks := cluster0.tasks ++ [(5, t)] })] }

theorem h5_slot : hSlot h5 = 5 := by decide
theorem h5_ck : hCk h5 = 0 := by decide
theorem h5_module : hModule h5 = 0 := by decide
theorem h5_gen : hGen h5 = 3 := by decide

theorem h5_form (s : State) (m : s.pod.populated.contains 0 = true) : FutureHandle s h5 :=
  ⟨by decide, by decide, by rw [h5_module]; exact m⟩

theorem cluster_of (s : State) (x : Cluster) (l : SMap Cluster) (h : s.clusters = (0, x) :: l) (c : s.ck = 0) :
    s.cluster = x := by
  simp only [State.cluster, State.clusterAt, h, c, mget, ite_true]

/-- Slot 5's future is resident in cluster 0 wherever the state says so. -/
theorem h5_resident (s : State) (e : Entry) (x : Cluster) (l : SMap Cluster) (k : s.clusters = (0, x) :: l)
    (m : s.pod.populated.contains 0 = true) (n : s.pod.module = 0) (c : s.ck = 0) (q : x.busy 5 = false)
    (h : x.entry 5 = e) (o : e.ue = false) (r : e.resident = true) (g : e.gen = 3) (u : e.consumed = false)
    (i : x.inRange s.core.space 5 = true) : ResidentHere s h5 e := by
  have w := cluster_of s x l k c
  exact ⟨⟨h5_form s m, by rw [h5_module, h5_ck, n, c]; exact ⟨rfl, rfl⟩, by rw [h5_slot, w]; exact q⟩,
    by rw [h5_slot, w]; exact h, o, r, by rw [h5_gen]; exact g, u, by rw [h5_slot, w]; exact i⟩

theorem fut_resident (e : Entry) (regs : SMap Word) (r : e.resident = true) (g : e.gen = 3) (u : e.consumed = false)
    (o : e.ue = false := by rfl) (w : e.toWake = [] := by rfl) : ResidentHere (fut e regs) h5 e :=
  h5_resident _ e _ _ rfl rfl rfl (by decide : 0 / 8 = 0)
    (show (none == some 5 || !e.toWake.isEmpty) = false by rw [w]; rfl) rfl o r g u
    (by decide : ({} : Cluster).inRange 0 5 = true)

theorem futTask_resident (e : Entry) (t : Task) (regs : SMap Word) (r : e.resident = true) (g : e.gen = 3)
    (u : e.consumed = false) (o : e.ue = false := by rfl) (w : e.toWake = [] := by rfl) :
    ResidentHere (futTask e t regs) h5 e :=
  h5_resident _ e _ _ rfl rfl rfl (by decide : 0 / 8 = 0)
    (show (none == some 5 || !e.toWake.isEmpty) = false by rw [w]; rfl) rfl o r g u
    (by decide : ({} : Cluster).inRange 0 5 = true)

/-- A handle of slot 64, the first outside the range of context 0. -/
theorem h64_outside : OutOfRange (work [(1, 0x4000000040000001)]) 0x4000000040000001 :=
  ⟨⟨by decide, by decide, by decide⟩, by decide, by decide⟩

/-- The current task with a load at another module under way. -/
def asking (regs : SMap Word) : State :=
  let l : Late := { dst := { ck := 0, slot := 0, count := 1, reg := 9 }, value := 0, ready := false }
  { work regs with pod := { populated := [0, 1], late := [l] } }

/-- Handles: bad, of a group, of a module that is not populated, of another module, of another cluster. -/
theorem witness_FutureOperands :
    futureOp (work [(1, h5)]) (.resolve 2 1 3 0) = some (2, h5, 9) ∧ badForm 0 = true ∧ hKind 0xC000000000000001 = 3 ∧
    (hKind 0x8000000200000001 = 2 ∧ (9 : Nat) ≠ 11) ∧ (work []).handlerReady ∧
    (badForm 0x4020000005000003 = false ∧ hKind 0x4020000005000003 = 1 ∧
      (work []).pod.populated.contains (hModule 0x4020000005000003) = false) ∧
    (FutureHandle (work []) 0x4010000005000003 ∧ hModule 0x4010000005000003 ≠ (work []).pod.module) ∧
    (FutureHandle (work []) 0x4000001005000003 ∧ hCk 0x4000001005000003 ≠ (work []).ck) ∧
    unacked (work []) = false ∧ behindOwn (work []) 0x4010000005000003 = false ∧ (work []).task.cancel = false ∧
    (work []).core.running.isSome ∧
    (FutureHandle (asking []) 0x4010000005000003 ∧ unacked (asking []) = true) :=
  ⟨by decide, by decide, by decide, by decide, work_ready _, by decide, ⟨⟨by decide, by decide, by decide⟩, by decide⟩,
    ⟨⟨by decide, by decide, by decide⟩, by decide⟩, by decide, by decide, by decide, by decide,
    ⟨by decide, by decide, by decide⟩, by decide⟩

theorem witness_ResolveAndPoison :
    (FutureHandle (asking [(1, h5)]) h5 ∧ (asking [(1, h5)]).x 1 = h5 ∧ unacked (asking [(1, h5)]) = true) ∧
    behindOwn (fut e5 [(1, h5)]) h5 = false ∧
    (let s : State := { work [(1, h5)] with clusters := [(0, { cluster0 with tasks := [(0, { task0 with cancel := true })] })] };
      FutureHandle s h5 ∧ unacked s = false ∧ behindOwn s h5 = false ∧ s.task.cancel = true) ∧
    (fut e5 [(1, h5)]).task.cancel = false ∧ unacked (fut e5 [(1, h5)]) = false ∧
    OutOfRange (work [(1, 0x4000000040000001)]) 0x4000000040000001 ∧
    (let e := { e5 with owner := 1 };
      ResidentHere (fut e [(1, h5)]) h5 e ∧ e.owner ≠ 0) ∧
    (let e := { e5 with st := .full };
      ResidentHere (fut e [(1, h5)]) h5 e ∧ e.owner = 0 ∧ e.st ≠ .empty) ∧
    ResidentHere (fut e5 [(1, h5)]) h5 e5 ∧ e5.owner = 0 ∧ e5.st = .empty :=
  ⟨⟨h5_form _ rfl, rfl, by decide⟩, by decide, ⟨h5_form _ rfl, by decide, by decide, by decide⟩, by decide, by decide, h64_outside,
    ⟨fut_resident _ _ rfl rfl rfl, by decide⟩, ⟨fut_resident _ _ rfl rfl rfl, by decide, by decide⟩,
    fut_resident _ _ rfl rfl rfl, rfl, rfl⟩

theorem witness_TouchDelivers :
    (2 : BitVec 5).toNat ≤ 2 ∧
    (let e := { e5 with st := .full, value := 9 };
      ResidentHere (fut e [(1, h5)]) h5 e ∧ e.st ≠ .empty ∧ e.refill = [] ∧ e.ended = false ∧ e.keep = false ∧
      e.scan0 = false ∧ e.task = false ∧ ∀ w, w ∈ e.waiters → some w = (fut e [(1, h5)]).core.running) ∧
    (let e := { e5 with st := .poisoned };
      ResidentHere (fut e [(1, h5)]) h5 e ∧ e.st ≠ .empty ∧ e.st ≠ .full) ∧
    (let s := work [(1, 0x4000000000000001)];
      ResidentHere s 0x4000000000000001 { st := .empty, gen := 1, count := 1, task := true } ∧ s.task.visible = true ∧
      s.task.home = 0x4000000000000001) ∧
    (let s : State := { fut e5 [(1, h5)] with core := { core0 with regs := [(1, h5)], priv := true } };
      ResidentHere s h5 e5 ∧ ¬ (s.task.visible = true ∧ s.task.home = h5) ∧ s.core.priv = true) ∧
    OutOfRange (work [(1, 0x4000000040000001)]) 0x4000000040000001 ∧ badForm 0 = true ∧
    hKind 0x8000000200000001 ≠ 1 ∧ (work []).handlerReady :=
  ⟨by decide, ⟨fut_resident _ _ rfl rfl rfl, by decide, rfl, rfl, rfl, rfl, rfl, by decide⟩,
    ⟨fut_resident _ _ rfl rfl rfl, by decide, by decide⟩,
    ⟨⟨⟨⟨by decide, by decide, by decide⟩, by decide, by decide⟩, rfl, rfl, rfl, rfl, rfl, by decide⟩, rfl, by decide⟩,
    ⟨h5_resident _ _ _ _ rfl rfl rfl rfl (by decide) rfl rfl rfl rfl rfl (by decide), by decide, rfl⟩, h64_outside, by decide, by decide,
    work_ready _⟩

theorem witness_TouchParks :
    let s := fut e5 [(1, h5)]
    ResidentHere s h5 e5 ∧ e5.st = .empty ∧ s.core.priv = false ∧ ¬ (s.task.visible = true ∧ s.task.home = h5) ∧
    s.core.running = some 0 ∧ parkWaits s = false ∧ ∃ s1, parkTouch s h5 s.core.unit.base = .done s1 :=
  ⟨fut_resident _ _ rfl rfl rfl, rfl, rfl, by decide, rfl, rfl, _, rfl⟩

/-- A task of slot 5's future that has moved to cluster 1, slot 3. -/
def movedAway : State :=
  { work [(1, h5)] with clusters := [(0, { cluster0 with entries := cluster0.entries ++ [(5, { e5 with task := true })] }),
      (1, { tasks := [(3, { st := .waiting, deps := 2, moved := true, home := h5 })] })] }

theorem witness_DependenceAndCancel :
    (unacked (futTask e5 {} [(1, h5)]) = false ∧ behindOwn (futTask e5 {} [(1, h5)]) h5 = false) ∧
    (ResidentHere movedAway h5 { e5 with task := true } ∧ (movedAway.cluster.task 5).st = .free ∧
      movedAway.movedTask h5 = some (1, 3) ∧ 1 < ((movedAway.clusterAt 1).task 3).deps) ∧
    (let e := { e5 with owner := 0x8000003800000001 };
      ResidentHere (fut e [(1, h5)]) h5 e ∧ e.st = .empty ∧ hSub e.owner = 4 ∧ (fut e [(1, h5)]).core.priv = false) ∧
    (fut e5 [(1, h5)]).handlerReady ∧
    (let e := { e5 with task := true };
      ∀ t, ResidentHere (futTask e t [(1, h5)]) h5 e) ∧
    (let t : Task := { st := .ready };
      t.st ≠ .free ∧ t.cancel = false ∧ t.deps = 0) ∧
    (let t : Task := { st := .waiting, deps := 255 };
      t.st ≠ .free ∧ t.cancel = false ∧ 1 < t.deps) ∧
    (let t : Task := { st := .waiting, deps := 1 };
      t.st ≠ .free ∧ t.cancel = false ∧ t.deps = 1) ∧
    ({ st := .parkedPre } : Task).st = .parkedPre ∧
    ResidentHere (fut e5 [(1, h5)]) h5 e5 ∧ e5.task = false ∧ (fut e5 [(1, h5)]).movedTask h5 = none ∧
    (let e := { e5 with st := .full };
      ResidentHere (fut e [(1, h5)]) h5 e ∧ e.st ≠ .empty) ∧
    OutOfRange (work [(1, 0x4000000040000001)]) 0x4000000040000001 :=
  ⟨⟨rfl, rfl⟩, ⟨h5_resident _ _ _ _ rfl rfl rfl (by decide : 0 / 8 = 0) rfl rfl rfl rfl rfl rfl (by decide), rfl, by decide,
    by decide⟩, ⟨fut_resident _ _ rfl rfl rfl, rfl, by decide, rfl⟩, work_ready _,
    fun _ => futTask_resident _ _ _ rfl rfl rfl, by decide, by decide, by decide, rfl, fut_resident _ _ rfl rfl rfl, rfl,
    rfl, ⟨fut_resident _ _ rfl rfl rfl, by decide⟩, h64_outside⟩

/-- The window of slot 5 of the test's cluster, at the place of R283, and the state after its reading. -/
def window5 (s : State) : List Spot × State :=
  match spillWindow s s.ck s.core.space 5 3 with
  | (some ks, s1) => (ks, s1)
  | (none, s1) => ([], s1)

/-- A window with a clear place, one whose 16 places hold records, a pinned entry, and a spilled future's record. -/
theorem witness_SpillAndRefill :
    unacked (fut e5 [(1, h5)]) = false ∧ behindOwn (fut e5 [(1, h5)]) h5 = false ∧ ResidentHere (fut e5 [(1, h5)]) h5 e5 ∧
    e5.pinned = false ∧
    (let s := (fut e5 [(1, h5)]).heddleAt 0 0;
      (window5 s).1.length = 16 ∧ ((window5 s).1.find? (fun k => !recValid (window5 s).2 k)).map (·.key) = some 2097536 ∧
        (fut e5 [(1, h5)]).pod.qnt = []) ∧
    (let s0 : State := { fut e5 [(1, h5)] with mem := (List.range 16).map fun j => (2097536 + 64 * j + 32, 0x82) };
      let s := s0.heddleAt 0 0;
      (window5 s).1.length = 16 ∧ (window5 s).1.find? (fun k => !recValid (window5 s).2 k) = none) ∧
    { e5 with waiters := [0] }.pinned = true ∧
    (let s : State := { fut { st := .spilled, gen := 3, count := 3 } [(1, h5)] with
        mem := [(2097600, 3), (2097603, 5), (2097607, 0x40), (2097608, 9), (2097632, 0x82)] };
      AwayHere s h5 ∧ (let w := window5 (s.heddleAt 0 0); (w.1.find? (recOf w.2 h5)).map (·.key) = some 2097600)) ∧
    (let s := fut { st := .spilled, gen := 3, count := 3 } [(1, h5)];
      AwayHere s h5 ∧ (let w := window5 (s.heddleAt 0 0); w.1.length = 16 ∧ w.1.find? (recOf w.2 h5) = none)) ∧
    OutOfRange (work [(1, 0x4000000040000001)]) 0x4000000040000001 := by
  exact ⟨by decide, by decide, fut_resident _ _ rfl rfl rfl, by decide, by decide +kernel, by decide +kernel, by decide,
    ⟨⟨⟨h5_form _ rfl, by decide, by decide⟩, by decide, by decide, by decide⟩, by decide +kernel⟩,
    ⟨⟨⟨h5_form _ rfl, by decide, by decide⟩, by decide, by decide, by decide⟩, by decide +kernel⟩, h64_outside⟩

/-- Ends of a task: cancelled, in a handler, with a failed copy, with a failed loom command, with its own value, with an
output to write back; and the successors that HALT.r refuses. -/
theorem witness_HaltEndsTheTask :
    (let s := work [(1, 7), (2, 0x20)];
      s.x 2 ≠ 0 ∧ (s.x 2).extractLsb' 0 5 = 0 ∧ (s.x 2).toNat < 2 ^ 40 ∧ s.core.running = some 0 ∧ jobsPending s = false ∧
      usedPending s = false ∧ (s.cluster.task 0).visible = true ∧ (s.cluster.task 0).moved = false ∧
      (s.cluster.entry 0).st = .empty ∧ (s.cluster.entry 0).consumed = false ∧ (s.cluster.entry 0).ended = false ∧
      (s.cluster.entry 0).refill = [] ∧ (s.cluster.task 0).cancel = false ∧ s.core.trap.depth = 0 ∧ s.core.fails = [] ∧
      s.core.loom.firstFail = 0 ∧ (s.cluster.task 0).tiles.any (fun x => x.kind != 1) = false) ∧
    (let c : Core := { core0 with trap := { core0.trap with depth := 1, cause := 0x11F } };
      0 < c.trap.depth) ∧
    (let c : Core := { core0 with fails := [(some 3, 2)] };
      c.trap.depth = 0 ∧ c.fails = (some 3, 2) :: []) ∧
    (let c : Core := { core0 with loom := { firstFail := 6 } };
      c.fails = [] ∧ c.loom.firstFail ≠ 0) ∧
    ({ task0 with cancel := true } : Task).cancel = true ∧
    ({ task0 with tiles := [{ arg := 0, kind := 2, addr := 0x1000, len := 128 }] } : Task).tiles.any (fun x => x.kind != 1)
      = true ∧
    (work []).handlerReady ∧ (work []).x 2 = 0 ∧ ((work [(2, 0x30)]).x 2).extractLsb' 0 5 ≠ 0 ∧
    2 ^ 40 ≤ ((work [(2, 0x10000000000)]).x 2).toNat :=
  ⟨by decide, by decide, by decide, by decide, by decide, by decide, work_ready _, by decide, by decide, by decide⟩

/-- An entry at 0x1040 with a descriptor of zeros, a free slot; an almanac without one; an entry that is not aligned. -/
theorem witness_SpawnCreatesATask :
    (28 : BitVec 5).toNat ≤ 28 ∧
    (let s := work [];
      let e := s.core.unit.here + 4 * s.immBits (16 : BitVec 16);
      e.extractLsb' 0 5 = 0 ∧
      (resolveAll .load s 0 [(e - 32, 32)]).1 = .inl [⟨0x1020, .hbm 0x5020, hbmLeaf, 32⟩] ∧ s.marked 0x5020 32 = false ∧
      s.badCopy 0x1020 0x5020 hbmLeaf = false ∧
      s.pod.qnt = [] ∧ unacked s = false ∧ s.core.answers = [] ∧ s.core.asked = 0) ∧
    (let s := work [];
      let s1 := (resolveAll .load s 0 [(0x1020, 32)]).2;
      let s2 := (loadMem s1 0x1020 0x5020 32 hbmLeaf).2;
      let desc := descOf (leBytes 32 (s1.loadValue 0x1020 0x5020 32 hbmLeaf));
      let a := allocateAt s2 0 0 s2.core.pts;
      a.1 = .got 1 1 ∧ descFail desc (tilesOf desc [0, 0, 0, 0]) a.2.cluster.poolBytes = 0 ∧
      parentCancelled a.2 (parentLink s.task) = false) ∧
    ((work []).core.unit.here + 4 * (work []).immBits (1 : BitVec 16)).extractLsb' 0 5 ≠ 0 ∧ (work []).handlerReady :=
  ⟨by decide, by decide +kernel, by decide +kernel, by decide, work_ready _⟩

theorem witness_SpawnCreatesATask_full :
    let s : State := { work [] with clusters := [(0, { cluster0 with ctxs := [(0, { live := true, ftLimit := 1 })] })] }
    let s1 := (resolveAll .load s 0 [(0x1020, 32)]).2
    let s2 := (loadMem s1 0x1020 0x5020 32 hbmLeaf).2
    (resolveAll .load s 0 [(0x1020, 32)]).1 = .inl [⟨0x1020, .hbm 0x5020, hbmLeaf, 32⟩] ∧
      s1.badCopy 0x1020 0x5020 hbmLeaf = false ∧ (allocateAt s2 0 0 s2.core.pts).1 = .full 0 := by decide +kernel


/-- A die whose ladder table holds an open launch in every record. -/
def fullDie (n : Nat) : Die := { die0 with ladder := (List.range n).map fun i => (i, { kind := .launch, gen := 1 }) }

theorem mget_range (x d : Ladder) (l : List Nat) (i : Nat) (hi : i ∈ l) :
    mget (fun _ => d) (l.map fun i => (i, x)) i = x := by
  induction l with
  | nil => cases hi
  | cons j l ih =>
    simp only [List.map_cons, mget]
    split
    · rfl
    · exact ih ((List.mem_cons.1 hi).resolve_left fun e => by simp_all)

theorem full_table (n : Nat) (hn : 4096 ≤ n) : freeLadder { work [(1, 0x1000)] with dies := [(0, fullDie n)] } 0 = none := by
  refine freeLadder_none fun i hi => ?_
  have e : (State.dieAt { work [(1, 0x1000)] with dies := [(0, fullDie n)] } 0).ladder =
      (List.range n).map fun i => (i, { kind := .launch, gen := 1 }) := rfl
  rw [e, mget_range _ _ _ _ (List.mem_range.2 (by omega))]
  exact ⟨by decide, rfl⟩

/-- A record of zeros at 0x1000, the states after its checks and its reading. -/
def launching : State :=
  (loadAll (resolveAll .store (resolveAll .load (work [(1, 0x1000)]) 0 [(0x1000, 64), (0x1040, 64)]).2 0 [(0x1008, 8)]).2
    [⟨0x1000, .hbm 0x5000, hbmLeaf, 64⟩, ⟨0x1040, .hbm 0x5040, hbmLeaf, 64⟩] []).2

/-- A record of zeros at 0x1000; a graph that stands, and a second slot for one; a queue that spills into a full area; a
full ladder table; an address that is not aligned to 64. -/
theorem witness_LaunchQueues :
    (let s := work [(1, 0x1000)];
      let s1 := (resolveAll .load s 0 [(0x1000, 64), (0x1040, 64)]).2;
      let s2 := (resolveAll .store s1 0 [(0x1008, 8)]).2;
      (s.x 1).extractLsb' 0 6 = 0 ∧
      (resolveAll .load s 0 [(0x1000, 64), (0x1040, 64)]).1 =
        .inl [⟨0x1000, .hbm 0x5000, hbmLeaf, 64⟩, ⟨0x1040, .hbm 0x5040, hbmLeaf, 64⟩] ∧
      (resolveAll .store s1 0 [(0x1008, 8)]).1 = .inl [⟨0x1008, .hbm 0x5008, hbmLeaf, 8⟩] ∧ unacked s = false ∧
      beforeParts s2 [⟨0x1008, .hbm 0x5008, hbmLeaf, 8⟩] = some s2 ∧ s.core.answers = [] ∧ s.core.asked = 0 ∧
      s.pod.qnt = [] ∧
      (loadAll s2 [⟨0x1000, .hbm 0x5000, hbmLeaf, 64⟩, ⟨0x1040, .hbm 0x5040, hbmLeaf, 64⟩] []).1 = [(0, none), (0, none)] ∧
      mustSpill launching = false ∧ parentCancelled launching 0 = false ∧
      (match (allocateAt launching 0 0 0).1 with
        | .got i _ => i == 1
        | _ => false) = true) ∧
    (work [(1, 0x1000)]).ordered ∧ (freeLadder launching 0).isSome ∧
    (let s : State := { work [(1, 0x1000)] with
        dies := [(0, { die0 with ladder := [(1, { kind := .graph, tag := 5 })] })] };
      (freeLadder s 0).isSome ∧ ∃ g, graphOf s 0 5 = some g ∧ parentCancelled s g = false) ∧
    ((twoLadders launching 0).isSome ∧
      (match (allocateAt (launching.newEntry 0 0 1 1 0 0 0 true) 0 0 0).1 with
        | .got i _ => i == 2
        | _ => false) = true) ∧
    (let s : State := { work [(1, 0x1000)] with
        dies := [(0, { die0 with spilled := [{ space := 0 }] })], mem := [(0x240001, 0), (0x240000, 2), (0x24000C, 2)] };
      mustSpill s = true ∧
      ∃ hp s5, lspillHeader (s.heddleAt 0 0) 0 0 = (some hp, s5) ∧ hp.key = 0x240000 ∧ s5.readN 0x24000C 4 = s5.readN 0x240000 4) ∧
    freeLadder { work [(1, 0x1000)] with dies := [(0, fullDie 4096)] } 0 = none ∧
    ((work [(1, 0x1020)]).x 1).extractLsb' 0 6 ≠ 0 ∧ (work [(1, 0x1020)]).handlerReady :=
  ⟨by decide +kernel, work_ordered _,
    freeLadderBut_isSome (i := 0) (by omega) (fun x => nomatch x) (by decide +kernel),
    ⟨freeLadderBut_isSome (i := 0) (by omega) (fun x => nomatch x) (by decide +kernel), _, rfl, by decide +kernel⟩,
    ⟨twoLadders_isSome (by decide +kernel) (by decide +kernel), by decide +kernel⟩,
    ⟨by decide, _, _, rfl, by decide +kernel, by decide +kernel⟩, full_table _ (Nat.le_refl _), by decide, work_ready _⟩

/-- A gang of eight on an idle cluster, the code 0, and a gang that stands. -/
theorem witness_Gangs :
    (let s := work [];
      s.core.gang.standing = false ∧ (3 : BitVec 2) ≠ 0 ∧ (s.cluster.reserve (1536 * (gangSize 3 - 1)) 0 3).isSome ∧
      ∀ m ∈ (blockOf 0 (gangSize 3)).drop 1,
        (s.coreAt (s.ck * 8 + m)).running = none ∧ (s.coreAt (s.ck * 8 + m)).gang.follows = none ∧
          (s.coreAt (s.ck * 8 + m)).space = s.core.space) ∧
    (let s : State := { work [] with core := { core0 with gang := { code := 1, standing := true, save := some 65536 } } };
      s.core.gang.standing = true ∧ s.core.gang.follows = none ∧ s.core.trap.written = true ∧
      s.pod.jobs.any (fun j => j.ck == s.ck && j.core == s.cur % 8 && !j.dead && 1 < j.members) = false) ∧
    (work []).handlerReady :=
  ⟨by decide +kernel, by decide, work_ready _⟩

theorem witness_NamesHoldsAndBindings :
    (work []).core.running = some 0 ∧ (work []).task.name = 0 ∧
    (let r := mget (fun _ => ({} : NameRec)) (work []).cluster.names 0;
      r.slot = none ∧ r.moved = false) ∧
    (let s : State := { work [] with clusters := [(0, { cluster0 with names := [(0, { moved := true })] })] };
      s.task.name = 0 ∧ (mget (fun _ => ({} : NameRec)) s.cluster.names 0).moved = true) ∧
    ({ task0 with name := groupName 0 0 0 0 0 } : Task).name ≠ 0 ∧
    (let s := work [(1, 65535)];
      (23 : BitVec 5).toNat < 24 ∧ (s.x 1).toNat < 65536 ∧ (mget (fun _ => ({} : Hold)) s.core.holds 23).cnt = 0) ∧
    (let s : State := { work [(1, 65535)] with core := { core0 with holds := [(23, { cnt := 1 })] } };
      (mget (fun _ => ({} : Hold)) s.core.holds 23).cnt ≠ 0) ∧
    65536 ≤ ((work [(1, 65536)]).x 1).toNat ∧
    (let s := work [(1, 0xFFFFFFFFE0), (2, 8191)];
      (s.x 2).toNat < 8192 ∧ (s.x 1).extractLsb' 0 5 = 0 ∧ (s.x 1).toNat < 2 ^ 40 ∧ s.task.cls < 4 ∧
      (s.cluster.reserve 8192 4096 4).isSome) ∧
    8192 ≤ ((work [(2, 8192)]).x 2).toNat ∧ ((work [(1, 0x10)]).x 1).extractLsb' 0 5 ≠ 0 ∧
    2 ^ 40 ≤ ((work [(1, 0x10000000000)]).x 1).toNat ∧ (work []).handlerReady :=
  ⟨by decide, by decide, by decide, by decide, by decide, by decide, by decide, by decide +kernel, by decide +kernel, by decide +kernel, by decide +kernel,
    by decide +kernel, work_ready _⟩

/-- Copies of the largest length, of a bad source and of a bad target; gathers and scatters of zero indexes. -/
theorem witness_EngineJobsIssue :
    unacked (work []) = false ∧ outstanding (work []) < 96 ∧ ((work [(1, 0x1000000)]).x 1).toNat ≤ 2 ^ 24 ∧
    2 ^ 24 < ((work [(1, 0x1000001)]).x 1).toNat ∧ ((work [(1, 63)]).x 1).toNat % 64 ≠ 0 ∧
    (let s := work [];
      (segments s 0 0 (near 98304) 64 false).1 = .ok [.mem (arrayKey 0 98304) 64 0] ∧
      (segments s 0 0 (near 98432) 64 true).1 = .ok [.mem (arrayKey 0 98432) 64 0] ∧
      (segments s 0 0 (near 131072) 64 true).1 = .bad 4 7 ∧ (segments s 0 0 (2 ^ 56) 64 false).1 = .bad 3 6) ∧
    (work []).canReserve 7 ∧ moveType 15 = true ∧ (∃ idx, headV (work []) 2 = .inl idx) ∧
    (let s := work [];
      let a := elementAddrs (near 98304) [0] 8;
      (elementSegs .gather 4 0 s a).2.1 = none ∧ (elementSegs .gather 4 0 s a).2.2.1 = none ∧
      (elementSegs .scatter 4 0 s a).2.1 = none ∧ (elementSegs .scatter 4 0 s a).2.2.1 = none) ∧
    (let s := work [];
      (elementSegs .gather 4 0 s (elementAddrs (near 98306) [0] 8)).2.1.isSome ∧
      (elementSegs .gather 4 0 s (elementAddrs (near 131072) [0] 8)).2.1 = none ∧
      (elementSegs .gather 4 0 s (elementAddrs (near 131072) [0] 8)).2.2.1.isSome) ∧
    (23 : BitVec 5).toNat < 24 ∧ (work []).handlerReady :=
  ⟨by decide, by decide, by decide, by decide, by decide, by decide, .inr (by decide +kernel), by decide, ⟨_, rfl⟩, by decide +kernel,
    by decide +kernel, by decide, work_ready _⟩

/-- A full ring's head, an empty ring's tail, a gang's pool without room, and a ring that has not the elements. -/
theorem witness_QueueAdvance :
    (let s : State := { work [] with core := { core0 with queues := [(7, { head := 15, n := 15, region := some 65536 })] } };
      24 ≤ (31 : BitVec 5).toNat ∧ s.members.all (fun k => decide (((s.coreAt k).q 7).n + 1 ≤ 16)) = true ∧
      s.members.all (fun k => decide (15 ≤ ((s.coreAt k).q 7).n)) = true ∧ (reserveMembers s 31 s.members).isSome ∧
      s.members.all (fun k => decide (((s.coreAt k).q 7).n + 2 ≤ 16)) = false ∧ s.core.trap.written = true) ∧
    (reserveMembers (work []) 31 (work []).members).isSome ∧
    (let s : State := { work [] with clusters := [(0, { cluster0 with poolLen := 0 })] };
      s.members.all (fun k => decide (((s.coreAt k).q 7).n + 16 ≤ 16)) = true ∧ reserveMembers s 31 s.members = none) ∧
    (work []).handlerReady :=
  ⟨by decide, by decide +kernel, by decide +kernel, work_ready _⟩

/-- Grants and refusals at the end of the scratchpad, a revocation of one permit and of none, a range in the park area. -/
theorem witness_Permits :
    (let s : State := { work [(1, near 130944), (2, 128)] with clusters := [(0, { cluster0 with
        ctxs := [(0, { live := true, dataRegions := [(130944, 128)] })] })] };
      (s.x 1).extractLsb' 0 7 = 0 ∧ (s.x 2).extractLsb' 0 7 = 0 ∧ formOf (s.x 1) = .near 130944 ∧ 0 < (s.x 2).toNat ∧
      (s.x 2).toNat ≤ 229376 ∧ 130944 + (s.x 2).toNat ≤ s.cluster.spad ∧ s.cluster.inPark 130944 128 = false ∧
      ownRange s 130944 128 = true ∧ ownRange (work []) 130944 128 = false ∧
      firstBelow 32 (fun i => !s.cluster.permits.any (fun p => p.1 == i)) = some 0) ∧
    (let l : SMap Permit := (List.range 32).map fun i => (i, { off := 0, len := 128, slot := 9, space := 0 });
      firstBelow 32 (fun i => !l.any (fun p => p.1 == i)) = none) ∧
    (let mine := fun (p : Nat × Permit) => (work []).core.running == some p.2.slot && decide (p.2.off ≤ 255) &&
        decide (255 < p.2.off + p.2.len);
      let x : Permit := { off := 128, len := 128, slot := 0, space := 0 };
      let l : SMap Permit := [(4, x), (6, x), (8, { x with slot := 9 })];
      (∀ p ∈ (work []).cluster.permits, mine p = false) ∧ (4, x) ∈ l ∧ mine (4, x) = true ∧
      ∀ q ∈ l, mine q = true → 4 ≤ q.1) ∧
    (near 98368).extractLsb' 0 7 ≠ 0 ∧ ((∀ off, formOf 0x1000 ≠ .near off) ∧ (0x1000 : Word).extractLsb' 0 7 = 0) ∧
    (work []).cluster.spad < 131072 + 128 ∧
    (let s : State := { work [] with clusters := [(0, { cluster0 with
        ctxs := [(0, { live := true, parkb := near 0x10000 })] })] };
      s.cluster.inPark 0x10000 128 = true) ∧ (work []).handlerReady :=
  ⟨by decide, by decide, by decide, by decide, ⟨(fun _ h => nomatch h), by decide⟩, by decide, by decide, work_ready _⟩

/-- A message of this cluster that is still on the mesh. -/
def store34 : Packet := { target := h5, msg := { handler := 34 } }

/-- Messages to a task of this cluster, to a group, to a place; refused operands; a target of another SPACE that no
cross-space register lets through, and one that a register does; a station whose output slots are all taken. -/
theorem witness_MessagesLeave :
    (27 : BitVec 5).toNat ≤ 27 ∧ goodHandler 0x2F = true ∧ goodHandler 0xFFFFFFFFE0 = true ∧ goodHandler 0x30 = false ∧
    (badForm h5 = false ∧ hKind h5 ≠ 2) ∧ badPlace 0x0000000000000000 = false ∧ badPlace 0x4000000000000000 = true ∧
    unacked (work []) = false ∧ stationFull (work []) = false ∧ (work []).pod.populated.contains (hModule h5) = true ∧
    (work []).pod.populated.contains (hModule 0x4020000005000003) = false ∧ (work []).passes h5 false 34 ∧
    (let s : State := { work [] with clusters := [(0, { cluster0 with
        entries := cluster0.entries ++ [(5, { e5 with task := true })],
        tasks := cluster0.tasks ++ [(5, { st := .ready, space := 7, visible := true, home := h5 })] })] };
      ¬ s.passes h5 false 34 ∧
      ({ s with dies := [(0, { xsp := [(0, 0x700070000)] })] } : State).passes h5 false 34) ∧
    unacked (asking []) = true ∧
    stationFull { work [] with pod := { net := List.replicate (Config.outputSlots + 1) store34 } } = true ∧
    27 < (28 : BitVec 5).toNat ∧ (work []).handlerReady := by
  refine ⟨?_, ?_, ?_, ?_, ?_, ?_, ?_, ?_, ?_, ?_, ?_, .inl ?_, ⟨?_, ?_⟩, ?_, ?_, ?_, work_ready _⟩ <;>
    first | decide | (unfold State.passes; decide) | simp [stationFull, store34, work, State.ck]

/-- A store to a group's lane 15, and a name of another kind. -/
theorem witness_GroupStoresLeave :
    (23 : BitVec 5).toNat < 24 ∧ (badForm 0xC000000000000001 = false ∧ hKind 0xC000000000000001 = 3) ∧
    (work []).passes 0xC000000000000001 false 33 ∧ unacked (work []) = false ∧ stationFull (work []) = false ∧
    (work []).pod.populated.contains (hModule 0xC000000000000001) = true ∧
    (let v : Word := 0x010F;
      (v.extractLsb' 0 7).toNat = 15 ∧ (v.extractLsb' 8 7).toNat = 1 ∧ v.getLsbD 7 = false ∧ v.toNat < 32768) ∧
    unacked { work [] with pod := { (work []).pod with late := [{ dst := { ck := 0, slot := 0, reg := 5 }, value := 0, ready := false }] } } = true ∧
    hKind h5 ≠ 3 ∧ (work []).handlerReady := by
  refine ⟨?_, ?_, .inl ?_, ?_, ?_, ?_, ?_, ?_, ?_, work_ready _⟩ <;> decide

theorem witness_CollapseAndChecks :
    (15 : BitVec 5).toNat < 16 ∧ 2 ≤ (2 : BitVec 2).toNat ∧ (work []).core.gang.standing = false ∧ (work []).canWrite 23 ∧
    negSource (momSources (work []) 0 [15]) = none ∧ (work []).clamps = false ∧
    (let s : State := { work [] with core := { core0 with
        mregs := [(1, BitVec.ofNat 1024 0x7F7FFFFF)], modes := { fpmode := 8 } } };
      s.clamps = false ∧ s.core.trap.written = true ∧
      (let x := fun (l : Nat) => s.collapsed 1 0 0 1 l;
        ∀ l, l < 32 → (bf16.conv s.rm (stochBits s s.cur l) s.ovf (rnd s.rm (x l))).2 = false)) ∧
    (let s : State := { work [] with core := { core0 with
        mregs := [(1, BitVec.ofNat 1024 0x3F807F7F)], vregs := [(1, BitVec.ofNat 512 0x3F80)], modes := { fpmode := 8 + 2 } } };
      s.clamps = false ∧ (bf16.conv s.rm (stochBits s s.cur 0) s.ovf (rnd s.rm (s.collapsed 1 2 1 1 0))).2 = true) ∧
    (let s : State := { work [] with core := { core0 with mregs := [(1, BitVec.ofNat 1024 (0xBF800000 * 2 ^ 32))] } };
      (negSource (momSources s 0 [1])).isSome) ∧
    (23 : BitVec 5).toNat < 24 ∧
    (let s : State := { work [] with core := { core0 with vregs := [(0, BitVec.ofNat 512 (0x40000000 * 2 ^ 480))] } };
      let lane := fun (r : BitVec 5) (g : Nat) => laneOf ((s.coreAt (s.members.getD (g / 16) 0)).v r.toNat) 32 (g % 16);
      (List.range 16).filter (fun g => ckFails ((s.x 1).toNat % 2 ^ 32) (lane 0 g) (lane 1 g)) = [15] ∧
      (List.range 16).filter (fun g => ckFails ((s.x 1).toNat % 2 ^ 32) (lane 1 g) (lane 2 g)) = []) :=
  ⟨by decide, by decide, by decide, .inl (by decide), by decide +kernel, by decide, by decide +kernel, by decide +kernel,
    by decide +kernel, by decide, by decide +kernel⟩

/-- Commands without a failing check, with one, a privileged part in unprivileged code, and room for the save region. -/
theorem witness_LoomCommandsIssue :
    accepted (.lmzero 1 2 3 9) = true ∧ loomOp (.lmzero 1 2 3 9) = some (1, 3, 9, 0, 2, 3) ∧
    (let s := work [(3, 4)];
      lmReason s (loomCommand s 1 3 9 0 2 3) = 0 ∧ loomPrivileged 3 0 (s.x 3) = false ∧
      s.core.loom.places < 8 ∧ unacked s = false ∧
      (loomCommand s 1 3 9 0 2 3).vectorDests.any (pendingVec s) = false ∧
      (s.cluster.reserve 16512 (s.core.running.getD 0) 2).isSome) ∧
    (let s : State := { work [(3, 4)] with core := { core0 with regs := [(3, 4)], loom := { queue := List.replicate 8 {} } } };
      8 ≤ s.core.loom.places ∧ runsAhead s (loomCommand s 1 3 9 0 2 3) = false) ∧
    (let s : State := { work [(3, 2 ^ 27 + 4)] with core := { core0 with
        regs := [(3, 2 ^ 27 + 4)], loom := { frozen := true, queue := List.replicate 8 {} } } };
      runsAhead s (loomCommand s 1 4 9 0 2 3) = true) ∧
    unacked (asking [(3, 4)]) = true ∧
    (let s := work [(3, 27)];
      lmReason s (loomCommand s 1 3 9 0 2 3) ≠ 0 ∧ s.core.trap.written = true) ∧
    accepted (.lmwt 1 2 3 0) = true ∧ loomOp (.lmwt 1 2 3 0) = some (1, 8, 0, 0, 2, 3) ∧
    lmReason (work []) (loomCommand (work []) 1 8 0 0 2 3) = 0 ∧
    loomOp (.lmfrzOn 1 2 3 0) = some (1, 9, 0, 1, 2, 3) ∧ (boss []).core.priv = true ∧
    (work []).cluster.loom.frozen = false ∧ ((work []).core.priv = false ∧ loomPrivileged 9 1 0 = true) ∧
    (work []).handlerReady :=
  ⟨by decide, by decide, by decide +kernel, by decide, by decide, by decide, by decide, by decide, by decide, by decide, by decide,
    by decide, by decide, by decide, work_ready _⟩

theorem witness_SystemRegisters :
    (boss []).core.priv = true ∧ userReads 0x24 = true ∧ userWrites 0x24 = true ∧ readOnly 0x24 = false ∧
    badValue (boss []) 0x24 0x0C = false ∧ badValue (boss []) 0x13 0 = false ∧ badValue (boss []) 0x10 64 = false ∧
    badValue (boss []) 0x26 0 = false ∧ badValue (boss []) 0x3F 0x7FFFFFFFF = false ∧ (boss []).savesLoom ∧
    ((boss []).cluster.reserve 8192 4096 4).isSome ∧ sysNumber 0x04 = false ∧ sysNumber 0x1A = false ∧
    (sysNumber 0x03 = true ∧ userReads 0x03 = false ∧ userWrites 0x03 = false ∧ (work []).core.priv = false) ∧
    (sysNumber 0x20 = true ∧ readOnly 0x20 = true) ∧ badValue (boss []) 0x24 0x100 = true ∧ (work []).handlerReady ∧
    (boss []).handlerReady :=
  ⟨by decide, by decide, by decide, by decide, by decide, by decide, by decide, by decide, by decide, .inr (.inr (by decide +kernel)),
    by decide +kernel, by decide, by decide, by decide, by decide, by decide, work_ready _, boss_ready _⟩

theorem witness_TranslationsGo :
    (boss []).core.priv = true ∧ inFlight (boss []) (fun _ => true) = false ∧
    (let s := boss [(1, 65535), (2, 0xFFFFFFFFFFFFFF)];
      (s.x 1).toNat < 65536 ∧ (s.x 2).toNat < 2 ^ 56 ∧ inFlight s (· == (s.x 1).toNat) = false) ∧
    (let s : State := { boss [(1, 3)] with pod := { jobs := [{ id := 1, ck := 0, core := 0, slot := 0, count := 1, space := 3 }] } };
      inFlight s (fun _ => true) = true ∧ inFlight s (· == (s.x 1).toNat) = true) ∧
    (work []).core.priv = false ∧ 65536 ≤ ((boss [(1, 65536)]).x 1).toNat ∧
    2 ^ 56 ≤ ((boss [(2, 0x100000000000000)]).x 2).toNat ∧ (work []).handlerReady ∧ (boss []).handlerReady :=
  ⟨by decide, by decide, by decide, by decide, by decide, by decide, by decide, work_ready _, boss_ready _⟩

/-- No access outstanding and one; addresses of a form and of none; the line at the end of a page of the L1. -/
theorem witness_CacheMaintenance :
    (let s := work [];
      (unacked s || !s.core.loom.queue.isEmpty ||
        s.pod.jobs.any (fun j => j.ck == s.ck && j.core == s.cur % 8 && !j.discard && !j.dead)) = false) ∧
    unacked { work [] with pod := { (work []).pod with late := [{ dst := { ck := 0, slot := 0, reg := 5 }, value := 0, ready := false }] } } = true ∧
    formOf 0xFFFFFFFFFFFF80 ≠ .bad ∧ formOf 0x100000000000000 = .bad ∧
    (0xFFFFFFFFFFFF80 : Word).toNat % 128 = 0 ∧ (0x100000000000000 : Word).toNat % 128 = 0 ∧
    (0x1FFF : Word).toNat % 128 ≠ 0 ∧ (work []).pod.qnt = [] ∧
    (formOf 0x1FFF = .virt 0x1FFF ∧ leafL1 hbmLeaf = true ∧
      (resolve (work []) 0 0 (BitVec.ofNat 64 (0x1FFF / 128 * 128)) 128 .load).1 = .ok (.hbm 0x5F80) hbmLeaf) ∧
    (work []).handlerReady :=
  ⟨by decide, by decide, by decide, by decide, by decide, by decide, by decide, by decide, by decide, work_ready _⟩

/-- A core with a command at the head of its loom queue, and slot 0 of the loom held for its task. -/
def loomState (q : LCmd) : State :=
  { work [] with
    core := { core0 with loom := { queue := [q] } },
    clusters := [(0, { cluster0 with loom := { slots := [(0, { held := 1, type := 9 })] } })] }

/-- LMZERO of one accumulator, and the first step of an LMRUN of one row block over one slot. -/
theorem witness_LoomPieces :
    (let q : LCmd := { fn := 3, second := 4 };
      (chooseCore (loomState q) 0).map (·.1) = some 0 ∧
      ∃ s1, (chooseCore (loomState q) 0).map (·.2) = some s1 ∧ candidate? s1 0 0 (s1.clusterAt 0).loom.frozen = some q ∧
        (s1.coreAt 0).running = some 0 ∧ s1.pod.qnt = []) ∧
    (let q : LCmd := { fn := 1, control := 1 + 16 * 9, second := 4 + 64, region := near 98304, tr := some 0, begun := true };
      (∃ s1, (chooseCore (loomState q) 0).map (·.2) = some s1 ∧ candidate? s1 0 0 (s1.clusterAt 0).loom.frozen = some q) ∧
      q.begun = true ∧ 0 < q.m ∧ slotFail ((loomState q).clusterAt 0).loom q 0 0 = 0 ∧ (blockRaws (loomState q) 0 q 0 0).2 = false ∧
      ((loomState q).coreAt 0).loom.ue = 0) ∧
    (let q : LCmd := { fn := 5, control := 5 + 512, scbase := 0x1000, scshift := 3 };
      ∃ s1, (chooseCore (loomState q) 0).map (·.2) = some s1 ∧ candidate? s1 0 0 (s1.clusterAt 0).loom.frozen = some q ∧
        q.control.testBit 9 = true) :=
  ⟨⟨by decide, _, rfl, by decide, by decide, by decide⟩, ⟨⟨_, rfl, by decide⟩, by decide, by decide, by decide, by decide +kernel,
    by decide⟩, _, rfl, by decide, by decide⟩

/-- A drain with its bytes, a vector drain, a table load, an unbind, a failed command, and a freeze. -/
theorem witness_LoomCommandsComplete :
    (let q : LCmd := { fn := 4, control := 4 + 16 * 12, second := 4, region := near 98304, finished := true, dest := 5,
                       out := List.replicate 1024 1 };
      let s := loomState q;
      (s.coreAt 0).loom.queue.head? = some q ∧ q.finished = true ∧ (∀ p ∈ (s.coreAt 0).loom.queue, p.ahead = false) ∧
      (s.coreAt 0).running = some 0 ∧ s.runsIn 0 0 0 ∧ (s.coreAt 0).f ≤ q.dest ∧ s.pod.qnt = [] ∧ commandBlocked s 0 q = false ∧
      beforeSegs s (.ofJob 0 q.seq q.key) (q.writeSegs 0) = some s ∧ q.copies = [] ∧ q.out.length = q.writeLen) ∧
    (let q : LCmd := { fn := 4, control := 4 + 16 * 8 + 512, second := 65536, finished := true };
      q.toVec = true ∧ q.writeLen = 0 ∧ q.c = 1) ∧
    (let q : LCmd := { fn := 1, finished := true, code := 4 };
      q.code ≠ 0 ∧ q.writeLen = 0) ∧
    (let q : LCmd := { fn := 0, control := 16 * 9 + 512, second := 2 + 128 + 65536, finished := true };
      q.flags = 1 ∧ q.slots = [2, 3] ∧ q.second.testBit 16 = true ∧ { q with control := 16 * 9 }.flags = 0 ∧
      { q with control := 2 * 512 }.flags = 2 ∧ { q with control := 3 * 512 }.flags = 3 ∧
      ((loomState q).clusterAt 0).loom.slot 0 = { held := 1, type := 9 } ∧
      (((loomState q).clusterAt 0).loom.slot 0).heldFor 0 0 = true ∧ (((loomState q).clusterAt 0).loom.slot 0).heldFor 1 0 = false) ∧
    (({ fn := 7, finished := true } : LCmd).fn = 7) ∧
    (let s : State := { loomState { fn := 5 } with core := { core0 with loom := { rebinds := [(0, 0x1000, 3)] } } };
      (s.coreAt 0).loom.rebinds.find? (fun r => r.1 == 0) = some (0, 0x1000, 3) ∧
      (s.coreAt 0).loom.rebinds.find? (fun r => r.1 == 1) = none) ∧
    (let s : State := { loomState {} with clusters := [(0, { cluster0 with
        loom := { frozen := true, freezing := [{ ck := 0, slot := 0, count := 1, reg := 7 }] } })] };
      s.runsIn 0 0 0 ∧ ((s.clusterAt 0).task 0).st ≠ .free ∧
      ((s.clusterAt 0).entry 0).count = 1 ∧ (s.coreAt 0).f ≤ 7) := by
  unfold State.runsIn
  exact ⟨by decide +kernel, by decide, by decide, by decide, rfl, by decide, by decide⟩

/-- Every kind of counter; a write at register 127; a spill with a clear place and one with a full window; a translation
that stands; a hold-wait at the end of its budget, and one in the handler of WDOG. -/
theorem witness_ClusterEvents :
    ((0 : Nat) % 4096 < 4095 ∧ (7 : Nat) < 8 ∧ (8 : Nat) ≤ 8 ∧ (15 * 4096 + 4095 : Nat) % 4096 = 4095 ∧
      (15 * 4096 + 4095 : Nat) / 4096 < 16 ∧ 16 ≤ (16 * 4096 + 4095 : Nat) / 4096) ∧
    (let l : Late := { dst := { ck := 0, slot := 0, reg := 127 }, value := 9, fail := 2 };
      let s : State := { work [] with pod := { late := [l] } };
      s.pod.late[0]? = some l ∧ l.ready = true ∧ l.fail ≠ 0 ∧ (s.coreAt 0).f ≤ l.dst.reg ∧ l.mark = none ∧
      { l with mark := some 0x5000 }.mark = some 0x5000 ∧
      (coreKeys 0).find? (fun k => (s.coreAt k).running == some 0) = some 0) ∧
    (let s : State := { work [] with clusters := [(0, { cluster0 with
        heddle := { spilling := some 5 }, entries := cluster0.entries ++ [(5, e5)] })] };
      let s0 := s.putHeddle 0 { (s.clusterAt 0).heddle with spilling := none, heldFills := [] };
      (s.clusterAt 0).heddle.spilling = some 5 ∧ (s.clusterAt 0).heddle.heldFills = [] ∧
      ((s.clusterAt 0).entry 5).pinned = false ∧ ((s.clusterAt 0).entry 5).resident = true ∧
      ((s.clusterAt 0).entry 5).ue = false ∧ s.pod.qnt = [] ∧
      ((window5 s0).1.find? (fun k => !recValid (window5 s0).2 k)).map (·.key) = some 2097536) ∧
    (let s : State := { work [] with
        mem := (List.range 16).map fun j => (2097536 + 64 * j + 32, 0x82),
        clusters := [(0, { cluster0 with heddle := { spilling := some 5 }, entries := cluster0.entries ++ [(5, e5)] })] };
      let s0 := s.putHeddle 0 { (s.clusterAt 0).heddle with spilling := none, heldFills := [] };
      (window5 s0).1.length = 16 ∧ (window5 s0).1.find? (fun k => !recValid (window5 s0).2 k) = none) ∧
    ((translate (work []) 0 0 0 0x1000).1 = .ok hbmLeaf 12 ∧ (2 ^ 40 - 1 : Nat) < 2 ^ 40) ∧
    (let s : State := { work [] with core := { core0 with wcnt := 0 } };
      (s.coreAt 0).running = some 0 ∧ (s.coreAt 0).wcnt = 0 ∧ (s.coreAt 0).trap.kill ≠ 1 ∧
      ((s.clusterAt 0).task 0).cancel = false ∧ (s.coreAt 0).preempt = false) ∧
    ({ core0.trap with kill := 1 } : Trap).kill = 1 :=
  ⟨by decide, by decide, by decide +kernel, by decide +kernel, by decide, by decide, by decide⟩


/-- A second task of the cluster, in slot 5, while core 0 is busy. -/
def second (t : Task) : State :=
  { work [] with clusters := [(0, { cluster0 with
      heddle := { freeOrder := [7, 1, 2, 3, 4, 5, 6] },
      entries := cluster0.entries ++ [(5, { e5 with task := true })], tasks := cluster0.tasks ++ [(5, t)] })] }

def newTask : Task := { st := .ready, entry := 0x2000, a0 := 1, a4 := 5, visible := true, home := h5, launch := 1 }
def parkedTask : Task := { newTask with started := true, pc := 0x3000, base := 32, depth := 4, handlers := 1 }
def preTask : Task := { parkedTask with image := true, parked := { scshift := 3 } }

/-- Whether a task is the one to dispatch next, and the core it goes to. -/
def picked (s : State) : Option ((Nat × Task) × Bool) :=
  (pickNext (s.clusterAt 0).heddle s.now (dispatchable s 0)).map fun r => (r.1, r.2.2)

theorem witness_TasksDispatch :
    (let s := second newTask;
      picked s = some ((5, newTask), false) ∧ placeFor s 0 newTask = some [7] ∧ (s.clusterAt 0).task 5 = newTask ∧
      newTask.started = false ∧ newTask.gateQueue = none ∧
      ∃ x h, pickNext (s.clusterAt 0).heddle s.now (dispatchable s 0) = some (x, h, false) ∧ h.retained = [] ∧
        badImage (s.putHeddle 0 h) 0 5 newTask = none) ∧
    dispatchable (work []) 0 = [] ∧
    (let s := second parkedTask;
      picked s = some ((5, parkedTask), false) ∧ placeFor s 0 parkedTask = some [7] ∧ parkedTask.started = true ∧
      parkedTask.image = false ∧ parkedTask.cancel = false ∧
      (match pickNext (s.clusterAt 0).heddle s.now (dispatchable s 0) with
        | some (_, h, _) => (badImage (s.putHeddle 0 h) 0 5 parkedTask).isNone && h.retained.isEmpty &&
          okAnd (raiseDepth (readSaved (takeCores (s.putHeddle 0 h) 0 5 parkedTask [7]) 0 5 parkedTask 1) 0 5 parkedTask)
            (fun _ => true)
        | none => false) = true) ∧
    (let s := second preTask;
      picked s = some ((5, preTask), false) ∧ placeFor s 0 preTask = some [7] ∧ preTask.started = true ∧
      preTask.image = true ∧ preTask.gang = 0 ∧ preTask.cancel = false ∧
      (match pickNext (s.clusterAt 0).heddle s.now (dispatchable s 0) with
        | some (_, h, _) => (badImage (s.putHeddle 0 h) 0 5 preTask).isNone && h.retained.isEmpty &&
          (badSave (s.putHeddle 0 h) 0 preTask [7]).isNone &&
          okAnd (raiseDepth (readSaved (takeCores (s.putHeddle 0 h) 0 5 preTask [7]) 0 5 preTask 1) 0 5 preTask)
            (fun s2 => okAnd (stackRead 0 0 5 s2 64 448) (fun _ => true))
        | none => false) = true) :=
  ⟨⟨by decide, by decide, by decide, by decide, by decide, _, _, rfl, by decide, by decide⟩, by decide,
    ⟨by decide, by decide, by decide, by decide, by decide, by decide +kernel⟩,
    ⟨by decide, by decide, by decide, by decide, by decide, by decide, by decide +kernel⟩⟩

def tileTask : Task :=
  { newTask with st := .staging, tiles := [{ arg := 0, kind := 1, addr := 0x1000, len := 128 }] }
def landingTask : Task :=
  { newTask with st := .staging, tiles := [{ arg := 0, kind := 1, addr := 0x1000, len := 128, region := some 65536,
                                             data := List.replicate 128 7 }] }
def endingTask : Task :=
  { newTask with st := .ending, result := 9, wsegs := [.mem 0x5000 128 hbmLeaf],
                 tiles := [{ arg := 0, kind := 2, addr := 0x1000, len := 128, region := some 65536, done := true }] }

theorem witness_TasksStageAndWake :
    (let s := second tileTask;
      nextStaging s 0 = some 5 ∧ tilesBlocked s 0 0 tileTask.tiles = false ∧
      (match makeRegions 0 5 20 s with
        | (some ts, s1) => (issuePushes 0 0 (s1.putPts 0 none (max (s1.agentPts 0 none) tileTask.pts)) ts).1.isSome
        | _ => false) = true) ∧
    (let s : State := { second tileTask with clusters := [(0, { cluster0 with
        poolLen := 0, heddle := { freeOrder := [7] }, entries := cluster0.entries ++ [(5, e5)],
        tasks := cluster0.tasks ++ [(5, { tileTask with cls := 1 })] })] };
      nextStaging s 0 = some 5 ∧ (makeRegions 0 5 20 s).1 = none) ∧
    (∃ x, landingTask.tiles.find? (fun x => x.arg == 0 && !x.done && x.region.isSome) = some x ∧
      landingTask.staged = true ∧ x.data.length = x.len ∧
      meets (arrayKey 0 65536) x.len (parkKey (second landingTask) 0 0 5) 64 = false ∧
      writesBehind (second landingTask) 0 x.seq [.mem (arrayKey 0 65536) x.len 0] = false) ∧
    (let s := second endingTask;
      endingTask.visible = true ∧ endingTask.moved = false ∧ ((s.clusterAt 0).entry 5).st = .empty ∧
      ((s.clusterAt 0).entry 5).consumed = false ∧ ((s.clusterAt 0).entry 5).ended = false ∧
      ((s.clusterAt 0).entry 5).refill = [] ∧ ((s.clusterAt 0).entry 5).ue = false ∧
      endingTask.tiles.filter (fun x => x.kind != 1) = endingTask.tiles ∧ endingTask.wsent = false ∧
      writeWaits s 0 0 0 endingTask.wsegs = false ∧ readWaits s 0 0 0 [.mem (arrayKey 0 65536) 128 0] = false ∧
      s.marked (arrayKey 0 65536) 128 = false ∧ s.marked 0x5000 128 = false ∧
      permitted s 0 0 endingTask.wsegs = true ∧ s.pod.qnt = [] ∧
      beforeSegs s (.ofJob 0 0 0) endingTask.wsegs = some s ∧ meets 0x5000 128 (parkKey s 0 0 5) 64 = false) ∧
    ({ endingTask with fail := 0x205 } : Task).fail ≠ 0 ∧
    (let x : Task := { endingTask with wsent := true };
      x.fail = 0 ∧ x.wsent = true ∧ x.wacks = 0) ∧
    (let s : State := { second { newTask with st := .parkedTouch, touch := h5 } with clusters := [(0, { cluster0 with
        entries := [(6, { e5 with st := .full, toWake := [5, 9] })],
        tasks := cluster0.tasks ++ [(5, { newTask with st := .parkedTouch, touch := h5 })] })] };
      ((s.clusterAt 0).entry 6).toWake = 5 :: [9] ∧ ((s.clusterAt 0).task 5).st = .parkedTouch ∧
      ((s.clusterAt 0).task 5).cancel = false ∧ ((s.clusterAt 0).entry 9).toWake = [] ∧
      ((s.clusterAt 0).entry 9).refill = []) ∧
    (let n : Nat × Word × Nat × Waiter := (0, h5, 1, { ck := 3, slot := 2, count := 1, reg := 9 });
      4096 ≤ (4096 : Nat) ∧ ([n].find? fun x => x.1 == 4096 - 4096) = some n) :=
  ⟨by decide +kernel, by decide +kernel,
    ⟨_, rfl, by decide, by decide +kernel, by decide, by decide⟩, by decide +kernel, by decide, by decide, by decide,
    by decide⟩

/-- Engine jobs of core 0: a copy before its read, after it and failed; a copy into a queue with room and without; a
gather and a scatter that are to complete. -/
def jobState (j : Job) (q : SMap OpQueue) : State :=
  { work [] with core := { core0 with queues := q }, pod := { jobs := [j] } }

def copyJob : Job := { id := 4, count := 1, dest := 6, len := 64, rsegs := [.mem 0x5000 64 hbmLeaf], wsegs := [.mem 0x6000 64 hbmLeaf] }

theorem witness_EngineJobsMove :
    (let s := jobState copyJob [];
      s.job? 4 = some copyJob ∧ readBlocked s copyJob = false ∧ copyJob.acks = 0 ∧ copyJob.kept = [] ∧ s.marked 0x5000 64 = false ∧ s.pod.qnt = []) ∧
    (let j := { copyJob with readDone := true, bytes := List.replicate 64 3 };
      let s := jobState j [];
      s.job? 4 = some j ∧ (coreKeys j.ck).find? (fun k => (s.coreAt k).running == some j.slot) = some 0 ∧
      (s.coreAt 0).f ≤ j.dest ∧ j.sent = false ∧ j.discard = false ∧ j.bytes.length = 64 ∧ writeBlocked s j = false ∧
      permitted s j.ck j.space j.wsegs = true ∧ s.marked 0x6000 64 = false ∧
      beforeSegs s (.ofJob j.ck j.seq j.key) j.wsegs = some s) ∧
    (let j : Job := { copyJob with readDone := true, code := 3 };
      j.code ≠ 0 ∧ j.bytes = []) ∧
    (let j := { copyJob with readDone := true, code := 3, bytes := List.replicate 5 3 };
      let s := jobState j [];
      s.job? 4 = some j ∧ j.bytes ≠ [] ∧ writeBlocked s j = false ∧ permitted s j.ck j.space j.wsegs = true ∧
      beforeSegs s (.ofJob j.ck j.seq j.key) j.wsegs = some s) ∧
    (let j := { copyJob with readDone := true, queue := some 7, bytes := List.replicate 64 3, wsegs := [] };
      let s := jobState j [(7, { head := 15, n := 15, region := some 65536 })];
      let u := jobState j [(7, { head := 15, n := 16, region := some 65536 })];
      s.job? 4 = some j ∧ j.landed * 64 < j.len ∧ (jobQueue s j 7 0).region = some 65536 ∧ (jobQueue s j 7 0).n < 16 ∧
      16 ≤ (jobQueue u j 7 0).n) ∧
    (let j : Job := { copyJob with kind := .gather, readDone := true };
      let s : State := { jobState j [] with core := { core0 with gang := { code := 1, standing := true } } };
      j.discard = false ∧ j.queue = none ∧ j.members ≤ gangSize (s.coreAt 0).gang.code ∧
      (coreKeys j.ck).find? (fun k => (s.coreAt k).running == some j.slot) = some 0 ∧
      ({ j with members := 2 } : Job).members ≤ gangSize (s.coreAt 0).gang.code) ∧
    (let j : Job := { copyJob with kind := .scatter, readDone := true, width := 4, data := [1], wsegs := [.mem 0x6000 4 hbmLeaf] };
      let s := jobState j [];
      (scatterBytes j).length = 4 ∧ writeBlocked s j = false ∧ beforeSegs s (.ofJob j.ck j.seq j.key) j.wsegs = some s) := by
  decide

theorem witness_CombinersAndQuanta :
    (let u : Pending := { key := 0x5000, n := 8, op := 1, operand := 3, held := false };
      let s : State := { work [] with pod := { com := [u, u] } };
      batchOf s 0x5000 = u :: [u] ∧ u.reply = none ∧ beforeWriteBy s {} 0x5000 8 = some s ∧ s.pod.qnt = [] ∧
      s.pod.com[1]? = some u ∧ u.held = false ∧ { u with held := true }.held = true) ∧
    (let u : Pending := { key := 0x5000, n := 8, op := 1, operand := 3, quantum := 2 };
      let s : State := { work [] with pod := { qnt := [u, { u with quantum := 3 }] } };
      s.pod.qnt.filter (fun p => p.key == 0x5000 && p.quantum == 2) = u :: [] ∧ u.n = 8 ∧ u.reply = none ∧
      (∀ p ∈ s.pod.qnt, p.key / 128 = 0x5000 / 128 → 2 ≤ p.quantum) ∧
      beforeWriteBy s {} (0x5000 / 128 * 128) 128 = some s) ∧
    ((work []).coreAt 0).running.isSome ∧ ((work []).coreAt 7).running = none ∧
    ((work []).coreAt 7).gang.follows = none := by decide


/-- Die 0 with ladder records, a launch queue and spilled launches. -/
def ladderState (ls : SMap Ladder) (q w : List QLaunch) : State :=
  { work [] with dies := [(0, { die0 with ladder := ls, launchQ := q, spilled := w })] }

/-- The handle of launch 1 of die 0, generation 1 (R16), and its record in the queue: three tasks of the entry 0x40. -/
def hL : Word := 0x8000001200000001
def launch1 : Ladder := { kind := .launch, gen := 1, parent := 0x8000000600000001, future := h5 }
def queued : QLaunch :=
  { words := [0x40, hL, 3, 0, 1, 2, 3, 4, 8, 0, 0, 0, 0, 0, 0, 0], handle := hL }

/-- A record whose map has two pages, on dies 3 and 2, and whose entry declares a tile of 256 bytes across their border. -/
def mapped : QLaunch :=
  { words := [0x1040, hL, 3 + 2 ^ 33, 0x1F00, 0xF80, 0, 0, 0, 0, 0, 0, 0, 0, 0, 0, 0], handle := hL, held := false }

/-- What the placer finds: the map's entries, whether it is wrong, and the bytes of the first task's tile on each die. -/
def onMap (extra : Memory) : List (Nat × Nat × Nat) × Bool × List (Nat × Nat) :=
  let s : State := { ladderState [(1, launch1)] [mapped] [] with
    mem := ([(0x5022, 1), (0x5029, 1)] : Memory) ++ extra ++ [(0x5F0C, 3), (0x5F11, 0x10), (0x5F18, 1), (0x5F1C, 2)] }
  let r := readMap s 0 mapped
  let tiles := match (placerDesc r.2.2 0 mapped).1 with
    | some bs => tilesOf (descOf bs) [0xF80, 0, 0, 0]
    | none => []
  (r.1, r.2.1, tiles.flatMap fun x => mapBytes x.addr.toNat (x.addr.toNat + x.len) r.1)

theorem witness_LaunchesProceed_queue :
    (let s := ladderState [(1, launch1)] [queued] [];
      s.named 0 1 ∧ ladderHandle 0 0 1 1 1 = hL ∧ (s.dieAt 0).launchQ.find? (fun q => q.handle == hL) = some queued ∧
      queued.refused = 0 ∧ launch1.preds = [] ∧ barrierPassed s launch1 = true) ∧
    (let g : Ladder := { kind := .graph, gen := 1, keys := [(7, true), (8, false)] };
      let s := ladderState [(1, { launch1 with preds := [7, 8], parent := 0x8000003400000001 }), (3, g)] [queued] [];
      s.ladder? 0x8000003400000001 = some g ∧ (7, true) ∈ g.keys ∧
      ¬ ∃ x, s.ladder? 0x8000003400000001 = some x ∧ (8, true) ∈ x.keys) ∧
    (let q := { queued with held := false };
      [q].find? (fun q => !q.held || q.refused != 0) = some q ∧ q.maps = 0 ∧ q.next < q.count ∧
        ({ q with next := 2 } : QLaunch).next + 1 = q.count) ∧
    (mapped.maps = 2 ∧ mapped.next < mapped.count ∧
      (let x := onMap [(0x5F08, 1)];
        x.1 = [(0, 4096, 3), (4096, 8192, 2)] ∧ x.2.1 = false ∧ x.2.2 = [(3, 128), (2, 128)]) ∧
      (onMap []).2.1 = true ∧ mapped.handle = hL) ∧
    (let q := { queued with refused := 0x207 };
      [q].find? (fun q => !q.held || q.refused != 0) = some q ∧ q.refused ≠ 0 ∧ q.handle = hL ∧ launch1.kind = .launch) :=
  ⟨⟨⟨by decide, by decide, by decide, by decide⟩, by decide⟩,
    ⟨by decide, by decide, fun ⟨x, h, m⟩ => by
      have e : x = { kind := .graph, gen := 1, keys := [(7, true), (8, false)] } := Option.some.inj (h.symm.trans (by decide))
      subst e; revert m; decide⟩, by decide, by decide +kernel, by decide⟩

/-- A placement message with an eligible cluster, without one, and of a launch that has ended. -/
theorem witness_LaunchesProceed_placement :
    (let p : Packet := { dst := 0, target := hL, msg := { handler := 0x18, w0 := 1, sender := 0x40, time := 9 } };
      let s : State := { ladderState [(1, launch1)] [] [] with pod := { net := [p] } };
      let s1 := (s.arrive p).putDie 0 { s.dieAt 0 with waitingTasks := (s.dieAt 0).waitingTasks.erase p };
      (s.dieAt 0).waitingTasks.contains p = false ∧ behind s p = false ∧ behind s { p with seq := 1 } = true ∧
      s.live? p.target = true ∧ placeOn s1 p = some 0 ∧
      (let a := allocateNow (s1.heddleAt 0 9) 0 0;
        a.1 = .got 1 1 ∧
        (let k := heddleTask a.2 0 0 0x40 [1, 0, 0, 0] hL hL 0 none 9;
          k.1.fail = 0 ∧ parentCancelled k.2 hL = false ∧ k.2.ladder? hL = some launch1))) ∧
    (let p : Packet := { dst := 0, target := hL, msg := { handler := 0x18, space := 9 } };
      let s : State := { ladderState [(1, launch1)] [] [] with pod := { net := [p] } };
      let w : State := { work [] with dies := [(0, { die0 with ladder := [(1, launch1)], waitingTasks := [p] })] };
      behind s p = false ∧ s.live? p.target = true ∧ placeOn (s.arrive p) p = none ∧
      (w.dieAt 0).waitingTasks.contains p = true ∧ w.live? p.target = true ∧
      ({ s with dies := [] } : State).live? p.target = false) := by decide +kernel

theorem witness_LaunchesProceed_ends :
    (let s := ladderState [] [] [queued];
      (s.dieAt 0).spilled = queued :: [] ∧ (s.dieAt 0).launchQ.length < 1024 ∧ s.pod.qnt = [] ∧
      laterSpilled s 0 queued = false ∧
      laterSpilled { s with dies := s.dies ++ [(1, { spilled := [queued] })] } 0 { queued with order := 1 } = true ∧
      (∃ hp s1 a b s2, lspillHeader (s.heddleAt 0 0) 0 0 = (some hp, s1) ∧ hp.key = 0x240000 ∧ s.readN 0x240004 4 < s.readN 0x240000 4 ∧
        lspillSlot s1 0 0 (s1.readN (hp.key + 4) 4) = (some (a, b), s2))) ∧
    (let s := ladderState [] [] [{ queued with space := 9 }];
      laterSpilled s 0 { queued with space := 9 } = false ∧ (lspillHeader (s.heddleAt 0 0) 0 9).1 = none) ∧
    (let s : State := { ladderState [] [] [queued] with
        clusters := [(0, { cluster0 with ctxs := [(0, { live := true, lspill := 0x1FC0 })] })] };
      let x := lspillHeader (s.heddleAt 0 0) 0 0;
      x.1.map (·.key) = some 0x5FC0 ∧ (lspillSlot x.2 0 0 (x.2.readN 0x5FC4 4)).1 = none) ∧
    (launch1.ended = false ∧ launch1.standing = false ∧ launch1.sweeping = false) ∧
    (let r := { launch1 with sweeping := true, sweepIdle := true, candidate := some 0, placed := true };
      let s : State := { ladderState [(1, r)] [] [] with clusters := [(0, { cluster0 with
        entries := cluster0.entries ++ [(5, { e5 with owner := hL })] })] };
      r.ended = false ∧ r.sweepSum = r.sweepRecv ∧ r.candidate = some r.sweepSum ∧ s.ladder? r.parent = none ∧ Fillable s 0 h5) ∧
    (let r : Ladder := { kind := .phase, gen := 1, entered := true, future := h5, parent := 0x8000000600000001 };
      let s : State := { ladderState [(1, r)] [] [] with clusters := [(0, { cluster0 with
        entries := cluster0.entries ++ [(5, { e5 with owner := 1 })] })] };
      r.ended = false ∧ Fillable s 0 h5 ∧ s.ladder? r.parent = none ∧ s.ladder? r.job = none) :=
  ⟨⟨by decide, by decide, rfl, by decide, by decide, _, _, _, _, _, rfl, by decide, by decide +kernel, rfl⟩, by decide +kernel,
    by decide +kernel, by decide,
    ⟨rfl, rfl, rfl, by decide, by decide, by decide, by decide, by decide, by decide, by decide, by decide⟩,
    rfl, ⟨by decide, by decide, by decide, by decide, by decide, by decide, by decide⟩, by decide, by decide⟩

/-- A job of context 0 in ladder record 3 of die 0, its handle, and its completion future in slot 5. -/
def hJ : Word := 0x8000003800000001
def job3 : Ladder := { kind := .job, gen := 1, future := h5 }
def jobLadder (r : Ladder) : State :=
  { ladderState [(3, r)] [] [] with clusters := [(0, { cluster0 with
      entries := cluster0.entries ++ [(5, { e5 with owner := hJ })] })] }

/-- A command does not wait where an allocation finds every entry pinned. -/
theorem no_wait {s : State} {die : Nat} {lca lcb : Word} {r : Ladder} (h : s.ladder? lca = some r)
    (f : (allocate s (hCk r.future) r.space).1 = .full 0) : ladderWaits s die 2 lca lcb = false := by
  unfold ladderWaits
  simp only [h, f, Bool.and_false]

/-- That job in a context of one slot, whose entry is pinned, or on its way out. -/
def narrow (e : Entry) : State :=
  { ladderState [(3, job3)] [] [] with clusters := [(0, { cluster0 with
      ctxs := [(0, { live := true, ftLimit := 1 })], entries := [(0, e)] })] }

/-- A phase of 1024 modules waits there for the entry that is on its way out. -/
theorem narrow_waits :
    ladderWaits (narrow { st := .full, gen := 1, count := 1, toWake := [7] }) 0 2 hJ 0x40000000007 = true := by
  have h : (narrow { st := .full, gen := 1, count := 1, toWake := [7] }).ladder? hJ = some job3 := by decide
  have f : (freeLadder (narrow { st := .full, gen := 1, count := 1, toWake := [7] }) (hDie hJ)).isSome :=
    freeLadderBut_isSome (i := 0) (by omega) (fun x => nomatch x) (by decide)
  obtain ⟨i, g⟩ := Option.isSome_iff_exists.1 f
  have e : (openPhase (narrow { st := .full, gen := 1, count := 1, toWake := [7] }) hJ 0x40000000007).1 = 5 := by
    unfold openPhase
    rw [g, h]
    rfl
  unfold ladderWaits
  simp only [h, e]
  decide

theorem witness_LadderCommands_waits :
    (let s := blocked;
      (s.ladders.any fun x => x.2.kind == .job && x.2.space == 0 && !x.2.ended) = false ∧ s.serves 0 = true ∧
      ((s.clusterAt 0).ctxAt 0).live = true ∧ ladderWaits s 0 1 0 0 = true) ∧
    ladderWaits (narrow { st := .full, gen := 1, count := 1, toWake := [7] }) 0 2 hJ 0x40000000007 = true ∧
    (let s := narrow { st := .empty, gen := 1, count := 1, task := true };
      s.ladder? hJ = some job3 ∧ (∀ slot gen, (allocateNow s (hCk job3.future) job3.space).1 ≠ .got slot gen) ∧
      ladderWaits s 0 2 hJ 0x40000000007 = false) ∧
    (let h := 0x8000004200000001;
      let p : Ladder := { kind := .launch, gen := 1, standing := true, parent := hJ, job := hJ };
      let s : State := { ladderState [(3, job3), (4, p)] [] [] with clusters := [(0, { cluster0 with
        entries := cluster0.entries ++ [(5, { e5 with owner := hJ }), (6, { e5 with st := .full, keep := true, launch := h })] })] };
      s.named 0 4 ∧ s.record 0 4 = p ∧ ladderHandle 0 0 4 1 1 = h ∧ job3.current = 0 ∧ Fillable s 0 h5 ∧
      (∀ x ∈ s.ladders, x.2.standing = true → x.2.job = hJ → (hDie x.1, hCluster x.1) ≠ (hDie hJ, hCluster hJ)) ∧
      (s.dies.map (·.1)).Nodup ∧
      (∀ x ∈ s.dies, x.1 < 16 ∧ (x.2.ladder.map (·.1)).Nodup ∧ ∀ y ∈ x.2.ladder, y.1 < 4096 ∧ y.2.gen < 16777216) ∧
      ∃ e ∈ (s.clusterAt 0).entries, e.2.launch = h) :=
  ⟨⟨by decide, by decide, by decide, blocked_waits⟩, narrow_waits,
    ⟨by decide, fun slot gen => by rw [show (allocateNow (narrow { st := .empty, gen := 1, count := 1, task := true })
      (hCk job3.future) job3.space).1 = .full 0 by decide +kernel]; exact nofun,
      no_wait (r := job3) (by decide) (by decide +kernel)⟩,
    ⟨⟨by decide, by decide, by decide, by decide⟩, by decide, by decide, by decide,
      ⟨by decide, by decide, by decide, by decide, by decide, by decide, by decide⟩, by decide, by decide, by decide, by decide⟩⟩

theorem witness_LadderCommands :
    (let s := work [];
      s.pod.module < 1024 ∧ (twoLadders s 0).isSome ∧ s.serves 0 = true ∧ ((s.clusterAt 0).ctxAt 0).live = true ∧
      (s.ladders.any fun x => x.2.kind == .job && x.2.space == 0 && !x.2.ended) = false ∧
      (allocateNow s 0 0).1 = .got 1 1) ∧
    ((jobLadder job3).ladders.any fun x => x.2.kind == .job && x.2.space == 0 && !x.2.ended) = true ∧
    ((0x10000000 : Word).extractLsb' 28 36 ≠ 0) ∧
    (let lcb : Word := 0x40000000007;
      lcb.extractLsb' 43 21 = 0 ∧ (lcb.extractLsb' 32 11).toNat = 1024) ∧
    (let s := jobLadder job3;
      (freeLadder s (hDie hJ)).isSome ∧ s.ladder? hJ = some job3 ∧ hSub hJ = 4 ∧ hDie hJ = 0 ∧ hCluster hJ ≠ 0 ∧
      job3.current = 0 ∧ job3.last = false ∧ job3.ended = false ∧ (allocateNow s (hCk h5) 0).1 = .got 1 1 ∧
      Fillable s 0 h5 ∧ ∀ x ∈ s.ladders, x.2.standing = true → x.2.job ≠ hJ) ∧
    (jobLadder { job3 with last := true }).ladder? hJ = some { job3 with last := true } ∧ (work []).ladder? hJ = none ∧
    (let p : Ladder := { kind := .phase, gen := 1, parent := hJ };
      let s := ladderState [(3, { job3 with current := 0x8000004600000001 }), (4, p)] [] [];
      s.ladder? 0x8000004600000001 = some p ∧ p.passed = false ∧ hKind 0x8000004600000001 = 2 ∧
      (hDie 0x8000004600000001, hCluster 0x8000004600000001) ≠ (hDie hJ, hCluster hJ)) :=
  ⟨⟨by decide, twoLadders_isSome rfl rfl, by decide, by decide, by decide, by decide +kernel⟩, by decide, by decide, by decide,
    ⟨by decide +kernel, by decide, by decide, by decide, by decide, by decide, by decide, by decide, by decide +kernel,
      ⟨by decide, by decide, by decide, by decide, by decide, by decide, by decide⟩, by decide⟩, by decide, by decide, by decide⟩

/-- A kept scan at a slot that is being woken, and one that finds the record of a spilled entry; a running child. -/
theorem witness_ScansAndMoves_more :
    (let s : State := { work [] with clusters := [(0, { cluster0 with
        heddle := { kept := [hL], keptPos := 5 }, entries := cluster0.entries ++ [(5, { e5 with toWake := [7] })] })] };
      (s.clusterAt 0).heddle.keptPos < 4096 ∧ (s.clusterAt 0).busy (s.clusterAt 0).heddle.keptPos = true) ∧
    (let h : Heddle := { kept := [hL], keptPos := 5, keptSpilled := [(h5, hL)] };
      let s : State := { work [] with
        clusters := [(0, { cluster0 with heddle := h, entries := cluster0.entries ++ [(5, { st := .spilled, gen := 3, count := 3 })] })],
        mem := [(2097600, 3), (2097603, 5), (2097607, 0x40), (2097608, 9), (2097632, 0x82)] };
      h.keptSpilled.filter (fun x => x.2 == hL && hSlot x.1 == h.keptPos) = [(h5, hL)] ∧ s.pod.qnt = [] ∧
      (s.clusterAt 0).busy 5 = false ∧ ((s.clusterAt 0).entry 5).refill = [] ∧ ((s.clusterAt 0).entry 5).keep = false ∧
      ((s.ladder? hL).map (·.space)).getD ((s.clusterAt 0).entry 5).space = 0 ∧
      (let w := window5 (s.putHeddle 0 { h with keptPos := 6, keptSpilled := [] });
        (w.1.find? (recOf w.2 h5)).map (·.key) = some 2097600)) ∧
    (let s : State := { work [] with clusters := [(0, { cluster0 with
        heddle := { scans := [5], scanPos := 0 },
        entries := [(0, { st := .empty, gen := 1, count := 1, parent := h5, task := true }),
                    (5, { e5 with st := .cancelled, scan0 := true })] })] };
      ((s.clusterAt 0).entry 0).parent = entryHandle s 0 5 ∧ (s.clusterAt 0).busy 0 = false ∧
      ((s.clusterAt 0).task 0).st = .running ∧ ((s.clusterAt 0).entry 0).consumed = false ∧
      ((s.clusterAt 0).entry 0).owner = 0) ∧
    (let m : Incoming := { ck := 1, slot := 5, tiles := [{ arg := 0, kind := 1, addr := 0x1000, len := 128,
                                                           region := some 81920, done := true }] };
      let t : Task := { newTask with
        leaving := true, tiles := [{ arg := 0, kind := 1, addr := 0x1000, len := 128, region := some 65536, done := true }] };
      let s : State := { work [] with clusters := [(0, { cluster0 with incoming := [(6, m)] }),
        (1, { tasks := [(5, t)], entries := [(5, { e5 with task := true })] })], bad := [arrayKey 1 65536 / 8] };
      okAnd (moveBytes s 1 0 5 6 m.tiles) (fun _ => true) = false ∧ stillArrives s 1 5 = false ∧
      stillArrives { s with pod := { late := [{ dst := { ck := 1, slot := 5, reg := 9 }, value := 0 }] } } 1 5 = true) := by
  decide +kernel

theorem witness_ScansAndMoves_scans :
    (let s : State := { work [] with clusters := [(0, { cluster0 with heddle := { kept := [hL], keptPos := 4096 } })] };
      (s.clusterAt 0).heddle.kept = hL :: [] ∧ 4096 ≤ (s.clusterAt 0).heddle.keptPos) ∧
    (let e := { e5 with st := .full, keep := true, launch := hL };
      let s : State := { work [] with clusters := [(0, { cluster0 with
        heddle := { kept := [hL], keptPos := 5 }, entries := cluster0.entries ++ [(5, e)] })] };
      (s.clusterAt 0).heddle.keptPos < 4096 ∧ (s.clusterAt 0).heddle.keptSpilled = [] ∧ (s.clusterAt 0).busy 5 = false ∧ (s.clusterAt 0).entry 5 = e ∧
      e.resident = true ∧ e.keep = true ∧ e.launch = hL ∧ e.pinned = false ∧ { e with waiters := [0] }.pinned = true) ∧
    (let s : State := { work [] with clusters := [(0, { cluster0 with heddle := { scans := [0], scanPos := 4096 } })] };
      (s.clusterAt 0).heddle.scans = 0 :: [] ∧ ((s.clusterAt 0).entry 0).scan1 = false ∧
      ((s.clusterAt 0).entry 0).refill = []) ∧
    (let t : Task := { st := .ready, visible := true, home := h5 };
      let s : State := { work [] with clusters := [(0, { cluster0 with
        heddle := { scans := [0], scanPos := 5 }, tasks := cluster0.tasks ++ [(5, t)],
        entries := [(0, { st := .cancelled, gen := 1, count := 1, scan0 := true }),
                    (5, { e5 with parent := 0x4000000000000001, task := true })] })] };
      (s.clusterAt 0).heddle.scanPos < 4096 ∧ ((s.clusterAt 0).entry 5).st = .empty ∧
      ((s.clusterAt 0).entry 5).parent = entryHandle s 0 0 ∧ (s.clusterAt 0).busy 5 = false ∧
      ((s.clusterAt 0).entry 5).consumed = false ∧ ((s.clusterAt 0).entry 5).owner = 0 ∧
      ((s.clusterAt 0).entry 5).ended = false ∧ ((s.clusterAt 0).entry 5).ue = false ∧ t.visible = true ∧ t.moved = false) := by decide

/-- Two clusters of context 0 whose queues differ by 8, and a move that is to be copied. -/
def crowded (n : Nat) : State :=
  { work [] with clusters := [
      (0, { cluster0 with tasks := cluster0.tasks ++ (List.range n).map fun i => (i + 1, { newTask with home := h5 }) }),
      (1, {})] }

def movingTask : Task :=
  { newTask with leaving := true, tiles := [{ arg := 0, kind := 1, addr := 0x1000, len := 128, region := some 65536, done := true }] }

theorem witness_ScansAndMoves_moves :
    (let s := crowded 8;
      let cks := (s.clusters.filter (fun c => c.1 / 4096 == 0)).map (·.1);
      (∀ c ∈ cks, (s.clusterAt c).hstate ≠ 1) ∧ (cks.flatMap (fun ck => (s.clusterAt ck).spaces)).eraseDups = [0] ∧
      minBy (fun ck => 2 ^ 32 - queueLength s ck) (granted s 0 0) = some 0 ∧ minBy (queueLength s) (granted s 0 0) = some 1 ∧
      queueLength s 1 + 8 ≤ queueLength s 0 ∧ s.clusters.any (fun c => c.1 / 4096 == 0 && !c.2.incoming.isEmpty) = false ∧
      movables s 0 0 = 1 :: (List.range 7).map (· + 2) ∧ (startMove s 0 1 1).1 = true) ∧
    (let s := crowded 7;
      ∀ a ∈ granted s 0 0, ∀ b ∈ granted s 0 0, queueLength s a < queueLength s b + 8) ∧
    (let m : Incoming := { ck := 1, slot := 5, tiles := [{ arg := 0, kind := 1, addr := 0x1000, len := 128,
                                                           region := some 81920, done := true }] };
      let s : State := { work [] with clusters := [(0, { cluster0 with incoming := [(6, m)] }),
        (1, { tasks := [(5, movingTask)], entries := [(5, { e5 with task := true })] })] };
      (s.clusterAt 0).incoming.find? (fun x => x.1 == 6) = some (6, m) ∧ m.ck ≠ 0 ∧
      ((s.clusterAt 1).task 5).leaving = true ∧ s.pod.qnt = [] ∧ (s.clusterAt 1).fwd.length < 32 ∧ stillArrives s 1 5 = false ∧
      okAnd (moveBytes s 1 0 5 6 m.tiles) (fun _ => true) = true ∧ movingTask.started = false ∧
      ((s.clusterAt 1).entry 5).refill = [] ∧ meets (arrayKey 0 81920) 128 (parkKey s 0 0 6) 320 = false ∧
      meets (arrayKey 0 81920) 128 (parkKey s 1 0 5) 64 = false) :=
  ⟨by decide +kernel, by decide +kernel, by decide +kernel⟩


/-- Module 0 with a pinned HBM page 5 at 0x5000 and a pinned device page 6, and a request of module 1 on its mesh. -/
def served (p : Packet) : State :=
  { work [] with dies := [(0, { stations := [(0, [page 5 (hbmLeaf + 2 ^ 63), page 6 (deviceLeaf + 2 ^ 63)])] })],
                 pod := { populated := [0, 1], net := [p] } }

def request (handler va n form : Nat) : Packet :=
  { srcModule := 1, src := 3, target := BitVec.ofNat 64 va, msg := { handler := handler, w0 := BitVec.ofNat 64 va, w1 := BitVec.ofNat 64 n },
    form := form, reply := { ck := 3, slot := 2, count := 1, reg := 9 } }

/-- A packet of a copy of module 1, the first of n that it sends here. -/
def push (va n : Nat) : Packet :=
  { request 2 va 8 5 with payload := BitVec.ofNat 512 n, msg := { (request 2 va 8 5).msg with w2 := 5, w3 := 1 } }

/-- A load of a line with an error, of a device; packets of a copy that are not all here, that come behind one, that wait
for a permit, that a job's read holds, that can be written; a store and an atomic that a job's read holds. -/
theorem witness_RemoteAccesses_jobs :
    (let p := request 1 0x5FF8 8 0;
      let s : State := { served p with bad := [0x5FF8 / 8] };
      (homeOf (s.arrive p) p false).1 = some (.hbm 0x5FF8, hbmLeaf + 2 ^ 63) ∧ s.marked 0x5FF8 8 = true) ∧
    (let p := request 1 0x6008 8 0;
      let s := served p;
      (homeOf (s.arrive p) p false).1 = some (.device 0x10000000008, deviceLeaf + 2 ^ 63) ∧ ofJob p = false ∧
      p.msg.w1.toNat = 8 ∧ p.target.toNat % 8 = 0 ∧ (request 1 0x6008 4 0).msg.w1.toNat ≠ 8) ∧
    (let p := push 0x5FF8 2;
      let s := served p;
      ofJob p = true ∧ (s.pod.net.filter (sameJob p)).length < p.payload.toNat) ∧
    (let p := push 0x5FF8 1;
      let s := served p;
      let x := landings (s.arrive p) [p];
      s.pod.net.filter (sameJob p) = [p] ∧ p.payload.toNat ≤ 1 ∧ [p].any (behind s) = false ∧
      [p].any (behind { s with pod := { s.pod with net := [{ p with seq := 1 }, p] } }) = false ∧
      x.1 = [(p, some (.hbm 0x5FF8, hbmLeaf + 2 ^ 63))] ∧ pushWaits x.2 x.1 = false ∧
      beforeSegs x.2 {} [.mem 0x5FF8 8 (hbmLeaf + 2 ^ 63)] = some x.2 ∧ s.marked 0x5FF8 8 = false ∧
      (Landing.seg (p, some (.hbm 0x5FF8, hbmLeaf + 2 ^ 63))).isSome = true ∧
      pushWaits s [(p, some (.array 0 98304, 0))] = true) ∧
    (let j : Job := { id := 4, ck := 0, core := 1, slot := 3, count := 1, len := 64, rsegs := [.mem (arrayKey 0 98304) 64 0] };
      let s : State := { work [] with pod := { jobs := [j] } };
      beforeSegs s {} [.mem (arrayKey 0 98304) 8 0] = none ∧ beforeWriteBy s {} (arrayKey 0 98304) 8 = none) := by
  decide +kernel

theorem witness_RemoteAccesses_home :
    (let p := request 1 0x5FF8 8 0;
      let s := served p;
      s.pod.qnt = [] ∧ behind s p = false ∧ (homeOf (s.arrive p) p false).1 = some (.hbm 0x5FF8, hbmLeaf + 2 ^ 63) ∧ s.marked 0x5FF8 8 = false) ∧
    (let p := request 3 0x5FF8 8 (5 + 2 ^ 64);
      let s := served p;
      (homeOf (s.arrive p) p true).1 = some (.hbm 0x5FF8, hbmLeaf + 2 ^ 63) ∧
      ofJob p = false ∧
      beforeWriteBy (homeOf (s.arrive p) p true).2 {} 0x5FF8 8 = some (homeOf (s.arrive p) p true).2 ∧
      p.form / 2 ^ 68 % 8 = 0 ∧ s.pod.qntDone = []) ∧
    ((5 + 2 ^ 64 + 2 * 2 ^ 68 : Nat) / 2 ^ 68 % 8 = 2 ∧ (5 + 2 ^ 64 + 4 * 2 ^ 68 : Nat) / 2 ^ 68 % 8 = 4 ∧
      (5 + 2 ^ 64 + 5 * 2 ^ 68 : Nat) / 2 ^ 68 % 8 = 5 ∧ (7 * 2 ^ 64 + 5 * 2 ^ 128 : Nat) / 2 ^ 128 % 8 = 5) ∧
    (let p := request 4 0x5000 8 (7 * 2 ^ 64);
      p.form % 2 ^ 64 = (served p).readN 0x5000 8 ∧ (request 4 0x5000 8 1).form % 2 ^ 64 ≠ (served p).readN 0x5000 8) ∧
    (let p := request 2 0x4000000000000 8 5;
      (homeOf ((served p).arrive p) p true).1 = none) := by decide +kernel

theorem witness_RemoteAccesses_answers :
    (let p : Packet := { srcModule := 1, form := 77, reply := { core := some 0 } };
      let s : State := { served p with core := { core0 with asked := 1 } };
      (s.coreAt 0).running = some p.reply.slot ∧ (s.coreAt 0).answers.length < (s.coreAt 0).asked) ∧
    (let p : Packet := { srcModule := 1, form := 77, reply := { core := some 0, count := 1 } };
      let s := served p;
      s.pod.orphans.any (·.1 == p.reply) = false ∧ sameWaiter s p.reply = true) ∧
    (let m : Message := { w1 := 5, w2 := 2, w3 := 2 };
      m.w1.toNat < 2 ^ 63 ∧ { m with w3 := 1 }.w3 = 1 ∧ { m with w3 := 3 }.w3 = 3 ∧ { m with w3 := 4 }.w3 = 4 ∧
      copyJob.kind = .copy ∧ { copyJob with discard := true }.discard = true ∧ { m with w2 := 4 }.w2 = 4) ∧
    (let p : Packet := { srcModule := 1, msg := { w1 := 5, w2 := 2 } };
      let s : State := { served p with pod := { jobs := [{ copyJob with sent := true, acks := 2 }], net := [p] } };
      p.reply.core = none ∧ p.msg.w1 ≠ 0 ∧ p.msg.w1.toNat < 2 ^ 63 ∧ p.msg.w3 = 0 ∧ (s.job? (p.msg.w1.toNat - 1)).isSome) ∧
    (let p : Packet := { srcModule := 1, target := h5, form := 77, msg := { w1 := 0x3000, w2 := 1 }, reply := { count := 1, reg := 31 } };
      let s : State := { served p with clusters := [(0, { cluster0 with
        tasks := [(0, { task0 with st := .parkedTouch, touch := h5 })] })] };
      s.pod.orphans.any (·.1 == p.reply) = false ∧ sameWaiter s p.reply = true ∧
      s.pod.late.any (fun l => l.asked == p.reply && !l.ready) = false ∧ ((s.clusterAt 0).task 0).st = .parkedTouch ∧ ((s.clusterAt 0).task 0).touch = p.target ∧
      ((s.clusterAt 0).task 0).cancel = false ∧ p.msg.w3 = 0 ∧ ((s.clusterAt 0).task 0).base ≤ p.reply.reg ∧
      p.reply.reg < ((s.clusterAt 0).task 0).base + 32) ∧
    (let p : Packet := { srcModule := 1, form := 77, reply := { count := 1, reg := 9 } };
      let l : Late := { dst := p.reply, asked := p.reply, value := 0, ready := false };
      let s : State := { served p with pod := { late := [l], net := [p] } };
      s.pod.orphans.any (·.1 == p.reply) = false ∧ sameWaiter s p.reply = true ∧ p.msg.w2 = 0 ∧ p.msg.w3 = 0 ∧ p.reply.reg ≠ noRegister ∧
      s.pod.late.findIdx (fun l => l.asked == p.reply && !l.ready) = 0 ∧ s.pod.late[0]? = some l) ∧
    (77 : Nat) < markedAnswer := by
  exact ⟨by decide, by decide, by decide, by decide, by decide, by decide, by decide +kernel⟩

/-- A request about the future of slot 5, its entry, and a task there. -/
def about (handler form : Nat) (word : Word) : Packet :=
  { srcModule := 1, src := 3, target := h5, msg := { handler := handler, w1 := word, time := 7 }, form := form,
    reply := { ck := 3, slot := 2, count := 1, reg := 9 } }

def homed (e : Entry) (t : Task) (p : Packet) : State :=
  { futTask e t [] with pod := { populated := [0, 1], net := [p] } }

theorem homed_atHome (e : Entry) (t : Task) (p : Packet) (h : p.target = h5) (d : p.dst = 0) (q : p.msg.space = 0)
    (r : e.resident = true) (g : e.gen = 3) (u : e.consumed = false) (n : e.toWake = []) (v : e.ue = false) :
    AtHome (homed e t p) p e := by
  have w : (homed e t p).clusterAt 0 = { cluster0 with
      entries := cluster0.entries ++ [(5, e)], tasks := cluster0.tasks ++ [(5, t)] } := by
    simp only [homed, futTask, State.clusterAt, mget, ite_true]
  exact ⟨by rw [h, d, w, h5_slot]; rfl, r, by rw [h, h5_gen]; exact g, u,
    by rw [h, d, w, h5_slot, q]; exact (by decide : ({} : Cluster).inRange 0 5 = true), by
      rw [h, d, w, h5_slot]
      simp [Cluster.busy, Cluster.entry, cluster0, mget, n], v⟩

theorem witness_RemoteFutures_home :
    (let e := { e5 with st := .full, value := 9 };
      let p := about 8 0 0;
      AtHome (homed e {} p) p e ∧ e.st ≠ .empty ∧ p.form / 8 % 2 = 0 ∧ e.refill = [] ∧ e.waiters = [] ∧ e.ended = false ∧
      e.scan0 = false ∧ e.task = false ∧ e.keep = false) ∧
    (let p := about 8 8 0;
      AtHome (homed e5 {} p) p e5 ∧ e5.st = .empty ∧ p.form % 8 ≠ 2 ∧ p.msg.w3 ≠ 1 ∧ p.form / 8 % 2 = 1) ∧
    ({ (about 8 0 0).msg with w3 := 1 } : Message).w3 = 1 ∧
    (let p := about 8 0 0;
      let s := homed e5 {} p;
      AtHome s p e5 ∧ nodeOf (s.clusterAt 0).heddle p.target p.srcModule p.reply = none ∧
      firstBelow 512 (fun i => !(s.clusterAt 0).heddle.nodes.any (fun x => x.1 == i)) = some 0) ∧
    (let p := about 9 1 77;
      AtHome (homed e5 {} p) p e5 ∧ p.form / 4 % 2 = 0 ∧ e5.owner = 0 ∧ { e5 with owner := 1 }.owner ≠ 0) ∧
    (let e := { e5 with task := true };
      let p := about 9 4 77;
      AtHome (homed e {} p) p e ∧ p.form / 4 % 4 = 1 ∧ e.task = true ∧ (about 9 12 77).form / 8 % 2 = 1) ∧
    (let e := { e5 with task := true };
      let p := about 12 0 0;
      AtHome (homed e { newTask with st := .waiting, deps := 1 } p) p e ∧ e.owner = 0 ∧ newTask.cancel = false ∧ hKind p.target ≠ 2) ∧
    (let p := about 13 0 0;
      AtHome (homed e5 {} p) p e5 ∧ e5.pinned = false ∧
      (let w := window5 (((homed e5 {} p).arrive p).heddleAt 0 7);
        (w.1.find? fun k => !recValid w.2 k).map (·.key) = some 2097536)) ∧
    (let e := { e5 with task := true };
      let p := about 11 0 0;
      AtHome (homed e {} p) p e ∧ ((homed e {} p).clusterAt 0).forward? p.target = none ∧ p.form ≠ 1 ∧
      (let f : Fwd := { home := h5, name := 0, space := 0, dst := 1, dstSlot := 2, since := 0 };
        ({ cluster0 with fwd := [(0, f)] } : Cluster).forward? p.target = some f) ∧ p.dstModule = (work []).pod.module) ∧
    (let e := { e5 with owner := hJ };
      let p := about 11 0 0;
      AtHome (homed e {} p) p e ∧ e.st = .empty ∧ hSub e.owner = 4 ∧ p.msg.w3 ≠ 1) ∧
    (let p := about 12 0 0;
      movedAway.movedTask p.target = some (1, 3) ∧ 0 < ((movedAway.clusterAt 1).task 3).deps) := by
  refine ⟨⟨homed_atHome _ _ _ rfl rfl rfl rfl rfl rfl rfl rfl, ?_⟩, ⟨homed_atHome _ _ _ rfl rfl rfl rfl rfl rfl rfl rfl, ?_⟩, ?_,
    ⟨homed_atHome _ _ _ rfl rfl rfl rfl rfl rfl rfl rfl, ?_⟩, ⟨homed_atHome _ _ _ rfl rfl rfl rfl rfl rfl rfl rfl, ?_⟩,
    ⟨homed_atHome _ _ _ rfl rfl rfl rfl rfl rfl rfl rfl, ?_⟩, ⟨homed_atHome _ _ _ rfl rfl rfl rfl rfl rfl rfl rfl, ?_⟩,
    ⟨homed_atHome _ _ _ rfl rfl rfl rfl rfl rfl rfl rfl, ?_⟩, ⟨homed_atHome _ _ _ rfl rfl rfl rfl rfl rfl rfl rfl, ?_⟩,
    ⟨homed_atHome _ _ _ rfl rfl rfl rfl rfl rfl rfl rfl, ?_⟩, ?_⟩ <;> decide +kernel

theorem witness_RemoteFutures_others :
    (let p : Packet := { about 11 0 0 with target := hJ };
      let s : State := { jobLadder job3 with pod := { populated := [0, 1], net := [p] } };
      hKind p.target = 2 ∧ s.ladder? p.target = some job3 ∧ job3.ended = false ∧ job3.kind = .job ∧
      (work []).ladder? p.target = none ∧
      (jobLadder { job3 with ended := true }).ladder? hJ = some { job3 with ended := true }) ∧
    (let p : Packet := { about 8 0 0 with target := 0x4000000040000001 };
      let s := homed e5 {} p;
      (s.clusterAt p.dst).inRange p.msg.space (hSlot p.target) = false ∧
      ((s.clusterAt p.dst).entry (hSlot p.target)).task = false ∧
      behind s p = false ∧ hKind p.target ≠ 2 ∧ p.dst = hCk p.target ∧ p.form ≠ 1) ∧
    (hSub hJ = 4 ∧ (about 11 0 0).msg.w3 ≠ 1 ∧ { (about 11 0 0).msg with w3 := 1 }.w3 = 1) ∧
    (let p : Packet := { target := h5, reply := { slot := 5, count := 3 } };
      let s := homed e5 { newTask with st := .parkedTouch, touch := h5 } p;
      sameWaiter s p.reply = true ∧ ((s.clusterAt 0).task 5).touch = p.target ∧
      ((s.clusterAt 0).task 5).st = .parkedTouch ∧ ((s.clusterAt 0).task 5).cancel = false) := by decide

/-- The name of the group of core 0, generation 1, and its task in a state. -/
def hG : Word := 0xC000000000000001
def grouped (st : TState) (p : Packet) : State :=
  { work [] with clusters := [(0, { cluster0 with tasks := [(0, { task0 with st := st, name := hG })] })], pod := { net := [p] } }

/-- A group store of lane 15 into register 23. -/
def store15 : Packet := { target := hG, form := 23 * 32 + 15 * 2048 + 2 ^ 18, msg := { handler := 16, time := 9 } }

theorem witness_MessagesArrive_groups :
    (let s := grouped .running store15;
      (s.clusterAt 0).forward? hG = none ∧ (s.clusterAt 0).groupTask hG = some 0 ∧ ((s.clusterAt 0).task 0).st = .running ∧
      (coreKeys 0).find? (fun k => (s.coreAt k).running == some 0) = some 0 ∧ (s.coreAt 0).gang.standing = false ∧
      store15.form / 2 ^ 11 % 128 + store15.form / 2 ^ 18 % 32 ≤ 16) ∧
    ((grouped .parkedTouch store15).clusterAt 0).groupTask hG = some 0 ∧
    ((grouped .ready store15).clusterAt 0).groupTask hG = some 0 ∧
    (16 < ({ store15 with form := 23 * 32 + 15 * 2048 + 2 ^ 19 } : Packet).form / 2 ^ 11 % 128 + 2) ∧
    ((work []).clusterAt 0).groupTask hG = none ∧ hKind hG = 3 ∧
    (let f : Fwd := { home := h5, name := hG, space := 0, dst := 1, dstSlot := 2, since := 0 };
      let s : State := { work [] with clusters := [(0, { cluster0 with fwd := [(0, f)] })] };
      (s.clusterAt 0).forward? hG = some f) ∧
    behind (grouped .running store15) store15 = false ∧ behind (grouped .running store15) { store15 with seq := 1 } = true := by
  decide

/-- A message to channel 15 that is bound, and one to channel 0 that is not. -/
def toChannel (ch : Nat) : Packet := { target := 0x4000000000000001, src := 5, msg := { handler := 0x20 + ch, w0 := 4, sender := 6 } }
def bound (q : List Packet) (net : List Packet) : State :=
  { work [] with
    clusters := [(0, { cluster0 with ctxs := [(0, { live := true, chb := [(15, 2 + 2 ^ 45)], chans := [(15, q)] })] })],
    pod := { net := net } }

theorem witness_MessagesArrive_channels :
    (let p := toChannel 15;
      let s := bound [] [p];
      behind s p = false ∧ p.form ≠ 2 ^ 32 ∧ routeOf s p (byPlace p) = .here ∧ targetSpace s p.dst p.target (byPlace p) p.msg.space = 0 ∧
      p.msg.handler % 16 = 15 ∧ chbEntry (mget (fun _ => 0) ((s.clusterAt 0).ctxAt 0).chb 15) ≠ 0 ∧
      chbEntry (mget (fun _ => 0) ((s.clusterAt 0).ctxAt 0).chb 0) = 0 ∧ fromHost p = false ∧
      fromHost { p with src := 69631 } = true) ∧
    (mget (fun _ => []) (((bound (List.replicate 128 (toChannel 15)) []).clusterAt 0).ctxAt 0).chans 15).length = 128 ∧
    (let q := toChannel 15;
      let s := bound [q] [];
      (mget (fun _ => []) ((s.clusterAt 0).ctxAt 0).chans 15).drop (takenOf s 0 0 15) = q :: [] ∧
      chbGate (2 + 2 ^ 45) = false ∧ chbEntry (2 + 2 ^ 45) ≠ 0 ∧
      (let a := allocateNow (s.heddleAt 0 0) 0 0;
        a.1 = .got 1 1 ∧
        (let k := heddleTask a.2 0 0 0x40 [4, 0, 0, 0] 6 (standingLaunch a.2 0) 0 none 0;
          k.1.fail = 0 ∧ parentCancelled k.2 (standingLaunch a.2 0) = false))) ∧
    (let b : Word := 2 + 2 ^ 45 + 2 ^ 42 + 2 ^ 35;
      chbGate b = true ∧ chbCount b = 2 ∧ [toChannel 15].length < chbCount b ∧
      chbCount b ≤ [toChannel 15, toChannel 15].length ∧ chbEntry b = 0x40 ∧ chbEntry (2 ^ 45) = 0) ∧
    (∃ v, (allocateNow (narrow { st := .empty, gen := 1, count := 1, task := true }) 0 0).1 = .full v) ∧
    (allocateNow blocked 0 0).1 = .later ∧
    (let p : Packet := { toChannel 0 with msg := { handler := 0x140, w0 := 4 } };
      let s := bound [] [p];
      256 ≤ p.msg.handler ∧ routeOf s p (byPlace p) = .here ∧ ((s.clusterAt 0).ctxAt 0).live = true ∧
      (let a := allocateNow ((s.arrive p).heddleAt 0 0) 0 0;
        a.1 = .got 1 1 ∧
        (let k := heddleTask a.2 0 0 0x140 [4, 0, 0, 0] 0 (tagLaunch a.2 0) 0 none 0;
          k.1.fail = 0 ∧ parentCancelled k.2 (tagLaunch a.2 0) = false))) ∧
    (let p : Packet := { target := 0, form := 1, msg := { handler := 0x140, space := 9 } };
      byPlace p = true ∧ (((bound [] [p]).clusterAt 0).ctxAt 9).live = false) :=
  ⟨by decide +kernel, by decide +kernel, by decide +kernel, by decide, ⟨0, by decide +kernel⟩, by decide +kernel,
    by decide +kernel, by decide +kernel⟩


/-- Splits, pool places, pending splits with and without tasks, bank values, register offsets, a boot entry. -/
theorem witness_DeviceWrites :
    (let c := (work []).clusterAt 0;
      (5 : Word).toNat % 4 = c.asplit ∧ (2 : Word).toNat % 4 ≠ c.asplit ∧ c.spad < (128 + 1) * 1024 ∧
      (64 + 64) * 1024 ≤ c.spad ∧ c.inPark 65536 65536 = false ∧ c.inPark 0 1024 = true ∧
      (∃ x ∈ c.tasks, x.2.st ≠ .free)) ∧
    (let s : State := { work [] with clusters := [(0, { asplitNext := some 2 })] };
      (s.clusterAt 0).asplitNext = some 2 ∧ ∀ x ∈ (s.clusterAt 0).tasks, x.2.st = .free) ∧
    (let c : Cluster := { asplitNext := some 0, times := [(arrayKey 0 131072 / 128, 5, 7)] };
      ∃ x ∈ c.times, arrayKey 0 (min c.spad (splitSize 0)) ≤ x.1 * 128 ∧ x.1 * 128 < arrayKey 0 262144) ∧
    devWaits (work []) 0x1000C800300 0 = false ∧
    (devOf 0x10000000018 = .cluster 0 0x18 ∧ devOf 0x1000000FFF8 = .cluster 0 0xFFF8) ∧
    (devOf 0x1000C800308 = .die 0 0x308 ∧ devOf 0x1000C800310 = .die 0 0x310) ∧
    (let s := work [];
      (0x40 : Word).toNat / 32 % 2 ^ 35 ≠ 0 ∧ ((s.clusterAt 0).findRegion 8192).isSome) := by decide +kernel

/-- A write of LCMD that waits. -/
theorem witness_DeviceWrites_waits : ∃ pa, devWaits blocked pa 1 = true := ⟨_, blocked_device⟩

/-- A frame of 64 bytes to the MAC address 5, its filter with a ring of 4 slots of 256 bytes, and the ring full. -/
def frame : List Byte := [0, 0, 0, 0, 0, 5] ++ List.replicate 58 0
def filtered (producer : Nat) : State :=
  { work [] with io := { chrono := [(0, { filters := [(0,
      [0x1000000000000005, 0, 4 * 2 ^ 16 + 128 + 3, 0x8000, BitVec.ofNat 64 producer])] })] } }

/-- A host's write that a home holds: a job of this module is to read an erroneous line. -/
theorem witness_OutsideArrives_waits :
    let j : Job := { id := 4, ck := 0, core := 1, slot := 3, count := 1, len := 64, rsegs := [.mem 0x5FC0 64 hbmLeaf] }
    let s : State := { work [] with
      dies := [(16, { stations := [(0, [page 1 hbmLeaf])] })], pod := { jobs := [j] }, bad := [0x5FC0 / 8] }
    let q : State := { s with io := { s.io with hostQueue := [(0, 0x1FC0, 64, true, 5)] } }
    (∀ x ∈ s.io.hostQueue, x.1 ≠ 0) ∧ beforeSegs (translate q 16 0 0 0x1FC0).2 {} [.mem 0x5FC0 64 hbmLeaf] = none ∧
      q.io.hostQueue.find? (fun x => x.1 == 0) = some (0, 0x1FC0, 64, true, 5) ∧ hostTurn q 0 0x1FC0 64 true 5 = none ∧
      leafWrite 0x5000 = false := by
  decide +kernel

theorem witness_OutsideArrives :
    ((64 : Nat) % 64 = 0 ∧ (63 : Nat) % 64 ≠ 0) ∧
    (let s : State := { work [] with dies := [(16, { stations := [(0, [page 1 hbmLeaf])] })] };
      (translate s 16 0 0 0x1FC0).1 = .ok hbmLeaf 12 ∧ targetOf hbmLeaf 12 0x1FC0 = .hbm 0x5FC0 ∧
      64 ≤ 2 ^ 12 - 0x1FC0 % 2 ^ 12 ∧ leafWrite hbmLeaf = true ∧ s.pod.qnt = [] ∧
      (∀ x ∈ s.io.hostQueue, x.1 ≠ 0) ∧
      beforeSegs (translate s 16 0 0 0x1FC0).2 {} [.mem 0x5FC0 64 hbmLeaf] = some (translate s 16 0 0 0x1FC0).2) ∧
    (∃ r, (translate (work []) 16 0 0 0x4000000000000).1 = .miss r) ∧
    filterFor (work []) 0 (frameKeys frame) = none ∧ frame.length ≤ 9216 ∧
    filterFor (filtered 0) 0 (frameKeys frame) = some 0 ∧
    (let used := fun (p : Nat) =>
        let w := ((filtered p).io.filterWord 0 0 4).toNat;
        (w % 2 ^ 16 + 65536 * 65536 - w / 2 ^ 16 % 2 ^ 16) % 65536;
      used 0 < 4 ∧ used 3 < 4 ∧ 4 ≤ used 4) :=
  ⟨by decide, by decide +kernel, ⟨_, rfl⟩, by decide +kernel, by decide, by decide +kernel, by decide +kernel⟩

/-- Packets under resend at the first and the last try, links in every state, windows, and a cluster under retest. -/
theorem witness_FabricAndHealth :
    (let p : Packet := { msg := { handler := 9 } };
      let s : State := { work [] with pod := { unacked := [p], fabric := [p] } };
      s.pod.unacked[0]? = some p ∧ isPriority p = true ∧ p.resent < 4 ∧ ofJob p = false ∧ 4 ≤ ({ p with resent := 4 } : Packet).resent ∧
      isPriority { p with msg := { handler := 9, cls := 2 } } = false) ∧
    (let p : Packet := { msg := { handler := 2, cls := 2, w2 := 5, w3 := 1 } };
      let s : State := { work [] with pod := { unacked := [p], jobs := [copyJob] } };
      ofJob p = true ∧ isPriority p = false ∧ p.msg.w2 ≠ 0 ∧ p.msg.w2.toNat < 2 ^ 63 ∧ s.job? (p.msg.w2.toNat - 1) = some copyJob ∧
      copyJob.kind = .copy ∧ copyJob.sent = false) ∧
    (65535 : Nat) < 65536 ∧
    mget (fun _ => Link.pam4) ({ links := [] } : Io).links 7 = .pam4 ∧ mget (fun _ => Link.pam4) ({ links := [(7, .down)] } : Io).links 7 = .down ∧
    mget (fun _ => Link.pam4) ({ links := [(7, .nrz)] } : Io).links 7 = .nrz ∧
    mget (fun _ => Link.pam4) ({ links := [(7, .half)] } : Io).links 7 = .half ∧
    (mget (fun _ => 0) ({ undervolt := [(0, 1)] } : Io).undervolt 0 ≠ 0 ∧ mget (fun _ => 0) ({} : Io).windows 0 = 0 ∧
      mget (fun _ => 0) ({ windows := [(0, 60)] } : Io).windows 0 ≠ 0) ∧
    (let s : State := { work [] with clusters := [(0, { hstate := 1 })] };
      (s.clusterAt 0).hstate = 1 ∧ (s.clusterAt 0).volts < 3 ∧ 3 ≤ ({ volts := 3 } : Cluster).volts ∧ ∀ x ∈ (s.clusterAt 0).tasks, x.2.st = .free) ∧
    (4095 : Nat) % 4096 = 4095 ∧ 3200 ≤ (3200 : Nat) % 4096 ∧ (3199 : Nat) % 4096 < 3200 ∧
    (∃ k ∈ coreKeys 0, ((work []).coreAt k).running.isSome) ∧ (2 ^ 40 - 1 : Nat) < 2 ^ 40 ∧ (2 ^ 41 - 1 : Nat) < 2 ^ 41 ∧
    ((work []).clusterAt 0).hstate ≠ 1 := by decide +kernel

theorem witness_BringUpAndKill :
    (∃ ok, Instr.powerOn ok = .powerOn ok) ∧ ({ work [] with down := true } : State).down = true ∧
    (∃ ms, ({ work [] with moves := [.event (.resetRequest true)] } : State).moves = .event (.resetRequest true) :: ms) ∧
    (let s : State := { jobLadder job3 with pod := { kills := [(0, 0x310, 9)] }, clusters := [(0, {
        entries := [(5, { e5 with owner := hJ })] })] };
      s.ladders.filter (fun x => x.2.kind == .job && x.2.space == 0 && !x.2.ended) = [(hJ, job3)] ∧
      (∀ x ∈ s.liveTasks, x.2.2.space ≠ 0) ∧ s.pod.kills.findIdx (fun k => k.1 == 0 && k.2.1 == 0x310) = 0 ∧
      s.pod.kills[0]? = some (0, 0x310, 9) ∧ Fillable s 0 h5) ∧
    (let l : Ladder := { kind := .launch, gen := 1, standing := true, job := hJ };
      ((ladderState [(4, l)] [] []).record 0 4).kind = .launch ∧ ((ladderState [(4, l)] [] []).record 0 4).standing = true ∧
      ((ladderState [(4, l)] [] []).record 0 4).space = 0) ∧
    (∃ x ∈ (work []).liveTasks, x.2.2.space = 0 ∧
      (coreKeys x.1).find? (fun k => ((work []).coreAt k).running == some x.2.1) = some 0) :=
  ⟨⟨true, rfl⟩, rfl, ⟨_, rfl⟩, ⟨by decide, by decide, by decide, by decide,
    ⟨by decide, by decide, by decide, by decide, by decide, by decide, by decide⟩⟩, by decide, by decide⟩

/-- A SUB at 0x1000 that is to run, one whose source a copy's status is still to write, and a word that is no
instruction. -/
def stepping (w : Nat) (late : List Late) : State :=
  { work [(1, 5), (2, 7)] with
    moves := [.core 0], mem := [(0x5000, BitVec.ofNat 8 w), (0x5001, BitVec.ofNat 8 (w / 256)),
      (0x5002, BitVec.ofNat 8 (w / 65536)), (0x5003, BitVec.ofNat 8 (w / 16777216))],
    pod := { late := late } }

/-- A hint at 0x1000 and the word behind it. -/
def hinted (w v : Nat) : State :=
  { work [(1, 5), (2, 7)] with mem := (List.range 8).map fun i => (0x5000 + i, BitVec.ofNat 8 ((w + 2 ^ 32 * v) / 256 ^ i)) }

/-- Every hint before a SUB, kept and broken rules of each; a WIDE before an ADDI; a word that is no instruction. -/
theorem witness_StepRunsDecoded_units :
    (let s := hinted 0xFC820000 0x04611001;
      (fetchWord s s.core.pc).1 = .inl 0xFC820000 ∧ decodeNat 0xFC820000 = .grd 0x20000 ∧ 0x20000 % 1024 = 0 ∧
      (fetchWord (fetchWord s s.core.pc).2 (s.core.pc + 4)).1 = .inl 0x04611001 ∧ decodeNat 0x04611001 = .instr (.sub 3 1 2) ∧
      decodeNat 0xFC820001 = .grd 0x20001 ∧ 0x20001 % 1024 ≠ 0) ∧
    (decodeNat 0xFCC00005 = .mode 5 ∧ (5 % 8 ≤ 5 ∧ 5 / 8 % 4 ≠ 3 ∧ 5 / 128 % 4 ≠ 3 ∧ 5 / 8192 % 512 = 0) ∧
      decodeNat 0xFCC00006 = .mode 6 ∧ ¬ 6 % 8 ≤ 5) ∧
    (decodeNat 0xFD00007F = .sched 0x7F ∧ 0x7F / 128 % 32768 = 0 ∧ decodeNat 0xFD000080 = .sched 0x80 ∧ 0x80 / 128 % 32768 ≠ 0) ∧
    (decodeNat 0xFC400005 = .wide 5 ∧ 1 ≤ widesTaken (.addi 2 1 3) ∧ widesTaken (.sub 3 1 2) = 0) ∧
    decodeNat 0 = .reject .unassignedMajor 0 := by decide

/-- A guard that enables and one that does not; a marked source; a budget that ends, of a YIELD in user mode, and in the
handler of WDOG. -/
theorem witness_StepRunsDecoded_ends :
    (let s := hinted 0xFC820000 0x04611001;
      enabled s (some 0x20000) = true ∧ enabled s (some 0x20400) = false ∧ early (.sub 3 1 2) s = none ∧
      hazard s (some 0x20400) (.sub 3 1 2) = false) ∧
    (let s : State := { work [] with core := { core0 with gmarks := [(1, 0x5000)] } };
      ueOf s none (.sub 3 1 2) = some (none, 0x5000) ∧ 1 < s.core.wcnt ∧ s.core.trap.written = true ∧
      hazard s none (.sub 3 1 2) = false) ∧
    (let s : State := { work [] with core := { core0 with wcnt := 1 } };
      s.core.wcnt ≤ 1 ∧ s.core.trap.kill ≠ 1 ∧ s.core.running = some 0 ∧ early (.sub 3 1 2) s = none ∧
      (∃ y, Instr.yield 0 = .yield y ∧ s.core.priv = false) ∧
      after (exec (.sub 3 1 2) (handleFails s none (.sub 3 1 2))) (fun t => !t.core.waiting) = true) ∧
    ({ core0.trap with kill := 1 } : Trap).kill = 1 :=
  ⟨by decide, by decide, ⟨by decide, by decide, by decide, by decide, ⟨0, rfl, rfl⟩, by decide⟩, by decide⟩

/-- The state in which that step executes the unit. -/
def issued (s : State) : State :=
  let s1 : State := { s with cycle := s.cycle + 1, moves := [] }
  { (resolve s1 s1.ck s1.core.space s1.core.pc 4 .load).2 with core := { s.core with
      unit := { base := s.core.pc, here := s.core.pc, word := s.readN 0x5000 4 }, wcnt := s.core.wcnt - 1, vectoring := false,
      waiting := false } }

theorem witness_StepRunsDecoded :
    (let s := stepping 0x04611001 [];
      s.down = false ∧ s.moves = .core s.cur :: [] ∧ s.core.running.isSome ∧
      goal { s with cycle := s.cycle + 1, moves := [] } 0x1000 4 .load = .ok (.hbm 0x5000) hbmLeaf ∧ s.marked 0x5000 4 = false ∧
      s.core.oldCode = [] ∧ (decodeBytes (bytesFrom s.mem 0x5000 4)).1 = .instr (.sub 3 1 2) ∧
      hazard (issued s) none (.sub 3 1 2) = false ∧ early (.sub 3 1 2) (issued s) = none ∧ 1 < s.core.wcnt ∧
      reserveSources (issued s) (.sub 3 1 2) = some (issued s) ∧ ueOf (issued s) none (.sub 3 1 2) = none ∧
      after (exec (.sub 3 1 2) (handleFails (issued s) none (.sub 3 1 2))) (fun t => !t.core.waiting) = true) ∧
    hazard (issued (stepping 0x04611001 [{ dst := { slot := 0, count := 1, reg := 1 }, value := 0, ready := false }])) none
      (.sub 3 1 2) = true ∧
    reserveSources { work [] with clusters := [(0, { cluster0 with poolLen := 0 })] } (.adv 24 0 0) = none ∧
    (decodeBytes (bytesFrom (stepping 0xF0000003 []).mem 0x5000 4)).1 = .instr .eret ∧
    hazard (issued (stepping 0xF0000003 [])) none .eret = false ∧ (early .eret (issued (stepping 0xF0000003 []))).isSome :=
  ⟨by decide, by decide, by decide +kernel, by decide, by decide, by decide⟩

/-- A SUB that the step fetches, decodes and runs: 5 - 7 in a3, the pc behind it, one instruction of the budget. -/
theorem test_step_sub :
    after (step (stepping 0x04611001 [])) (fun t =>
      t.core.x 3 == 0xFFFFFFFFFFFFFFFE && t.core.pc == 0x1004 && t.core.wcnt == 4095) = true := by decide

theorem witness_DecodeOfEncode :
    hasWord (.ldv 31 31 0x3FFF) = true ∧ wellFormed (.ldv 31 31 0x3FFF) = true ∧
    ∀ w, Instr.ldv 31 31 0x3FFF ≠ .unassignedInstructionWord w := ⟨by decide, by decide, nofun⟩

/-- A word, and words with an ignored field: the queue form of CPY and the whole form of RSTV with bits 15 to 11 set. -/
theorem witness_EncodeOfDecode :
    ((0x04221800 : Nat) < 2 ^ 32 ∧ decodeNat 0x04221800 = .instr (.add 1 2 3)) ∧
    decodeNat 0x7C22000F = .instr (.cpyQ 1 2 7) ∧ decodeNat 0x7C22F80F = .instr (.cpyQ 1 2 7) ∧
    decodeNat 0x846400A6 = .instr (.rstv 3 4 5 6) ∧ decodeNat 0x8464F8A6 = .instr (.rstv 3 4 5 6) := by decide

theorem witness_StepKeepsMemory :
    (stepping 0x04611001 []).memOk ∧ ∃ t, step (stepping 0x04611001 []) = .next t := ⟨by decide, _, rfl⟩

/-- The state after reset is in canonical form, and takes a step. -/
theorem witness_reset : State.reset.memOk ∧ ∃ t, step State.reset = .next t := ⟨by decide, _, rfl⟩


end Sys2Proof.Tests
end

section
/-! PROOFS. What takes the future operations at a module that lists itself as not populated (R19, R57, R329). -/

namespace Sys2Proof.Machine

/-- The handle of the future in slot 5 of cluster 0 of module 0, with generation 3 (R16). -/
def slotFive : Word := 0x4000000005000003

/-- A module 0 whose list of populated modules leaves itself out: slot 5 of its cluster 0 holds the EMPTY completion future
of a job, and unprivileged code has its handle in register 1. -/
def selfUnlisted : State :=
  { core := { regs := [(1, slotFive)], trap := { written := true, base := 0x1000 } }
    clusters := [(0, { entries := [(5, { st := .empty, gen := 3, owner := ladderHandle 0 0 3 4 1 })] })]
    pod := { populated := [] } }

theorem selfUnlisted_ready : selfUnlisted.handlerReady := ⟨rfl, by decide, by decide⟩

/-- CANCEL there takes PRIV: that its operand is a job's completion future is looked at before whether its module is
populated (R57, R267, R329). -/
theorem selfUnlisted_cancel :
    exec (.cancel 2 1) selfUnlisted = .next (trap selfUnlisted 2 selfUnlisted.wordVal) := by
  have he : early (.cancel 2 1) selfUnlisted = some (2, selfUnlisted.wordVal) := by decide
  show Host.Outcome.next (selfUnlisted.legal (.cancel 2 1) _) = _
  simp only [State.legal, he]

/-- Refutes O17: on a module that its own list of populated modules leaves out, CANCEL of a job's completion future of the
issuing cluster takes PRIV of unprivileged code (R57, R329), where the second clause has XFAULT (R19). -/
theorem not_futureOperands : ¬ Obligations.FutureOperands := by
  unfold Obligations.FutureOperands
  intro claim
  obtain ⟨-, unpopulated, -, -⟩ := claim (.cancel 2 1) selfUnlisted 2 slotFive 11 (by decide)
  obtain ⟨t, step, took⟩ := unpopulated (by decide) (by decide) (by decide) selfUnlisted_ready
  have priv := trap_took selfUnlisted_ready 2 selfUnlisted.wordVal
  rw [selfUnlisted_cancel] at step
  obtain rfl : trap selfUnlisted 2 selfUnlisted.wordVal = t := by injection step
  exact absurd (priv.status.symm.trans took.status) (by decide)

end Sys2Proof.Machine
end

section
/-! PROOFS. The live tasks of a module, and what the almanac's own work leaves as it is. -/

namespace Sys2Proof.Machine

theorem mget_mem_or_default {α : Type} (d : Nat → α) (m : SMap α) (k : Nat) : (k, mget d m k) ∈ m ∨ mget d m k = d k := by
  induction m with
  | nil => exact .inr rfl
  | cons p m ih =>
    obtain ⟨j, v⟩ := p
    by_cases h : j = k
    · subst h; simp [mget]
    · simp only [mget, h, if_false, List.mem_cons]
      exact ih.imp .inr id

theorem mem_mput {α : Type} {m : SMap α} {k : Nat} {v : α} {p : Nat × α} :
    p ∈ mput m k v ↔ p = (k, v) ∨ (p ∈ m ∧ p.1 ≠ k) := by
  rw [mput, mem_mins, mem_mdel_iff]

/-- Cluster, slot and SPACE of every task of the module that is not free. -/
def State.liveKeys (s : State) : List (Nat × Nat × Nat) := s.liveTasks.map fun x => (x.1, x.2.1, x.2.2.space)

theorem mem_liveTasks {s : State} {ck slot : Nat} {t : Task} :
    (ck, slot, t) ∈ s.liveTasks ↔ t.st ≠ .free ∧ ∃ c, (ck, c) ∈ s.clusters ∧ (slot, t) ∈ c.tasks := by
  simp only [State.liveTasks, List.mem_flatMap, List.mem_filterMap, Prod.exists, Option.ite_none_left_eq_some, beq_iff_eq,
    Option.some.injEq, Prod.mk.injEq]
  constructor
  · rintro ⟨_, c, hc, _, _, ht, hne, rfl, rfl, rfl⟩
    exact ⟨hne, c, hc, ht⟩
  · rintro ⟨hne, c, hc, ht⟩
    exact ⟨ck, c, hc, slot, t, ht, hne, rfl, rfl, rfl⟩

theorem mem_liveKeys {s : State} {ck slot sp : Nat} :
    (ck, slot, sp) ∈ s.liveKeys ↔ ∃ c, (ck, c) ∈ s.clusters ∧ ∃ t, (slot, t) ∈ c.tasks ∧ t.st ≠ .free ∧ t.space = sp := by
  simp only [State.liveKeys, List.mem_map, Prod.exists, mem_liveTasks, Prod.mk.injEq]
  constructor
  · rintro ⟨_, _, t, ⟨hne, c, hc, ht⟩, rfl, rfl, rfl⟩
    exact ⟨c, hc, t, ht, hne, rfl⟩
  · rintro ⟨c, hc, t, ht, hne, rfl⟩
    exact ⟨ck, slot, t, ⟨hne, c, hc, ht⟩, rfl, rfl, rfl⟩

theorem liveKeys_congr {s t : State} (h : t.clusters = s.clusters) : t.liveKeys = s.liveKeys := by
  simp only [State.liveKeys, State.liveTasks, h]

/-- The tasks of the cluster that a key reads are among the listed ones. -/
theorem liveKeys_of_clusterAt {s : State} {ck slot : Nat} {t : Task} (h : (slot, t) ∈ (s.clusterAt ck).tasks)
    (hne : t.st ≠ .free) : (ck, slot, t.space) ∈ s.liveKeys := by
  obtain hc | hc := mget_mem_or_default (fun _ => ({} : Cluster)) s.clusters ck
  · exact mem_liveKeys.mpr ⟨_, hc, t, h, hne, rfl⟩
  · rw [State.clusterAt, hc] at h; cases h

theorem liveKeys_of_task {s : State} {ck slot : Nat} (hne : ((s.clusterAt ck).task slot).st ≠ .free) :
    (ck, slot, ((s.clusterAt ck).task slot).space) ∈ s.liveKeys := by
  obtain ht | ht := mget_mem_or_default (fun _ => ({} : Task)) (s.clusterAt ck).tasks slot
  · exact liveKeys_of_clusterAt ht hne
  · exact absurd (congrArg Task.st ht) hne

theorem liveKeys_putCluster {s : State} {k : Nat} {c : Cluster}
    (h : ∀ x ∈ c.tasks, x.2.st ≠ .free → (k, x.1, x.2.space) ∈ s.liveKeys) :
    ∀ x ∈ (s.putCluster k c).liveKeys, x ∈ s.liveKeys := by
  rintro ⟨ck, slot, sp⟩ hx
  obtain ⟨c', hc, t, ht, hne, rfl⟩ := mem_liveKeys.mp hx
  obtain e | ⟨hc, -⟩ := mem_mput.mp hc
  · injection e with e1 e2; subst e1 e2; exact h _ ht hne
  · exact mem_liveKeys.mpr ⟨c', hc, t, ht, hne, rfl⟩

/-- Packets in flight, on the mesh or the fabric, and those kept until they arrive. -/
def State.packets (s : State) : List Packet := s.pod.net ++ s.pod.fabric ++ s.pod.unacked

/-- What an agent's reads and writes and the almanac's own work keep: what the cores run, the tasks, the ladder tables and launch
queues, the jobs in flight and the module's number; no update is new, and no packet but an answer. -/
structure Quiet (s t : State) : Prop where
  cur : t.cur = s.cur
  live : ∀ x ∈ t.liveKeys, x ∈ s.liveKeys
  running : ∀ k, (t.coreAt k).running = (s.coreAt k).running
  ladder : ∀ d, (t.dieAt d).ladder = (s.dieAt d).ladder
  queue : ∀ d, (t.dieAt d).launchQ = (s.dieAt d).launchQ
  spilled : ∀ d, (t.dieAt d).spilled = (s.dieAt d).spilled
  module : t.pod.module = s.pod.module
  jobs : t.pod.jobs = s.pod.jobs
  com : t.pod.com = s.pod.com
  qnt : ∀ u ∈ t.pod.qnt, u ∈ s.pod.qnt
  packets : ∀ p ∈ t.packets, p ∈ s.packets ∨ p.msg.handler = 7

namespace Quiet

theorem refl (s : State) : Quiet s s :=
  ⟨rfl, fun _ h => h, fun _ => rfl, fun _ => rfl, fun _ => rfl, fun _ => rfl, rfl, rfl, rfl, fun _ h => h,
    fun _ h => .inl h⟩

theorem trans {s t u : State} (h : Quiet s t) (k : Quiet t u) : Quiet s u where
  cur := k.cur.trans h.cur
  live := fun x hx => h.live x (k.live x hx)
  running j := (k.running j).trans (h.running j)
  ladder d := (k.ladder d).trans (h.ladder d)
  queue d := (k.queue d).trans (h.queue d)
  spilled d := (k.spilled d).trans (h.spilled d)
  module := k.module.trans h.module
  jobs := k.jobs.trans h.jobs
  com := k.com.trans h.com
  qnt := fun u hu => h.qnt u (k.qnt u hu)
  packets p hp := (k.packets p hp).elim (h.packets p) .inr

/-- A state that differs in no part that counts. -/
theorem of_eq {s t : State} (core : t.core = s.core) (cur : t.cur = s.cur) (cores : t.cores = s.cores)
    (clusters : t.clusters = s.clusters) (dies : t.dies = s.dies) (pod : t.pod = s.pod) : Quiet s t where
  cur := cur
  live x hx := liveKeys_congr clusters ▸ hx
  running k := by simp only [State.coreAt, core, cur, cores]
  ladder d := by simp only [State.dieAt, dies]
  queue d := by simp only [State.dieAt, dies]
  spilled d := by simp only [State.dieAt, dies]
  module := by rw [pod]
  jobs := by rw [pod]
  com := by rw [pod]
  qnt := by rw [pod]; exact fun _ h => h
  packets p hp := .inl (by simpa only [State.packets, pod] using hp)

theorem of_calm {s t : State} (h : Calm s t) (live : ∀ x ∈ t.liveKeys, x ∈ s.liveKeys) : Quiet s t where
  cur := h.cur
  live := live
  running k := by simp only [State.coreAt, h.core, h.cur, h.cores]
  ladder d := by rw [h.dies d]
  queue d := by rw [h.dies d]
  spilled d := by rw [h.dies d]
  module := by rw [h.pod]
  jobs := by rw [h.pod]
  com := by rw [h.pod]
  qnt := by rw [h.pod]; exact fun _ h => h
  packets p hp := .inl (by simpa only [State.packets, h.pod] using hp)

theorem putCluster_of_live {s : State} {k : Nat} {c : Cluster}
    (h : ∀ x ∈ c.tasks, x.2.st ≠ .free → (k, x.1, x.2.space) ∈ s.liveKeys) : Quiet s (s.putCluster k c) :=
  { refl s with live := liveKeys_putCluster h, running := fun _ => rfl, ladder := fun _ => rfl, queue := fun _ => rfl,
                spilled := fun _ => rfl }

theorem putCluster {s : State} {k : Nat} {c : Cluster} (h : c.tasks = (s.clusterAt k).tasks) :
    Quiet s (s.putCluster k c) :=
  putCluster_of_live fun _ hx => liveKeys_of_clusterAt (h ▸ hx)

/-- A task is put that is not free only where one of its SPACE was not. -/
theorem putTasks {s : State} {k slot : Nat} {c : Cluster} {t : Task} (h : c.tasks = mput (s.clusterAt k).tasks slot t)
    (ht : t.st ≠ .free → (k, slot, t.space) ∈ s.liveKeys) : Quiet s (s.putCluster k c) :=
  putCluster_of_live fun x hx hne => by
    rw [h] at hx
    obtain rfl | ⟨hx, -⟩ := mem_mput.mp hx
    · exact ht hne
    · exact liveKeys_of_clusterAt hx hne

theorem putHeddle (s : State) (k : Nat) (h : Heddle) : Quiet s (s.putHeddle k h) := putCluster rfl

theorem putEntry (s : State) (k i : Nat) (e : Entry) : Quiet s (s.putEntry k i e) := putCluster rfl

theorem putCore {s : State} {k : Nat} {c : Core} (h : c.running = (s.coreAt k).running) : Quiet s (s.putCore k c) := by
  have run : ∀ j, ((s.putCore k c).coreAt j).running = (s.coreAt j).running := fun j => by
    rw [State.coreAt_putCore]; split
    next e => rw [h, e]
    next => rfl
  exact { cur := by simp, live := fun x hx => by rwa [liveKeys_congr (s := s) (by simp)] at hx, running := run,
          ladder := fun _ => by simp [State.dieAt], queue := fun _ => by simp [State.dieAt], spilled := fun _ => by simp [State.dieAt], module := by simp,
          jobs := by simp, com := by simp, qnt := by simp, packets := fun _ hp => .inl (by simpa [State.packets] using hp) }

theorem putDie {s : State} {d : Nat} {x : Die} (hl : x.ladder = (s.dieAt d).ladder) (hq : x.launchQ = (s.dieAt d).launchQ)
    (hs : x.spilled = (s.dieAt d).spilled) : Quiet s (s.putDie d x) :=
  { refl s with
    live := fun _ hx => hx
    running := fun _ => rfl
    ladder := fun j => by rw [State.dieAt_putDie]; split <;> simp_all
    queue := fun j => by rw [State.dieAt_putDie]; split <;> simp_all
    spilled := fun j => by rw [State.dieAt_putDie]; split <;> simp_all }

end Quiet

end Sys2Proof.Machine
end

section
/-! PROOFS. Caches, translation, reads, writes and updates are quiet. -/

namespace Sys2Proof.Machine

namespace Quiet

/-- A change of caches that lists no other clusters. -/
theorem of_calm_eq {s t : State} (h : Calm s t) (e : t.clusters = s.clusters) : Quiet s t :=
  of_calm h fun x hx => by rwa [liveKeys_congr e] at hx

theorem foldl {α : Type} {f : State → α → State} (hf : ∀ s a, Quiet s (f s a)) (l : List α) (s : State) :
    Quiet s (l.foldl f s) :=
  List.foldlRecOn l f (motive := Quiet s) (refl s) fun t h a _ => h.trans (hf t a)

theorem l2Miss (s : State) (line dom : Nat) (e st w : Bool) : Quiet s (l2Miss s line dom e st w) :=
  of_calm_eq (calm_l2Miss s line dom e st w) (by unfold Machine.l2Miss; simp only; (repeat' split) <;> rfl)

theorem l2Fill (s : State) (line dom : Nat) (e st w : Bool) : Quiet s (l2Fill s line dom e st w) := by
  unfold Machine.l2Fill; simp only; split
  · exact putDie rfl rfl rfl
  · exact l2Miss s line dom e st w

theorem l2Dirty (s : State) (line : Nat) : Quiet s (l2Dirty s line) :=
  of_calm_eq (calm_l2Dirty s line) (by unfold Machine.l2Dirty; simp only; (repeat' split) <;> rfl)

theorem l2Whole (s : State) (line dom : Nat) (e : Bool) : Quiet s (l2Whole s line dom e) :=
  of_calm_eq (calm_l2Whole s line dom e) (by unfold Machine.l2Whole; simp only; (repeat' split) <;> rfl)

theorem setTimes (s : State) (k w r : Nat) : Quiet s (s.setTimes k w r) := by
  unfold State.setTimes; simp only; repeat' split
  · exact putDie rfl rfl rfl
  · exact refl s
  · exact putCluster rfl

theorem dieError (s : State) (d : Nat) (u : Bool) (unit i sp : Nat) (a j : Word) :
    Quiet s (s.dieError d u unit i sp a j) := putDie rfl rfl rfl

theorem clusterError (s : State) (k : Nat) (u : Bool) (unit i sp : Nat) (a j : Word) :
    Quiet s (s.clusterError k u unit i sp a j) := putCluster rfl

theorem readTable (s : State) (k : Nat) : Quiet s (readTable s k) := by
  unfold Machine.readTable; split
  · exact (l2Fill _ _ _ _ _ _).trans (setTimes _ _ _ _)
  · exact refl s

theorem noteWalk (s : State) (d sp va : Nat) : Quiet s (noteWalk s d sp va) := by
  unfold Machine.noteWalk; split
  · exact dieError _ _ _ _ _ _ _ _
  · exact refl s

theorem discardBad (s : State) (d c sp va : Nat) : Quiet s (discardBad s d c sp va) := by
  unfold Machine.discardBad; simp only; split
  · exact refl s
  · refine Quiet.trans ?_ (dieError _ _ _ _ _ _ _ _)
    exact putDie rfl rfl rfl

theorem translate (s : State) (d c sp va : Nat) : Quiet s (translate s d c sp va).2 := by
  have first := discardBad s d c sp va
  unfold Machine.translate; simp only
  generalize Machine.discardBad s d c sp va = u at first ⊢
  have walked := first.trans (foldl readTable (walkReads u d sp va) u)
  split
  · exact first.trans (putDie rfl rfl rfl)
  · split
    · exact first.trans (putDie rfl rfl rfl)
    · split
      · exact walked.trans (putDie rfl rfl rfl)
      · exact walked.trans (noteWalk _ _ _ _)
      · exact walked

theorem resolve (s : State) (ck sp : Nat) (a : Word) (n : Nat) (k : AccKind) : Quiet s (resolve s ck sp a n k).2 := by
  unfold Machine.resolve; simp only
  split
  · exact refl s
  · split
    · exact refl s
    · repeat' split
      all_goals exact refl s
    · rename_i va _
      have h := translate s (ck / 4096) (ck % 4096 % 80) sp va
      split <;> rename_i e <;> rw [e] at h <;> exact h

/-- An answer leaves. -/
theorem send {s : State} {p : Packet} (h : p.msg.handler = 7) : Quiet s (s.send p) := by
  have same : (s.send p).core = s.core ∧ (s.send p).cur = s.cur ∧ (s.send p).cores = s.cores ∧
      (s.send p).clusters = s.clusters ∧ (s.send p).dies = s.dies := by
    unfold State.send; simp only; split <;> exact ⟨rfl, rfl, rfl, rfl, rfl⟩
  obtain ⟨core, cur, cores, clusters, dies⟩ := same
  refine { cur := cur, live := fun x hx => by rwa [liveKeys_congr clusters] at hx,
           running := fun k => by simp only [State.coreAt, core, cur, cores], ladder := fun d => by simp only [State.dieAt, dies],
           queue := fun d => by simp only [State.dieAt, dies], spilled := fun d => by simp only [State.dieAt, dies],
           module := ?_, jobs := ?_, com := ?_, qnt := ?_, packets := ?_ }
  all_goals unfold State.send; simp only
  · split <;> rfl
  · split <;> rfl
  · split <;> rfl
  · split <;> exact fun _ h => h
  · intro q hq
    split at hq
    · simp only [State.packets, List.mem_append, List.mem_singleton] at hq ⊢
      obtain ((hq | rfl) | hq) | hq := hq
      · exact .inl (.inl (.inl hq))
      · exact .inr h
      · exact .inl (.inl (.inr hq))
      · exact .inl (.inr hq)
    · have launched : ∀ p q, q ∈ s.launchPacket p → q ∈ s.pod.fabric ∨ q.msg = p.msg := by
        intro p q hq
        unfold State.launchPacket at hq
        split at hq
        · simp only [List.mem_append, List.mem_cons, List.mem_filter] at hq
          obtain ⟨hq, -⟩ | rfl | ⟨hq, -⟩ := hq
          · exact .inl hq
          · exact .inr rfl
          · exact .inl hq
        · exact .inl hq
      simp only [State.packets, List.mem_append, List.mem_singleton] at hq ⊢
      obtain (hq | hq) | hq | rfl := hq
      · exact .inl (.inl (.inl hq))
      · exact (launched _ _ hq).imp (fun h => .inl (.inr h)) fun e => by rw [e]; exact h
      · exact .inl (.inr hq)
      · exact .inr h

theorem bumpUsed (s : State) (ck slot t : Nat) : Quiet s (bumpUsed s ck slot t) := by
  unfold Machine.bumpUsed; simp only; split
  · exact putCore rfl
  · split
    next => exact refl s
    next h => exact putTasks rfl fun _ => liveKeys_of_task (by simpa using h)

theorem notePerformed (t : Nat) (s : State) (p : Pending) : Quiet s (notePerformed t s p) := by
  unfold Machine.notePerformed; split
  · exact send rfl
  · exact bumpUsed _ _ _ _

theorem commitDomain (s : State) (ck dom k : Nat) (bs : List Byte) (leaf : Nat) :
    Quiet s (commitDomain s ck dom k bs leaf) := by
  unfold Machine.commitDomain; simp only
  split
  · exact refl s
  · split
    · have bytes : ∀ u : State, Quiet u (u.writeBytes k bs) := fun u => of_eq rfl rfl rfl rfl rfl rfl
      have done : ∀ (u : State) (c : Cluster) (b : List Nat), c.tasks = (u.clusterAt ck).tasks →
          Quiet u ({ u.putCluster ck c with bad := b } : State) :=
        fun u c b h => (putCluster h).trans (of_eq rfl rfl rfl rfl rfl rfl)
      have written := ((l2Miss s (k / 128 * 128) dom (leafDedup leaf) (leafStream leaf)
        (bs.length == 128 && k % 128 == 0)).trans (l2Dirty _ (k / 128 * 128))).trans (bytes _)
      split
      · exact (written.trans (l2Whole _ _ _ _)).trans (done _ _ _ rfl)
      · exact written.trans (done _ _ _ rfl)
    · exact of_eq rfl rfl rfl rfl rfl rfl

theorem commitBytes (s : State) (ck sp k : Nat) (bs : List Byte) (leaf : Nat) :
    Quiet s (commitBytes s ck sp k bs leaf) := commitDomain _ _ _ _ _ _

theorem noteCode (s : State) (k n : Nat) : Quiet s (s.noteCode k n) := by
  refine { refl s with live := fun _ h => h, running := fun j => ?_, ladder := fun _ => rfl, queue := fun _ => rfl,
                       spilled := fun _ => rfl }
  by_cases h : j = s.cur
  · subst h; simp only [State.coreAt, State.noteCode, if_true]; rfl
  · rw [(stored_noteCode s k n).cores j h]

theorem fillFor (s : State) (u : Pending) : Quiet s (fillFor s u) := by
  unfold Machine.fillFor; split
  · exact l2Fill _ _ _ _ _ _
  · exact refl s

theorem applyUpdates (s : State) (us : List Pending) (t : Nat) : Quiet s (applyUpdates s us t) := by
  unfold Machine.applyUpdates; split
  · exact refl s
  · exact ((((fillFor _ _).trans (setTimes _ _ _ _)).trans (noteCode _ _ _)).trans (commitDomain _ _ _ _ _ _)).trans
      (foldl (notePerformed t) _ _)

/-- Some of the pending updates are gone. -/
theorem fewerUpdates (s : State) (keep : Pending → Bool) (done : SMap (Nat × Word)) :
    Quiet s { s with pod := { s.pod with qnt := s.pod.qnt.filter keep, qntDone := done } } :=
  { refl s with live := fun _ h => h, running := fun _ => rfl, ladder := fun _ => rfl, queue := fun _ => rfl,
                spilled := fun _ => rfl, qnt := fun _ h => (List.mem_filter.mp h).1 }

theorem applyQuantum (s : State) (key q : Nat) : Quiet s (applyQuantum s key q) := by
  unfold Machine.applyQuantum; simp only; split
  · exact refl s
  · exact (applyUpdates s _ _).trans (fewerUpdates _ _ _)

theorem settleLine (limit : Nat × Nat → Nat) (line : Nat) : ∀ (fuel : Nat) (s : State), Quiet s (settleLine limit line fuel s)
  | 0, s => refl s
  | fuel + 1, s => by
    unfold Machine.settleLine; simp only; split
    · exact refl s
    · exact (applyQuantum _ _ _).trans (settleLine limit line fuel _)

theorem settleRead (s : State) (k p : Nat) : Quiet s (settleRead s k p) := settleLine _ _ _ _

theorem settleWrite (s : State) (k p : Nat) : Quiet s (settleWrite s k p) := settleLine _ _ _ _

theorem putPts (s : State) (ck : Nat) (who : Option Nat) (t : Nat) : Quiet s (s.putPts ck who t) := by
  cases who with
  | none => exact putHeddle _ _ _
  | some k => exact putCore rfl

theorem agentRead (s : State) (who : Option Nat) (ck sp : Nat) (p : Spot) : Quiet s (agentRead s who ck sp p) := by
  have rest : ∀ (u : State) (a : Nat),
      Quiet u (((Machine.settleRead u p.key a).readTime p.key a).2.putPts ck who
        ((Machine.settleRead u p.key a).readTime p.key a).1) := fun u a =>
    ((settleRead u _ _).trans (setTimes _ _ _ _)).trans (putPts _ _ _ _)
  unfold Machine.agentRead; simp only
  split
  · exact (l2Fill _ _ _ _ _ _).trans (rest _ _)
  · exact rest s _

theorem agentWrite (s : State) (who : Option Nat) (ck sp : Nat) (p : Spot) (bs : List Byte) :
    Quiet s (agentWrite s who ck sp p bs) := by
  have rest : ∀ (u : State) (a : Nat), Quiet u (Machine.commitBytes
      ((((Machine.settleWrite u p.key a).writeTime p.key a).2.putPts ck who
        ((Machine.settleWrite u p.key a).writeTime p.key a).1).noteCode p.key bs.length) ck sp p.key bs p.leaf) := fun u a =>
    ((((settleWrite u _ _).trans (setTimes _ _ _ _)).trans (putPts _ _ _ _)).trans (noteCode _ _ _)).trans
      (commitBytes _ _ _ _ _ _)
  unfold Machine.agentWrite; simp only
  split
  · exact (l2Fill _ _ _ _ _ _).trans (rest _ _)
  · exact rest s _

end Quiet

end Sys2Proof.Machine
end

section
/-! PROOFS. The almanac's searches, spills, refills, allocations and fills are quiet. -/

namespace Sys2Proof.Machine

theorem Cluster.noteSpill_tasks (c : Cluster) (sp : Nat) : (c.noteSpill sp).tasks = c.tasks := by
  unfold Cluster.noteSpill; simp only; split <;> rfl

/-- The generation behind the next: the equation of `nextGen`, whose own would have Lean run the search of a window. -/
theorem nextGen_succ (s : State) (ck sp slot fuel g : Nat) :
    nextGen s ck sp slot (fuel + 1) g =
      if !((s.clusterAt ck).ctxAt sp).spilled then (some ((g + 1) % 16777216), s)
      else match spillWindow s ck sp slot ((g + 1) % 16777216) with
        | (none, u) => (none, u)
        | (some ks, u) =>
          if ks.any (recOf u (futureHandle s.pod.module ck slot ((g + 1) % 16777216))) then
            nextGen u ck sp slot fuel ((g + 1) % 16777216)
          else (some ((g + 1) % 16777216), u) := by
  delta nextGen nextGen._f
  generalize spillWindow = w
  rfl

theorem firstVictim_cons (s : State) (ck sp v : Nat) (vs : List Nat) :
    firstVictim s ck sp (v :: vs) =
      match spillWindow s ck sp v ((s.clusterAt ck).entry v).gen with
      | (none, u) => (none, u)
      | (some ks, u) => if ks.any (fun k => !recValid u k) then (some (some v), u) else firstVictim u ck sp vs := by
  delta firstVictim firstVictim._f
  generalize spillWindow = w
  rfl

namespace Quiet

/-- The state that a function answers beside its result. -/
theorem of_result {α : Type} {s u : State} {r : α × State} {x : α} (e : r = (x, u)) (h : Quiet s r.2) : Quiet s u := by
  subst e; exact h

theorem heddleSpot (s : State) (ck sp va n : Nat) (w : Bool) : Quiet s (heddleSpot s ck sp va n w).2 := by
  unfold Machine.heddleSpot
  split
  next e => exact of_result e (resolve _ _ _ _ _ _)
  next e => exact of_result e (resolve _ _ _ _ _ _)

/-- Kill messages leave. -/
theorem killJob (s : State) (sp code t : Nat) : Quiet s (killJob s sp code t) :=
  { refl s with live := fun _ h => h, running := fun _ => rfl, ladder := fun _ => rfl, queue := fun _ => rfl,
                spilled := fun _ => rfl }

theorem fatalAt (s : State) (d sp code unit : Nat) (a : Word) (t : Nat) : Quiet s (fatalAt s d sp code unit a t) :=
  (dieError _ _ _ _ _ _ _ _).trans (killJob _ _ _ _)

theorem fatalSpill (s : State) (ck sp slot gen m : Nat) : Quiet s (fatalSpill s ck sp slot gen m) := fatalAt _ _ _ _ _ _ _

theorem spillWindow (s : State) (ck sp slot gen : Nat) : Quiet s (spillWindow s ck sp slot gen).2 := by
  unfold Machine.spillWindow; simp only
  refine List.foldlRecOn (motive := fun r : Option (List Spot) × State => Quiet s r.2) _ _ (refl s) ?_
  rintro ⟨o, u⟩ h j -
  cases o with
  | none => exact h
  | some l =>
    simp only
    split
    next p v e =>
      have read := (h.trans (of_result e (heddleSpot _ _ _ _ _ _))).trans (agentRead v none ck sp p)
      split <;> exact read
    next v e => exact h.trans (of_result e (heddleSpot _ _ _ _ _ _))

theorem heddleWrite (s : State) (ck sp : Nat) (p : Spot) (bs : List Byte) : Quiet s (heddleWrite s ck sp p bs) :=
  agentWrite s none ck sp p bs

theorem writeRec (s : State) (ck sp : Nat) (p : Spot) (h : Word) (e : Entry) : Quiet s (writeRec s ck sp p h e) :=
  heddleWrite _ _ _ _ _

theorem clearRec (s : State) (ck sp : Nat) (p : Spot) : Quiet s (clearRec s ck sp p) := heddleWrite _ _ _ _ _

theorem fillRec (s : State) (ck sp : Nat) (p : Spot) (st : FState) (v : Word) (keep : Bool) (t : Nat) :
    Quiet s (fillRec s ck sp p st v keep t) :=
  ((heddleWrite _ _ _ _ _).trans (heddleWrite _ _ _ _ _)).trans (putHeddle _ _ _)

theorem mendEntry (s : State) (ck slot : Nat) : Quiet s (mendEntry s ck slot) := by
  unfold Machine.mendEntry; simp only; split
  · exact refl s
  · exact (putEntry _ _ _ _).trans (clusterError _ _ _ _ _ _ _ _)

theorem spillTo (s : State) (ck slot : Nat) (p : Spot) : Quiet s (spillTo s ck slot p) :=
  ((mendEntry s ck slot).trans (writeRec _ _ _ _ _ _)).trans (putCluster (Cluster.noteSpill_tasks _ _))

theorem spillNow (s : State) (ck slot : Nat) : Quiet s (spillNow s ck slot).2 := by
  unfold Machine.spillNow; simp only; split
  · exact refl s
  · split
    next u e => exact (of_result e (spillWindow _ _ _ _ _)).trans (fatalSpill _ _ _ _ _ _)
    next ks u e =>
      have w := of_result e (spillWindow _ _ _ _ _)
      split
      · exact w
      · exact w.trans (spillTo _ _ _ _)

theorem refillFrom (s : State) (ck sp slot gen : Nat) (p : Spot) : Quiet s (refillFrom s ck sp slot gen p) :=
  ((putHeddle _ _ _).trans (putEntry _ _ _ _)).trans (clearRec _ _ _ _)

theorem find (s : State) (ck sp : Nat) (h : Word) (m : Nat) : Quiet s (find s ck sp h m).2 := by
  have mended := mendEntry s ck (hSlot h)
  unfold Machine.find; simp only
  generalize Machine.mendEntry s ck (hSlot h) = u at mended ⊢
  split
  · exact mended
  · have window : ∀ {o v}, Machine.spillWindow (u.heddleAt ck m) ck sp (hSlot h) (hGen h) = (o, v) → Quiet s v := fun e =>
      (mended.trans (putHeddle u ck _)).trans (of_result e (spillWindow _ _ _ _ _))
    split
    next v e => exact (window e).trans (fatalSpill _ _ _ _ _ _)
    next ks v e =>
      split
      · exact window e
      · split
        · exact window e
        · split
          · split
            next w e2 => exact ((window e).trans (of_result e2 (spillNow _ _ _))).trans (refillFrom _ _ _ _ _ _)
            next w e2 => exact (window e).trans (of_result e2 (spillNow _ _ _))
            next w e2 => exact (window e).trans (of_result e2 (spillNow _ _ _))
          · exact (window e).trans (refillFrom _ _ _ _ _ _)

theorem nextGen (s : State) (ck sp slot fuel g : Nat) : Quiet s (nextGen s ck sp slot fuel g).2 := by
  induction fuel generalizing s g with
  | zero => exact refl s
  | succ fuel ih =>
    rw [nextGen_succ]; split
    · exact refl s
    · split
      next u e => exact of_result e (spillWindow _ _ _ _ _)
      next ks u e =>
        have w := of_result e (spillWindow _ _ _ _ _)
        split
        · exact w.trans (ih u _)
        · exact w

theorem firstVictim (s : State) (ck sp : Nat) (vs : List Nat) : Quiet s (firstVictim s ck sp vs).2 := by
  induction vs generalizing s with
  | nil => exact refl s
  | cons v vs ih =>
    rw [firstVictim_cons]
    split
    next u e => exact of_result e (spillWindow _ _ _ _ _)
    next ks u e =>
      have w := of_result e (spillWindow _ _ _ _ _)
      split
      · exact w
      · exact w.trans (ih u)

theorem allocate (s : State) (ck sp : Nat) : Quiet s (allocate s ck sp).2 := by
  unfold Machine.allocate; simp only
  split
  · split
    next g u e => exact of_result e (nextGen _ _ _ _ _ _)
    next u e => exact (of_result e (nextGen _ _ _ _ _ _)).trans (fatalSpill _ _ _ _ _ _)
  · split
    · split
      next g u e => exact of_result e (nextGen _ _ _ _ _ _)
      next u e => exact (of_result e (nextGen _ _ _ _ _ _)).trans (fatalSpill _ _ _ _ _ _)
    · split
      · exact refl s
      · split
        next u e => exact (of_result e (firstVictim _ _ _ _)).trans (fatalSpill _ _ _ _ _ _)
        next u e => exact of_result e (firstVictim _ _ _ _)
        next v u e => exact of_result e (firstVictim _ _ _ _)

theorem allocateNow (s : State) (ck sp : Nat) : Quiet s (allocateNow s ck sp).2 := by
  unfold Machine.allocateNow
  split
  next slot u e =>
    have a := of_result e (allocate _ _ _)
    split
    next v e2 =>
      have n := a.trans (of_result e2 (spillNow _ _ _))
      split
      next w e3 => exact n.trans (of_result e3 (allocate _ _ _))
      next w e3 => exact n.trans (of_result e3 (allocate _ _ _))
      next => exact refl s
    next v e2 => exact a.trans (of_result e2 (spillNow _ _ _))
    next => exact refl s
  next => exact refl s
  next => exact allocate s ck sp

theorem fillEntry (s : State) (ck slot : Nat) (st : FState) (v : Word) (t : Nat) (k : Bool) :
    Quiet s (fillEntry s ck slot st v t k) := putCluster rfl

theorem wakeRefill (s : State) (ck slot : Nat) (h : Word) : Quiet s (wakeRefill s ck slot h) := putEntry _ _ _ _

theorem fillFound (s : State) (sp : Nat) (fut : Word) (st : FState) (v : Word) (t : Nat) :
    Quiet s (fillFound s sp fut st v t) := by
  unfold Machine.fillFound; simp only
  split
  next slot u e =>
    have f := of_result e (find _ _ _ _ _)
    split
    · exact f.trans (fillEntry _ _ _ _ _ _ _)
    · exact f
  next slot p u e =>
    have f := of_result e (find _ _ _ _ _)
    split
    · exact (f.trans (fillRec _ _ _ _ _ _ _ _)).trans (wakeRefill _ _ _ _)
    · exact f
  next u _ _ e => exact of_result e (find _ _ _ _ _)

theorem fillCompletion (s : State) (sp : Nat) (fut : Word) (st : FState) (v : Word) (t : Nat) :
    Quiet s (fillCompletion s sp fut st v t) := by
  unfold Machine.fillCompletion; simp only; split
  · exact refl s
  · split
    · exact putHeddle _ _ _
    · exact fillFound _ _ _ _ _ _

theorem drainRefill (s : State) (ck slot : Nat) : Quiet s (drainRefill s ck slot) := by
  unfold Machine.drainRefill; simp only
  split
  · exact refl s
  · split
    · exact refl s
    · have cleared := putEntry s ck slot { (s.clusterAt ck).entry slot with refill := [] }
      split
      next u e => exact (cleared.trans (of_result e (find _ _ _ _ _))).trans (putEntry _ _ _ _)
      next u e => exact (cleared.trans (of_result e (find _ _ _ _ _))).trans (putEntry _ _ _ _)
      next u e => exact (cleared.trans (of_result e (find _ _ _ _ _))).trans (putEntry _ _ _ _)
      next => exact refl s

theorem freeEntry (s : State) (ck slot : Nat) : Quiet s (freeEntry s ck slot) := (putEntry _ _ _ _).trans (drainRefill _ _ _)

end Quiet
end Sys2Proof.Machine
end

section
/-! PROOFS. Ladder handles and records, and how a ladder command leaves its result (R16 to R18, R56). -/

namespace Sys2Proof.Machine

theorem fld_extract (x : Word) (lo n : Nat) : (x.extractLsb' lo n).toNat = fld x.toNat lo n := by
  simp [fld, BitVec.extractLsb'_toNat]

theorem extract_eq_zero (x : Word) (lo n : Nat) : x.extractLsb' lo n = 0 ↔ fld x.toNat lo n = 0 := by
  rw [← fld_extract, BitVec.toNat_eq]; rfl

/-- The fields of a ladder handle whose parts fit (R16, R17). -/
structure HandleOf (h : Word) (m die i sub gen : Nat) : Prop where
  kind : hKind h = 2
  module : hModule h = m
  die : hDie h = die
  index : hCluster h = i
  sub : hSub h = sub
  gen : hGen h = gen

theorem ladderHandle_toNat {m die i sub gen : Nat} (hm : m < 1024) (hd : die < 16) (hi : i < 4096) (hs : sub < 8)
    (hg : gen < 16777216) :
    (ladderHandle m die i sub gen).toNat = 2 ^ 63 + m * 2 ^ 52 + die * 2 ^ 48 + i * 2 ^ 36 + sub * 2 ^ 33 + gen := by
  simp only [ladderHandle, wordOfNat, BitVec.toNat_ofNat]
  omega

theorem ladderHandle_fields {m die i sub gen : Nat} (hm : m < 1024) (hd : die < 16) (hi : i < 4096) (hs : sub < 8)
    (hg : gen < 16777216) : HandleOf (ladderHandle m die i sub gen) m die i sub gen := by
  have n := ladderHandle_toNat hm hd hi hs hg
  constructor
  all_goals
    simp only [hKind, hModule, hDie, hCluster, hSub, hGen, fld, n, Nat.shiftRight_eq_div_pow]
    omega

theorem ladderHandle_big {m die i sub gen : Nat} (hm : m < 1024) (hd : die < 16) (hi : i < 4096) (hs : sub < 8)
    (hg : gen < 16777216) (v : Word) (hv : v.toNat < 2 ^ 63) : ladderHandle m die i sub gen ≠ v := by
  rintro rfl
  rw [ladderHandle_toNat hm hd hi hs hg] at hv
  omega

/-- The place of the record that a ladder handle names: its die and its index. -/
abbrev ladderPlace (h : Word) : Nat × Nat := (hDie h, hCluster h)

/-- Replace a ladder record of a die. -/
def State.putRecord (s : State) (d i : Nat) (r : Ladder) : State :=
  s.putDie d { s.dieAt d with ladder := mput (s.dieAt d).ladder i r }

theorem putLadder_eq (s : State) (h : Word) (r : Ladder) : s.putLadder h r = s.putRecord (hDie h) (hCluster h) r := rfl

theorem record_putRecord (s : State) (d i : Nat) (r : Ladder) (e k : Nat) :
    (s.putRecord d i r).record e k = if (e, k) = (d, i) then r else s.record e k := by
  simp only [State.record, State.putRecord, State.dieAt_putDie, Prod.mk.injEq]
  by_cases hd : e = d
  · subst hd; simp [mget_mput]
  · simp [hd]

/-- What a ladder handle names (R18, R54). -/
theorem ladder?_some {s : State} {h : Word} {r : Ladder} :
    s.ladder? h = some r ↔ hKind h = 2 ∧ hModule h = s.pod.module ∧ s.record (hDie h) (hCluster h) = r ∧ r.kind ≠ .free ∧
      r.kind.sub = hSub h ∧ r.gen = hGen h := by
  have e : mget (fun _ => ({} : Ladder)) (s.dieAt (hDie h)).ladder (hCluster h) = s.record (hDie h) (hCluster h) := rfl
  simp only [State.ladder?, e, Bool.and_eq_true, beq_iff_eq, bne_iff_ne, Option.ite_none_right_eq_some, Option.some.injEq]
  constructor
  · rintro ⟨⟨hk, hm⟩, ⟨⟨hf, hs⟩, hg⟩, rfl⟩; exact ⟨hk, hm, rfl, hf, hs, hg⟩
  · rintro ⟨hk, hm, rfl, hf, hs, hg⟩; exact ⟨⟨hk, hm⟩, ⟨⟨hf, hs⟩, hg⟩, rfl⟩

theorem ladder?_job {s : State} {h : Word} {r : Ladder} (hr : s.ladder? h = some r) : r.kind = .job ↔ hSub h = 4 := by
  obtain ⟨-, -, -, -, hs, -⟩ := ladder?_some.mp hr
  rw [← hs]; cases r.kind <;> simp [LKind.sub]

theorem ladder?_zero (s : State) : s.ladder? 0 = none := by
  cases h : s.ladder? 0 with
  | none => rfl
  | some r => exact absurd (ladder?_some.mp h).1 (by decide)

theorem ladder?_congr {s t : State} (hp : t.pod.module = s.pod.module) {h : Word}
    (hr : t.record (hDie h) (hCluster h) = s.record (hDie h) (hCluster h)) : t.ladder? h = s.ladder? h :=
  Option.ext fun r => by simp only [ladder?_some, hp, hr]

/-- A record that stands at its place, with the kind and generation that the handle names. -/
theorem ladder?_putRecord {s : State} {h : Word} {r q : Ladder} (hr : s.ladder? h = some r) (hk : q.kind = r.kind)
    (hg : q.gen = r.gen) : (s.putLadder h q).ladder? h = some q := by
  obtain ⟨k, m, -, f, b, g⟩ := ladder?_some.mp hr
  rw [ladder?_some, putLadder_eq, record_putRecord, if_pos rfl]
  exact ⟨k, m, rfl, hk ▸ f, hk ▸ b, hg ▸ g⟩

theorem ladder?_putRecord_ne (s : State) {h : Word} {d i : Nat} (r : Ladder) (ne : ladderPlace h ≠ (d, i)) :
    (s.putRecord d i r).ladder? h = s.ladder? h :=
  ladder?_congr (s := s) (t := s.putRecord d i r) rfl (by rw [record_putRecord, if_neg ne])

theorem Quiet.record {s t : State} (h : Quiet s t) (d k : Nat) : t.record d k = s.record d k := by
  rw [State.record, h.ladder d]; rfl

theorem Quiet.ladder? {s t : State} (h : Quiet s t) (w : Word) : t.ladder? w = s.ladder? w :=
  ladder?_congr h.module (h.record _ _)

theorem freeLadderBut_some {s : State} {die i : Nat} {but : Option Nat} (h : freeLadderBut s die but = some i) :
    i < 4096 ∧ some i ≠ but := by
  have m := pickPlace_mem h
  simp only [List.mem_filter, List.mem_range, Bool.and_eq_true, bne_iff_ne] at m
  exact ⟨m.1, m.2.1⟩

theorem twoLadders_some {s : State} {die i j : Nat} (h : twoLadders s die = some (i, j)) : i < 4096 ∧ j < 4096 ∧ j ≠ i := by
  unfold twoLadders at h
  split at h
  · cases h
  next k hk =>
    cases hj : freeLadderBut s die (some k) with
    | none => simp [hj] at h
    | some l =>
      simp only [hj, Option.map_some, Option.some.injEq, Prod.mk.injEq] at h
      obtain ⟨rfl, rfl⟩ := h
      obtain ⟨lt, ne⟩ := freeLadderBut_some hj
      exact ⟨(freeLadderBut_some hk).1, lt, fun e => ne (e ▸ rfl)⟩

/-- The write to LCMD of a die with its result (R56). -/
def State.lcResult (s : State) (die cmd : Nat) (lca lcb v : Word) : State :=
  s.putDie die { s.dieAt die with lcmd := wordOfNat cmd, lca := lca, lcb := lcb, lcres := v }

section
variable (s : State) (die cmd : Nat) (lca lcb v : Word)

theorem lcResult_holds : ((s.lcResult die cmd lca lcb v).dieAt die).lcres = v ∧
    ((s.lcResult die cmd lca lcb v).dieAt die).lca = lca ∧ ((s.lcResult die cmd lca lcb v).dieAt die).lcb = lcb := by
  simp [State.lcResult]

theorem lcResult_dies : s.lcResult die cmd lca lcb v = { s with dies := (s.lcResult die cmd lca lcb v).dies } := rfl

@[simp] theorem lcResult_clusterAt (ck : Nat) : (s.lcResult die cmd lca lcb v).clusterAt ck = s.clusterAt ck := rfl

theorem lcResult_ladder (d : Nat) : ((s.lcResult die cmd lca lcb v).dieAt d).ladder = (s.dieAt d).ladder := by
  simp only [State.lcResult, State.dieAt_putDie]; split
  next h => rw [h]
  next => rfl

@[simp] theorem lcResult_record (d k : Nat) : (s.lcResult die cmd lca lcb v).record d k = s.record d k := by
  rw [State.record, lcResult_ladder]; rfl

@[simp] theorem lcResult_ladder? (h : Word) : (s.lcResult die cmd lca lcb v).ladder? h = s.ladder? h :=
  ladder?_congr (s := s) (t := s.lcResult die cmd lca lcb v) rfl (lcResult_record ..)

end

/-- A command that does not wait leaves its result. -/
theorem exec_createJob {s u : State} {die : Nat} {lca lcb v : Word} (h : createJob s die lca lcb = (v, u))
    (hw : ladderWaits s die 1 lca lcb = false) :
    exec (.lcmdCreateJob die lca lcb) s = .next (u.lcResult die 1 lca lcb v) := by
  show Host.Outcome.next (if ladderWaits s die 1 lca lcb then s else
    (createJob s die lca lcb).2.lcResult die 1 lca lcb (createJob s die lca lcb).1) = _
  rw [hw, h]; rfl

theorem exec_openPhase {s u : State} {die : Nat} {lca lcb v : Word} (h : openPhase s lca lcb = (v, u))
    (hw : ladderWaits s die 2 lca lcb = false) :
    exec (.lcmdOpenPhase die lca lcb) s = .next (u.lcResult die 2 lca lcb v) := by
  show Host.Outcome.next (if ladderWaits s die 2 lca lcb then s else
    (openPhase s lca lcb).2.lcResult die 2 lca lcb (openPhase s lca lcb).1) = _
  rw [hw, h]; rfl

theorem exec_closeJob {s u : State} {die : Nat} {lca lcb v : Word} (h : closeJob s lca lcb = (v, u)) :
    exec (.lcmdCloseJob die lca lcb) s = .next (u.lcResult die 3 lca lcb v) := by
  show Host.Outcome.next ((closeJob s lca lcb).2.lcResult die 3 lca lcb (closeJob s lca lcb).1) = _
  rw [h]

/-- Only a command that reaches its allocation waits for one (R71). -/
theorem createJob_waits_not {s u : State} {die : Nat} {lca lcb v : Word} (h : createJob s die lca lcb = (v, u)) (hv : v ≠ 5) :
    ladderWaits s die 1 lca lcb = false := by
  have : (v == 5) = false := beq_eq_false_iff_ne.mpr hv
  simp only [ladderWaits, h, this, Bool.false_and]

theorem openPhase_waits_not {s u : State} {die : Nat} {lca lcb v : Word} (h : openPhase s lca lcb = (v, u)) (hv : v ≠ 5) :
    ladderWaits s die 2 lca lcb = false := by
  have : (v == 5) = false := beq_eq_false_iff_ne.mpr hv
  simp only [ladderWaits]
  split
  · simp only [h, this, Bool.false_and]
  · rfl

/-- A command that is refused with a reason leaves nothing but its result. -/
def Refused (s : State) (i : Instr) (die : Nat) (lca lcb v : Word) : Prop :=
  ∃ t, exec i s = .next t ∧ ((t.dieAt die).lcres = v ∧ (t.dieAt die).lca = lca ∧ (t.dieAt die).lcb = lcb) ∧
    t = { s with dies := t.dies } ∧ (t.dieAt die).ladder = (s.dieAt die).ladder

theorem refused_createJob {s : State} {die : Nat} {lca lcb v : Word} (h : createJob s die lca lcb = (v, s)) (hv : v ≠ 5) :
    Refused s (.lcmdCreateJob die lca lcb) die lca lcb v :=
  ⟨_, exec_createJob h (createJob_waits_not h hv), lcResult_holds .., lcResult_dies .., lcResult_ladder ..⟩

theorem refused_openPhase {s : State} {die : Nat} {lca lcb v : Word} (h : openPhase s lca lcb = (v, s)) (hv : v ≠ 5) :
    Refused s (.lcmdOpenPhase die lca lcb) die lca lcb v :=
  ⟨_, exec_openPhase h (openPhase_waits_not h hv), lcResult_holds .., lcResult_dies .., lcResult_ladder ..⟩

theorem refused_closeJob {s : State} {die : Nat} {lca lcb v : Word} (h : closeJob s lca lcb = (v, s)) :
    Refused s (.lcmdCloseJob die lca lcb) die lca lcb v :=
  ⟨_, exec_closeJob h, lcResult_holds .., lcResult_dies .., lcResult_ladder ..⟩

end Sys2Proof.Machine
end

section
/-! PROOFS. Create job, reason by reason (R53, R56). -/

namespace Sys2Proof.Machine

/-- The operand of create job is well-formed (R56). -/
abbrev CreateOperand (lca lcb : Word) : Prop := lca.extractLsb' 28 36 = 0 ∧ lcb = 0

/-- A live job holds a SPACE (R53). -/
def State.jobLives (s : State) (space : Nat) : Bool :=
  s.ladders.any fun x => x.2.kind == .job && x.2.space == space && !x.2.ended

section
variable {s : State} {die : Nat} {lca lcb : Word}

theorem createOperand_iff : CreateOperand lca lcb ↔ (fld lca.toNat 28 36 != 0 || lcb != 0) = false := by
  rw [CreateOperand, extract_eq_zero]; simp

theorem createJob_malformed (h : ¬ CreateOperand lca lcb) : createJob s die lca lcb = (1, s) := by
  rw [createOperand_iff, Bool.not_eq_false] at h
  simp only [createJob, h, if_true]

theorem createJob_noRecord (h : CreateOperand lca lcb) (two : twoLadders s die = none) : createJob s die lca lcb = (2, s) := by
  rw [createOperand_iff] at h
  simp only [createJob, h, two, Bool.false_eq_true, if_false]

variable {i j : Nat}

theorem createJob_live (h : CreateOperand lca lcb) (two : twoLadders s die = some (i, j))
    (live : s.jobLives (fld lca.toNat 0 16) = true) : createJob s die lca lcb = (3, s) := by
  rw [createOperand_iff] at h
  rw [State.jobLives] at live
  simp only [createJob, h, two, live, Bool.false_eq_true, if_false, if_true]

theorem createJob_away (h : CreateOperand lca lcb) (two : twoLadders s die = some (i, j))
    (live : s.jobLives (fld lca.toNat 0 16) = false)
    (away : s.serves (die * 4096 + fld lca.toNat 16 12) = false ∨
      ((s.clusterAt (die * 4096 + fld lca.toNat 16 12)).ctxAt (fld lca.toNat 0 16)).live = false) :
    createJob s die lca lcb = (4, s) := by
  have no : (!s.serves (die * 4096 + fld lca.toNat 16 12) ||
      !((s.clusterAt (die * 4096 + fld lca.toNat 16 12)).ctxAt (fld lca.toNat 0 16)).live) = true := by
    obtain a | a := away <;> simp [a]
  rw [createOperand_iff] at h
  rw [State.jobLives] at live
  simp only [createJob, h, two, live, no, Bool.false_eq_true, if_false, if_true]

/-- A create job that reaches its allocation (R69). -/
structure CreateReady (s : State) (die : Nat) (lca lcb : Word) (i j : Nat) : Prop where
  operand : CreateOperand lca lcb
  records : twoLadders s die = some (i, j)
  vacant : s.jobLives (fld lca.toNat 0 16) = false
  serves : s.serves (die * 4096 + fld lca.toNat 16 12) = true
  context : ((s.clusterAt (die * 4096 + fld lca.toNat 16 12)).ctxAt (fld lca.toNat 0 16)).live = true

theorem createJob_noEntry (r : CreateReady s die lca lcb i j)
    (no : ∀ slot gen, (allocateNow s (die * 4096 + fld lca.toNat 16 12) (fld lca.toNat 0 16)).1 ≠ .got slot gen) :
    ∃ u, createJob s die lca lcb = (5, u) := by
  obtain ⟨h, two, live, srv, ctx⟩ := r
  rw [createOperand_iff] at h
  rw [State.jobLives] at live
  simp only [createJob, h, two, live, srv, ctx, Bool.false_eq_true, if_false, Bool.not_true, Bool.or_self]
  exact ⟨_, rfl⟩

/-- The record that a new object gets, with the next generation (R18). -/
def State.nextGen (s : State) (die i : Nat) : Nat := ((s.record die i).gen + 1) % 16777216

theorem nextGen_lt (s : State) (die i : Nat) : s.nextGen die i < 16777216 := Nat.mod_lt _ (by decide)

theorem makeLadder_eq (s : State) (die i : Nat) (r : Ladder) (sub : Nat) : makeLadder s die i r sub =
    (ladderHandle s.pod.module die i sub (s.nextGen die i),
      countObject (s.putRecord die i { r with gen := s.nextGen die i }) r.above) := rfl

/-- The object above counts a new one (R55). -/
theorem countObject_some {s : State} {h : Word} {r : Ladder} (hr : s.ladder? h = some r) :
    countObject s h = s.putRecord (hDie h) (hCluster h) { r with created := satInc r.created } := by
  simp only [countObject, hr]; rfl

theorem countObject_none {s : State} {h : Word} (hr : s.ladder? h = none) : countObject s h = s := by
  simp only [countObject, hr]

/-- An object with none above it: its record is made, and nothing else changes. -/
theorem makeLadder_top (s : State) (die i : Nat) (r : Ladder) (sub : Nat) (h : r.above = 0) : makeLadder s die i r sub =
    (ladderHandle s.pod.module die i sub (s.nextGen die i), s.putRecord die i { r with gen := s.nextGen die i }) := by
  rw [makeLadder_eq, h, countObject_none (ladder?_zero _)]

/-- One under an object that stands: that one counts it. -/
theorem makeLadder_under {s : State} {die i : Nat} {r a : Ladder} {sub : Nat} {h : Word} (above : r.above = h)
    (stands : (s.putRecord die i { r with gen := s.nextGen die i }).ladder? h = some a) : makeLadder s die i r sub =
    (ladderHandle s.pod.module die i sub (s.nextGen die i),
      (s.putRecord die i { r with gen := s.nextGen die i }).putRecord (hDie h) (hCluster h)
        { a with created := satInc a.created }) := by
  rw [makeLadder_eq, above, countObject_some stands]

theorem nextGen_putRecord (s : State) (die : Nat) {i j : Nat} (r : Ladder) (h : j ≠ i) :
    (s.putRecord die i r).nextGen die j = s.nextGen die j := by
  rw [State.nextGen, record_putRecord, if_neg (by simpa using h)]; rfl

theorem above_of_parent {r : Ladder} (h : r.parent ≠ 0) : r.above = r.parent := by
  rw [Ladder.above, if_pos (by simpa using h)]

/-- The records of a new job and of its standing launch (R54, R56). -/
def newJob (space : Nat) (fut : Word) (gen : Nat) : Ladder := { kind := .job, space := space, future := fut, gen := gen }
def newStanding (space : Nat) (h : Word) (gen : Nat) : Ladder :=
  { kind := .launch, space := space, standing := true, parent := h, job := h, placed := true, gen := gen }

theorem createJob_got (r : CreateReady s die lca lcb i j) (hm : s.pod.module < 1024) (hd : die < 16) {slot gen : Nat} {u : State}
    (got : allocateNow s (die * 4096 + fld lca.toNat 16 12) (fld lca.toNat 0 16) = (.got slot gen, u)) :
    let h := ladderHandle s.pod.module die i 4 (s.nextGen die i)
    let job := newJob (fld lca.toNat 0 16) (futureHandle s.pod.module (die * 4096 + fld lca.toNat 16 12) slot gen)
      (s.nextGen die i)
    createJob s die lca lcb = (h, (((u.putRecord die i job).putRecord die j
      (newStanding (fld lca.toNat 0 16) h (s.nextGen die j))).putRecord die i { job with created := 1 }).newEntry
        (die * 4096 + fld lca.toNat 16 12) (fld lca.toNat 0 16) slot gen 0 h 0 false) := by
  obtain ⟨hop, two, live, srv, ctx⟩ := r
  obtain ⟨hi, -, hij⟩ := twoLadders_some two
  have q : Quiet s u := Quiet.of_result got (Quiet.allocateNow _ _ _)
  have next : ∀ k, u.nextGen die k = s.nextGen die k := fun k => by simp only [State.nextGen, q.record]
  rw [createOperand_iff] at hop
  rw [State.jobLives] at live
  intro h job
  obtain ⟨hk, hmod, hdie, hidx, hsub, hgen⟩ := ladderHandle_fields hm hd hi (by decide : 4 < 8) (nextGen_lt s die i)
  have hne : h ≠ 0 := ladderHandle_big hm hd hi (by decide) (nextGen_lt s die i) 0 (by decide)
  have stands : ∀ b, ((u.putRecord die i job).putRecord die j b).ladder? h = some job := fun b => by
    rw [ladder?_some, hk, hmod, hdie, hidx, hsub, hgen, record_putRecord, if_neg (by simpa using hij.symm),
      record_putRecord, if_pos rfl]
    exact ⟨rfl, q.module.symm, rfl, by simp [job, newJob], rfl, rfl⟩
  simp only [createJob, hop, two, live, srv, ctx, got, Bool.false_eq_true, if_false, Bool.not_true, Bool.or_self]
  rw [makeLadder_top _ _ _ _ _ (by rfl), next, q.module]
  simp only
  rw [makeLadder_under (h := h) (a := job) (above_of_parent hne) (by exact stands _), nextGen_putRecord _ _ _ hij, next, hdie, hidx]
  rfl

end
end Sys2Proof.Machine
end

section
/-! PROOFS. What create job and open phase leave (R54, R56). -/

namespace Sys2Proof.Machine

/-- A new EMPTY future stands in its slot (R63). -/
theorem entry_newEntry (s : State) (ck sp slot gen : Nat) (p o l : Word) (b : Bool) :
    let e := ((s.newEntry ck sp slot gen p o l b).clusterAt ck).entry slot
    e.st = .empty ∧ e.gen = gen ∧ e.owner = o := by
  simp [State.newEntry, State.putEntry, Cluster.entry_putEntry]

@[simp] theorem record_newEntry (s : State) (ck sp slot gen : Nat) (p o l : Word) (b : Bool) (d k : Nat) :
    (s.newEntry ck sp slot gen p o l b).record d k = s.record d k := rfl

@[simp] theorem ladder?_newEntry (s : State) (ck sp slot gen : Nat) (p o l : Word) (b : Bool) (h : Word) :
    (s.newEntry ck sp slot gen p o l b).ladder? h = s.ladder? h := rfl

/-- Create job gives the handle of a new job, with its record, its standing launch and its EMPTY future (R54, R56). -/
theorem created_job {s : State} {die : Nat} {lca lcb : Word} {i j : Nat} (r : CreateReady s die lca lcb i j)
    (hm : s.pod.module < 1024) (hd : die < 16) {slot gen : Nat} {u : State}
    (got : allocateNow s (die * 4096 + fld lca.toNat 16 12) (fld lca.toNat 0 16) = (.got slot gen, u)) :
    let h := ladderHandle s.pod.module die i 4 (s.nextGen die i)
    let ck := die * 4096 + fld lca.toNat 16 12
    let job := newJob (fld lca.toNat 0 16) (futureHandle s.pod.module ck slot gen) (s.nextGen die i)
    ∃ t, exec (.lcmdCreateJob die lca lcb) s = .next t ∧
      ((t.dieAt die).lcres = h ∧ (t.dieAt die).lca = lca ∧ (t.dieAt die).lcb = lcb) ∧
      t.record die i = { job with created := 1 } ∧
      t.record die j = newStanding (fld lca.toNat 0 16) h (s.nextGen die j) ∧
      ((t.clusterAt ck).entry slot).st = .empty ∧ ((t.clusterAt ck).entry slot).gen = gen ∧
      ((t.clusterAt ck).entry slot).owner = h := by
  obtain ⟨hi, -, hij⟩ := twoLadders_some r.records
  have made := createJob_got r hm hd got
  have ne5 := ladderHandle_big hm hd hi (by decide : 4 < 8) (nextGen_lt s die i) 5 (by decide)
  refine ⟨_, exec_createJob made (createJob_waits_not made ne5), lcResult_holds .., ?_, ?_, ?_⟩
  · rw [lcResult_record, record_newEntry, record_putRecord, if_pos rfl]
  · rw [lcResult_record, record_newEntry, record_putRecord, if_neg (by simpa using hij), record_putRecord, if_pos rfl]
  · rw [lcResult_clusterAt]; exact entry_newEntry ..

/-- The operand of open phase is well-formed (R56). -/
abbrev PhaseOperand (lcb : Word) : Prop :=
  lcb.extractLsb' 43 21 = 0 ∧ (lcb.extractLsb' 32 11).toNat ≠ 0 ∧ (lcb.extractLsb' 32 11).toNat ≤ 1024

section
variable {s : State} {die : Nat} {lca lcb : Word}

theorem phaseOperand_iff : PhaseOperand lcb ↔
    (fld lcb.toNat 43 21 != 0 || fld lcb.toNat 32 11 == 0 || decide (1024 < fld lcb.toNat 32 11)) = false := by
  rw [PhaseOperand, extract_eq_zero, fld_extract]; simp [and_assoc]

theorem openPhase_malformed (h : ¬ PhaseOperand lcb) : openPhase s lca lcb = (1, s) := by
  rw [phaseOperand_iff, Bool.not_eq_false] at h
  simp only [openPhase, h, if_true]

theorem openPhase_noRecord (h : PhaseOperand lcb) (free : freeLadder s (hDie lca) = none) : openPhase s lca lcb = (2, s) := by
  rw [phaseOperand_iff] at h
  simp only [openPhase, h, free, Bool.false_eq_true, if_false]

/-- An open phase that has a record to make. -/
structure PhaseRecord (s : State) (lca lcb : Word) (i : Nat) : Prop where
  operand : PhaseOperand lcb
  record : freeLadder s (hDie lca) = some i

variable {i : Nat}

theorem openPhase_stale (f : PhaseRecord s lca lcb i) (no : s.ladder? lca = none) : openPhase s lca lcb = (6, s) := by
  have h := phaseOperand_iff.mp f.operand
  simp only [openPhase, h, f.record, no, Bool.false_eq_true, if_false]

variable {r : Ladder}

theorem openPhase_noJob (f : PhaseRecord s lca lcb i) (hr : s.ladder? lca = some r) (no : r.kind ≠ .job) :
    openPhase s lca lcb = (6, s) := by
  have h := phaseOperand_iff.mp f.operand
  have k : (r.kind != .job || hSub lca != 4) = true := by simp [no]
  simp only [openPhase, h, f.record, hr, k, Bool.false_eq_true, if_false, if_true]

theorem openPhase_closed (f : PhaseRecord s lca lcb i) (hr : s.ladder? lca = some r) (job : r.kind = .job)
    (last : r.last = true) : openPhase s lca lcb = (7, s) := by
  have h := phaseOperand_iff.mp f.operand
  have k : (r.kind != .job || hSub lca != 4) = false := by simp [job, (ladder?_job hr).mp job]
  simp only [openPhase, h, f.record, hr, k, last, Bool.false_eq_true, if_false, if_true]

theorem openPhase_ended (f : PhaseRecord s lca lcb i) (hr : s.ladder? lca = some r) (job : r.kind = .job)
    (last : r.last = false) (ended : r.ended = true) : openPhase s lca lcb = (6, s) := by
  have h := phaseOperand_iff.mp f.operand
  have k : (r.kind != .job || hSub lca != 4) = false := by simp [job, (ladder?_job hr).mp job]
  simp only [openPhase, h, f.record, hr, k, last, ended, Bool.false_eq_true, if_false, if_true]

/-- A job that is live and not closed (R56). -/
structure OpenJob (s : State) (lca : Word) (r : Ladder) : Prop where
  stands : s.ladder? lca = some r
  job : r.kind = .job
  last : r.last = false
  ended : r.ended = false

theorem OpenJob.form (o : OpenJob s lca r) : (r.kind != .job || hSub lca != 4) = false := by
  simp [o.job, (ladder?_job o.stands).mp o.job]

theorem openPhase_noEntry (f : PhaseRecord s lca lcb i) (o : OpenJob s lca r)
    (no : ∀ slot gen, (allocateNow s (hCk r.future) r.space).1 ≠ .got slot gen) : ∃ u, openPhase s lca lcb = (5, u) := by
  have h := phaseOperand_iff.mp f.operand
  simp only [openPhase, h, f.record, o.stands, o.form, o.last, o.ended, Bool.false_eq_true, if_false]
  exact ⟨_, rfl⟩

/-- The record of a new phase (R54, R56). -/
def newPhase (r : Ladder) (fut lca : Word) (tag n gen : Nat) : Ladder :=
  { kind := .phase, space := r.space, future := fut, parent := lca, job := lca, tag := tag, modules := n, prev := r.current,
    gen := gen }

theorem openPhase_got (f : PhaseRecord s lca lcb i) (o : OpenJob s lca r) (other : hCluster lca ≠ i) (first : r.current = 0)
    {slot gen : Nat} {u : State} (got : allocateNow s (hCk r.future) r.space = (.got slot gen, u)) :
    let h := ladderHandle s.pod.module (hDie lca) i 3 (s.nextGen (hDie lca) i)
    let phase := newPhase r (futureHandle s.pod.module (hCk r.future) slot gen) lca (fld lcb.toNat 0 32) (fld lcb.toNat 32 11)
      (s.nextGen (hDie lca) i)
    openPhase s lca lcb = (h, ((((u.putRecord (hDie lca) i phase).putLadder lca { r with created := satInc r.created }).putLadder
      lca { r with created := satInc r.created, current := h }).newEntry (hCk r.future) r.space slot gen lca h 0 false)) := by
  have hop := phaseOperand_iff.mp f.operand
  have q : Quiet s u := Quiet.of_result got (Quiet.allocateNow _ _ _)
  have next : u.nextGen (hDie lca) i = s.nextGen (hDie lca) i := by simp only [State.nextGen, q.record]
  have above : lca ≠ 0 := by
    rintro rfl; exact absurd o.stands (by rw [ladder?_zero]; nofun)
  have enter : enterPhase u r.current true = u := by rw [first, enterPhase, ladder?_zero]
  have stands : ∀ b, (u.putRecord (hDie lca) i b).ladder? lca = some r := fun b => by
    rw [ladder?_putRecord_ne _ _ (by simpa using other), q.ladder?, o.stands]
  intro h phase
  generalize hq : ({ r with created := satInc r.created } : Ladder) = q1
  have counts : (u.putRecord (hDie lca) i phase).putLadder lca { r with created := satInc r.created } =
    (u.putRecord (hDie lca) i phase).putLadder lca q1 := by rw [hq]
  have made : makeLadder u (hDie lca) i
      { kind := .phase, space := r.space, future := futureHandle u.pod.module (hCk r.future) slot gen, parent := lca, job := lca,
        tag := fld lcb.toNat 0 32, modules := fld lcb.toNat 32 11, prev := r.current } 3 =
      (h, (u.putRecord (hDie lca) i phase).putLadder lca q1) := by
    rw [makeLadder_under (h := lca) (a := r) (above_of_parent above) (by exact stands _), next, q.module, ← counts]; rfl
  have counted : ((u.putRecord (hDie lca) i phase).putLadder lca q1).ladder? lca = some q1 :=
    ladder?_putRecord (stands phase) (by rw [← hq]) (by rw [← hq])
  have current : ({ r with created := satInc r.created, current := h } : Ladder) = { q1 with current := h } := by rw [← hq]
  rw [current]
  simp only [openPhase, hop, f.record, o.stands, o.form, o.last, o.ended, got, enter, made, counted, Bool.false_eq_true,
    if_false]

/-- Open phase gives the handle of a new phase, which is the job's current one, with its EMPTY future (R54, R56). -/
theorem opened_phase (f : PhaseRecord s lca lcb i) (o : OpenJob s lca r) (other : hCluster lca ≠ i) (first : r.current = 0)
    (here : hDie lca = die) (hm : s.pod.module < 1024) (hd : die < 16) {slot gen : Nat} {u : State}
    (got : allocateNow s (hCk r.future) r.space = (.got slot gen, u)) :
    let h := ladderHandle s.pod.module die i 3 (s.nextGen die i)
    ∃ t, exec (.lcmdOpenPhase die lca lcb) s = .next t ∧
      ((t.dieAt die).lcres = h ∧ (t.dieAt die).lca = lca ∧ (t.dieAt die).lcb = lcb) ∧
      t.record die i = newPhase r (futureHandle s.pod.module (hCk r.future) slot gen) lca (fld lcb.toNat 0 32)
        (fld lcb.toNat 32 11) (s.nextGen die i) ∧
      t.ladder? lca = some { r with current := h, created := satInc r.created } ∧
      ((t.clusterAt (hCk r.future)).entry slot).st = .empty ∧ ((t.clusterAt (hCk r.future)).entry slot).owner = h := by
  subst here
  obtain ⟨hi, -⟩ := freeLadderBut_some f.record
  have made := openPhase_got f o other first got
  have ne5 := ladderHandle_big hm hd hi (by decide : 3 < 8) (nextGen_lt s (hDie lca) i) 5 (by decide)
  have q : Quiet s u := Quiet.of_result got (Quiet.allocateNow _ _ _)
  have ne : ((hDie lca, i) : Nat × Nat) ≠ ladderPlace lca := by simpa using fun e => other e.symm
  refine ⟨_, exec_openPhase made (openPhase_waits_not made ne5), lcResult_holds .., ?_, ?_, ?_⟩
  · rw [lcResult_record, record_newEntry, putLadder_eq, putLadder_eq, record_putRecord, if_neg ne, record_putRecord, if_neg ne,
      record_putRecord, if_pos rfl]
  · rw [lcResult_ladder?, ladder?_newEntry]
    refine ladder?_putRecord (ladder?_putRecord (r := r) ?_ rfl rfl) rfl rfl
    rw [ladder?_putRecord_ne _ _ ne.symm, q.ladder?, o.stands]
  · obtain ⟨st, -, owner⟩ := entry_newEntry (((u.putRecord (hDie lca) i (newPhase r _ lca _ _ _)).putLadder lca _).putLadder lca _)
      (hCk r.future) r.space slot gen lca (ladderHandle s.pod.module (hDie lca) i 3 (s.nextGen (hDie lca) i)) 0 false
    rw [lcResult_clusterAt]
    exact ⟨st, owner⟩

end
end Sys2Proof.Machine
end

section
/-! PROOFS. Ends and counts of ladder objects, and the fill of a future that can be filled (R53 to R55, R65, R84). -/

namespace Sys2Proof.Machine

/-- What counting and noting leave of a ladder record: what it is, whose it is, and whether it has ended. -/
structure Grown (r q : Ladder) : Prop where
  kind : q.kind = r.kind
  gen : q.gen = r.gen
  space : q.space = r.space
  standing : q.standing = r.standing
  job : q.job = r.job
  last : q.last = r.last
  ended : q.ended = r.ended
  time : r.maxTime ≤ q.maxTime

theorem Grown.refl (r : Ladder) : Grown r r := ⟨rfl, rfl, rfl, rfl, rfl, rfl, rfl, Nat.le_refl _⟩

theorem Grown.trans {r q p : Ladder} (h : Grown r q) (k : Grown q p) : Grown r p :=
  ⟨k.kind.trans h.kind, k.gen.trans h.gen, k.space.trans h.space, k.standing.trans h.standing, k.job.trans h.job,
    k.last.trans h.last, k.ended.trans h.ended, Nat.le_trans h.time k.time⟩

/-- Every ladder record stands as before but for what counting changes, and nothing but ladder records changed. -/
structure Counted (s t : State) : Prop where
  frame : t = { s with dies := t.dies }
  record : ∀ d k, Grown (s.record d k) (t.record d k)

namespace Counted

theorem refl (s : State) : Counted s s := ⟨rfl, fun _ _ => Grown.refl _⟩

theorem trans {s t u : State} (h : Counted s t) (k : Counted t u) : Counted s u :=
  ⟨by rw [k.frame, h.frame], fun d i => (h.record d i).trans (k.record d i)⟩

/-- A record that is replaced by one that has grown. -/
theorem putLadder {s : State} {h : Word} {r q : Ladder} (hr : s.ladder? h = some r) (g : Grown r q) :
    Counted s (s.putLadder h q) := by
  refine ⟨rfl, fun d k => ?_⟩
  rw [putLadder_eq, record_putRecord]
  split
  next e =>
    obtain ⟨rfl, rfl⟩ := Prod.mk.inj e
    rw [(ladder?_some.mp hr).2.2.1]; exact g
  next => exact Grown.refl _

theorem countEnded (s : State) (h : Word) (p c : Bool) (code t : Nat) : Counted s (countEnded s h p c code t) := by
  unfold Machine.countEnded
  split
  · exact refl s
  next r hr => exact putLadder hr ⟨rfl, rfl, rfl, rfl, rfl, rfl, rfl, Nat.le_max_left _ _⟩

theorem noteKey (s : State) (g : Word) (k : Nat) : Counted s (noteKey s g k) := by
  unfold Machine.noteKey
  split
  next r hr =>
    split
    · exact putLadder hr ⟨rfl, rfl, rfl, rfl, rfl, rfl, rfl, Nat.le_refl _⟩
    · exact refl s
  · exact refl s

end Counted

/-- The end of an object: its record says so, and the others are counted (R54, R55, R309). -/
theorem endObject_counted (s : State) (h : Word) (r : Ladder) :
    Counted (s.putLadder h { r with ended := true }) (endObject s h r) :=
  (Counted.countEnded _ _ _ _ _ _).trans (Counted.noteKey _ _ _)

/-- Clusters that differ at most in what their heddles are to free and count of launches, where nothing is to be freed no more
(R84, R113). -/
structure OnlyKept (s t : State) : Prop where
  cluster : ∀ ck, t.clusterAt ck = { s.clusterAt ck with heddle := { (s.clusterAt ck).heddle with
    kept := (t.clusterAt ck).heddle.kept, counts := (t.clusterAt ck).heddle.counts } }
  kept : ∀ ck h, h ∈ (s.clusterAt ck).heddle.kept → h ∈ (t.clusterAt ck).heddle.kept

namespace OnlyKept

theorem of_clusters {s t : State} (h : t.clusters = s.clusters) : OnlyKept s t := by
  have e : ∀ ck, t.clusterAt ck = s.clusterAt ck := fun ck => by rw [State.clusterAt, h]; rfl
  exact ⟨fun ck => by rw [e], fun ck h hk => by rwa [e]⟩

theorem trans {s t u : State} (h : OnlyKept s t) (k : OnlyKept t u) : OnlyKept s u :=
  ⟨fun ck => by rw [k.cluster ck, h.cluster ck], fun ck x hx => k.kept ck x (h.kept ck x hx)⟩

theorem closeLaunch (h : Word) (s : State) (ck : Nat) : OnlyKept s (closeLaunch h s ck) := by
  have at' : ∀ j, (Machine.closeLaunch h s ck).clusterAt j = if j = ck then
      { s.clusterAt ck with heddle := { (s.clusterAt ck).heddle with
        kept := (s.clusterAt ck).heddle.kept ++ [h], counts := mdel (s.clusterAt ck).heddle.counts (launchTag h) } }
      else s.clusterAt j := fun j => State.clusterAt_putCluster _ _ _ _
  constructor
  · intro j; rw [at']; split
    next e => rw [e]
    next => rfl
  · intro j x hx; rw [at']; split
    next e => subst e; exact List.mem_append_left _ hx
    next => exact hx

theorem foldl {α : Type} {f : State → α → State} (hf : ∀ s a, OnlyKept s (f s a)) (l : List α) (s : State) :
    OnlyKept s (l.foldl f s) :=
  List.foldlRecOn l f (motive := OnlyKept s) (of_clusters rfl) fun t h a _ => h.trans (hf t a)

theorem entries {s t : State} (h : OnlyKept s t) (ck : Nat) : (t.clusterAt ck).entries = (s.clusterAt ck).entries := by
  rw [h.cluster ck]

/-- A future that can be filled still can. -/
theorem fillable {s t : State} (h : OnlyKept s t) {sp : Nat} {f : Word} (p : Fillable s sp f) : Fillable t sp f := by
  have c := h.cluster (hCk f)
  obtain ⟨p1, p2, p3, p4, p5, p6, p7⟩ := p
  constructor
  · exact p1
  all_goals rw [c]; assumption

end OnlyKept

/-- A step of a fold that establishes something, which every step keeps, under an invariant. -/
theorem foldl_established {α β : Type} {f : β → α → β} {I P : β → Prop} {x : α} (inv : ∀ b a, I b → I (f b a))
    (start : ∀ b, I b → P (f b x)) (keep : ∀ b a, P b → P (f b a)) : ∀ (l : List α) (b : β), x ∈ l → I b → P (l.foldl f b)
  | [], _, hx, _ => by cases hx
  | a :: l, b, hx, hb => by
    obtain rfl | hx := List.mem_cons.mp hx
    · exact List.foldlRecOn l f (motive := P) (start b hb) fun c hc y _ => keep c y hc
    · exact foldl_established inv start keep l (f b a) hx (inv b a hb)

theorem endObject_frame (s : State) (h : Word) (r : Ladder) : endObject s h r = { s with dies := (endObject s h r).dies } := by
  rw [(endObject_counted s h r).frame]; rfl

theorem closeLaunches_frame (h : Word) (l : List Nat) (s : State) :
    l.foldl (closeLaunch h) s = { s with clusters := (l.foldl (closeLaunch h) s).clusters } :=
  List.foldlRecOn l (closeLaunch h) (motive := fun t => t = { s with clusters := t.clusters }) rfl fun t ht ck _ => by
    rw [show closeLaunch h t ck = { t with clusters := (closeLaunch h t ck).clusters } from rfl, ht]

theorem record_closeLaunches (h : Word) (l : List Nat) (s : State) (d k : Nat) :
    (l.foldl (closeLaunch h) s).record d k = s.record d k := by
  rw [closeLaunches_frame]; rfl

/-- The end of a standing launch: its record says so, the others are counted (R53, R54). -/
theorem endStanding_record (s : State) (h : Word) (r : Ladder) (d k : Nat) :
    (endStanding s h r).record d k = (endObject s h r).record d k := record_closeLaunches _ _ _ _ _

theorem endStanding_grown (s : State) (h : Word) (r : Ladder) {d k : Nat} (ne : (d, k) ≠ ladderPlace h) :
    Grown (s.record d k) ((endStanding s h r).record d k) := by
  have g := (endObject_counted s h r).record d k
  rwa [putLadder_eq, record_putRecord, if_neg ne, ← endStanding_record] at g

/-- An object that has ended stays so, whatever launch ends. -/
theorem endStanding_ended (s : State) (h : Word) (r : Ladder) {d k : Nat}
    (e : (d, k) = ladderPlace h ∨ (s.record d k).ended = true) : ((endStanding s h r).record d k).ended = true := by
  rw [endStanding_record, ((endObject_counted s h r).record d k).ended, putLadder_eq, record_putRecord]
  split
  · rfl
  next ne => exact e.resolve_left ne

theorem endStanding_onlyKept (s : State) (h : Word) (r : Ladder) : OnlyKept s (endStanding s h r) :=
  (OnlyKept.of_clusters (by rw [endObject_frame])).trans (OnlyKept.foldl (OnlyKept.closeLaunch h) _ _)

theorem endStanding_pod (s : State) (h : Word) (r : Ladder) : (endStanding s h r).pod = s.pod := by
  rw [endStanding, closeLaunches_frame, endObject_frame]

/-- A cluster with an entry of a launch is one of those that hold something of it (R84). -/
theorem mem_launchHolders {s : State} {h : Word} {ck : Nat} (he : ∃ e ∈ (s.clusterAt ck).entries, e.2.launch = h) :
    ck ∈ launchHolders s h := by
  obtain ⟨e, he, hl⟩ := he
  obtain hc | hc := mget_mem_or_default (fun _ => ({} : Cluster)) s.clusters ck
  · refine List.mem_map.mpr ⟨_, List.mem_filter.mpr ⟨hc, ?_⟩, rfl⟩
    simp only [Bool.or_eq_true, List.any_eq_true, beq_iff_eq]
    exact .inl (.inl ⟨e, he, hl⟩)
  · rw [State.clusterAt, hc] at he; cases he

/-- The kept entries of a standing launch that ends are to be freed wherever it has entries (R84). -/
theorem endStanding_kept (s : State) (h : Word) (r : Ladder) {ck : Nat}
    (he : ∃ e ∈ (s.clusterAt ck).entries, e.2.launch = h) : h ∈ ((endStanding s h r).clusterAt ck).heddle.kept := by
  refine foldl_established (I := fun _ => True) (P := fun t => h ∈ (t.clusterAt ck).heddle.kept) (x := ck)
    (fun _ _ _ => trivial) (fun t _ => ?_) (fun t j ht => (OnlyKept.closeLaunch h t j).kept ck h ht) _ _ (mem_launchHolders he)
    trivial
  show h ∈ ((t.putCluster ck _).clusterAt ck).heddle.kept
  rw [State.clusterAt_putCluster_self]
  simp

/-- A future that can be filled is (R65, R171). -/
theorem fillCompletion_fillable {s : State} {sp : Nat} {f : Word} (p : Fillable s sp f) (st : FState) (v : Word) (t : Nat) :
    fillCompletion s sp f st v t = fillEntry s (hCk f) (hSlot f) st v t false := by
  obtain ⟨h0, empty, gen, unconsumed, -, free, sound⟩ := p
  simp only [Cluster.busy, Bool.or_eq_false_iff] at free
  have found : find s (hCk f) sp f t = (.resident (hSlot f), s) := by
    have hit : (((s.clusterAt (hCk f)).entry (hSlot f)).resident && ((s.clusterAt (hCk f)).entry (hSlot f)).gen == hGen f &&
        !((s.clusterAt (hCk f)).entry (hSlot f)).consumed) = true := by
      simp [Entry.resident, empty, gen, unconsumed]
    simp only [find, mendEntry, sound, Bool.not_false, if_true, hit]
  simp only [fillCompletion, beq_eq_false_iff_ne.mpr h0, free.1, Bool.false_eq_true, if_false, fillFound, found, empty]
  rfl

theorem filled_fillEntry (s : State) (f : Word) (st : FState) (v : Word) (t : Nat) (k : Bool) :
    filled (fillEntry s (hCk f) (hSlot f) st v t k) f st v t := by
  simp [filled, fillEntry, Cluster.entry, Cluster.putEntry]

theorem fillEntry_kept (s : State) (ck slot : Nat) (st : FState) (v : Word) (t : Nat) (k : Bool) (j : Nat) :
    ((fillEntry s ck slot st v t k).clusterAt j).heddle.kept = (s.clusterAt j).heddle.kept := by
  simp only [fillEntry, State.clusterAt_putCluster]
  split
  next e => rw [e]; split <;> rfl
  next => rfl

end Sys2Proof.Machine
end

section
/-! PROOFS. Close job (R53, R54, R56). -/

namespace Sys2Proof.Machine

theorem mem_ladders {s : State} {h : Word} {r : Ladder} : (h, r) ∈ s.ladders ↔ ∃ d die k, (d, die) ∈ s.dies ∧
    (k, r) ∈ die.ladder ∧ r.kind ≠ .free ∧ h = ladderHandle s.pod.module d k r.kind.sub r.gen := by
  simp only [State.ladders, List.mem_flatMap, List.mem_filterMap, Prod.exists, Option.ite_none_left_eq_some, beq_iff_eq,
    Option.some.injEq, Prod.mk.injEq]
  constructor
  · rintro ⟨d, die, hd, k, r, hr, hf, rfl, rfl⟩
    exact ⟨d, die, k, hd, hr, hf, rfl⟩
  · rintro ⟨d, die, k, hd, hr, hf, rfl⟩
    exact ⟨d, die, hd, k, r, hr, hf, rfl, rfl⟩

/-- A record that stands is listed with its handle. -/
theorem record_mem_ladders {s : State} {d k : Nat} (hf : (s.record d k).kind ≠ .free) :
    (ladderHandle s.pod.module d k (s.record d k).kind.sub (s.record d k).gen, s.record d k) ∈ s.ladders := by
  obtain hk | hk := mget_mem_or_default (fun _ => ({} : Ladder)) (s.dieAt d).ladder k
  · obtain hd | hd := mget_mem_or_default (fun _ => ({} : Die)) s.dies d
    · exact mem_ladders.mpr ⟨d, _, k, hd, hk, hf, rfl⟩
    · rw [State.dieAt, hd] at hk; cases hk
  · exact absurd (congrArg Ladder.kind hk) hf

theorem mem_ladders_putRecord {s : State} {d i : Nat} {q : Ladder} {x : Word × Ladder} (hx : x ∈ (s.putRecord d i q).ladders) :
    x ∈ s.ladders ∨ x = (ladderHandle s.pod.module d i q.kind.sub q.gen, q) := by
  obtain ⟨h, r⟩ := x
  obtain ⟨e, die, k, he, hk, hf, rfl⟩ := mem_ladders.mp hx
  obtain eq | ⟨he, -⟩ := mem_mput.mp he
  · obtain ⟨rfl, rfl⟩ := Prod.mk.inj eq
    obtain eq | ⟨hk, -⟩ := mem_mput.mp hk
    · obtain ⟨rfl, rfl⟩ := Prod.mk.inj eq
      exact .inr rfl
    · obtain hd | hd := mget_mem_or_default (fun _ => ({} : Die)) s.dies e
      · exact .inl (mem_ladders.mpr ⟨e, _, k, hd, hk, hf, rfl⟩)
      · rw [State.dieAt, hd] at hk; cases hk
  · exact .inl (mem_ladders.mpr ⟨e, die, k, he, hk, hf, rfl⟩)

/-- The standing launches of a job that have not ended, and the state behind their ends (R53). -/
def standings (s : State) (job : Word) : List (Word × Ladder) :=
  s.ladders.filter fun x => x.2.standing && x.2.job == job && !x.2.ended
def endListed (s : State) (x : Word × Ladder) : State := endStanding s x.1 x.2
def endStandings (s : State) (job : Word) : State := (standings s job).foldl endListed s

theorem mem_standings {s : State} {job : Word} {x : Word × Ladder} :
    x ∈ standings s job ↔ x ∈ s.ladders ∧ x.2.standing = true ∧ x.2.job = job ∧ x.2.ended = false := by
  simp [standings, and_assoc]

section
variable (s : State) (job : Word)

theorem endStandings_onlyKept : OnlyKept s (endStandings s job) :=
  OnlyKept.foldl (f := endListed) (fun t x => endStanding_onlyKept t x.1 x.2) _ _

theorem endStandings_pod : (endStandings s job).pod = s.pod :=
  List.foldlRecOn (standings s job) _ (motive := fun t : State => t.pod = s.pod) rfl fun t ht x _ =>
    (endStanding_pod t x.1 x.2).trans ht

/-- A record at no place of a standing launch of the job is only counted. -/
theorem endStandings_grown {d k : Nat} (ne : ∀ x ∈ standings s job, (d, k) ≠ ladderPlace x.1) :
    Grown (s.record d k) ((endStandings s job).record d k) :=
  List.foldlRecOn (standings s job) _ (motive := fun t : State => Grown (s.record d k) (t.record d k)) (Grown.refl _)
    fun t ht x hx => ht.trans (endStanding_grown t x.1 x.2 (ne x hx))

variable {s job} {x : Word × Ladder} (hx : x ∈ standings s job)
include hx

/-- A standing launch of the job has ended behind them (R53). -/
theorem endStandings_ended {d k : Nat} (place : (d, k) = ladderPlace x.1) : ((endStandings s job).record d k).ended = true :=
  foldl_established (f := endListed) (I := fun _ => True) (P := fun t => (t.record d k).ended = true) (fun _ _ _ => trivial)
    (fun t _ => endStanding_ended t x.1 x.2 (.inl place)) (fun t y ht => endStanding_ended t y.1 y.2 (.inr ht)) _ _ hx trivial

/-- Its kept entries are to be freed in every cluster (R53, R84). -/
theorem endStandings_kept {ck : Nat} (he : ∃ e ∈ (s.clusterAt ck).entries, e.2.launch = x.1) :
    x.1 ∈ ((endStandings s job).clusterAt ck).heddle.kept :=
  foldl_established (f := endListed) (I := OnlyKept s) (P := fun t => x.1 ∈ (t.clusterAt ck).heddle.kept)
    (fun t y ht => ht.trans (endStanding_onlyKept t y.1 y.2))
    (fun t ht => endStanding_kept t x.1 x.2 (by rwa [ht.entries]))
    (fun t y ht => (endStanding_onlyKept t y.1 y.2).kept ck x.1 ht) _ _ hx (OnlyKept.of_clusters rfl)

end

/-- A record that stands and has grown still does. -/
theorem ladder?_of_grown {s t : State} {h : Word} {r : Ladder} (hp : t.pod = s.pod) (hr : s.ladder? h = some r)
    (g : Grown r (t.record (hDie h) (hCluster h))) : t.ladder? h = some (t.record (hDie h) (hCluster h)) := by
  obtain ⟨hk, hm, -, hf, hs, hg⟩ := ladder?_some.mp hr
  exact ladder?_some.mpr ⟨hk, by rw [hm, hp], rfl, by rwa [g.kind], by rw [g.kind, hs], by rw [g.gen, hg]⟩

/-- A job that is live completes: its standing launches end, then the job, then its future is filled (R53, R54, R56). -/
theorem completeJob_live {s : State} {job : Word} {r r1 : Ladder} (hr : s.ladder? job = some r) (live : r.ended = false)
    (h1 : (endStandings s job).ladder? job = some r1) : completeJob s job =
      fillCompletion (endObject (endStandings s job) job r1) r.space r.future .full 0 r1.maxTime := by
  have fold : (s.ladders.filter fun x => x.2.standing && x.2.job == job && !x.2.ended).foldl
      (fun s x => endStanding s x.1 x.2) s = endStandings s job := rfl
  simp only [completeJob, hr, live, fold, h1, Bool.false_eq_true, if_false, Option.getD_some]

section
variable {s : State} {die : Nat} {lca lcb : Word} {r : Ladder}

theorem closeJob_malformed (h : lcb ≠ 0) : closeJob s lca lcb = (1, s) := by
  have : (lcb != 0) = true := by simpa using h
  simp only [closeJob, this, if_true]

theorem closeJob_stale (no : s.ladder? lca = none) : closeJob s lca 0 = (6, s) := by
  simp only [closeJob, no, bne_self_eq_false, Bool.false_eq_true, if_false]

theorem closeJob_noJob (hr : s.ladder? lca = some r) (no : r.kind ≠ .job) : closeJob s lca 0 = (6, s) := by
  have k : (r.kind != .job || hSub lca != 4) = true := by simp [no]
  simp only [closeJob, hr, k, bne_self_eq_false, Bool.false_eq_true, if_false, if_true]

theorem closeJob_closed (hr : s.ladder? lca = some r) (job : r.kind = .job) (last : r.last = true) :
    closeJob s lca 0 = (7, s) := by
  have k : (r.kind != .job || hSub lca != 4) = false := by simp [job, (ladder?_job hr).mp job]
  simp only [closeJob, hr, k, last, bne_self_eq_false, Bool.false_eq_true, if_false, if_true]

/-- The job's last phase is marked (R56). -/
def State.markLast (s : State) (lca : Word) (r : Ladder) : State := s.putLadder lca { r with last := true }

theorem markLast_ladder? (o : OpenJob s lca r) : (s.markLast lca r).ladder? lca = some { r with last := true } :=
  ladder?_putRecord o.stands rfl rfl

theorem closeJob_open (o : OpenJob s lca r) : closeJob s lca 0 = (
    if r.current == 0 then (0, completeJob (s.markLast lca r) lca)
    else match (enterPhase (s.markLast lca r) r.current true).ladder? r.current with
      | some p => if p.ended then (0, completeJob (enterPhase (s.markLast lca r) r.current true) lca)
        else (0, enterPhase (s.markLast lca r) r.current true)
      | none => (0, completeJob (enterPhase (s.markLast lca r) r.current true) lca) : Word × State) := by
  simp only [closeJob, o.stands, bne_self_eq_false, Bool.false_eq_true, if_false]
  rw [if_neg (by simp [o.form]), if_neg (by simp [o.last]), if_neg (by simp [o.ended])]
  rfl

theorem closeJob_empty (o : OpenJob s lca r) (first : r.current = 0) :
    closeJob s lca 0 = (0, completeJob (s.markLast lca r) lca) := by
  rw [closeJob_open o, first]; rfl

theorem enterPhase_cases (s : State) (h : Word) (b : Bool) : enterPhase s h b = s ∨
    ∃ p, s.ladder? h = some p ∧ enterPhase s h b = s.putLadder h { p with entered := true } := by
  unfold enterPhase
  split
  · exact .inl rfl
  next p hp =>
    split
    · exact .inl rfl
    · exact .inr ⟨p, hp, rfl⟩

/-- A close while the job's current phase is open marks that phase's job and nothing else (R56). -/
theorem closed_phase (o : OpenJob s lca r) {p : Ladder} (hp : s.ladder? r.current = some p) (live : p.ended = false)
    (other : ladderPlace r.current ≠ ladderPlace lca) :
    ∃ t, exec (.lcmdCloseJob die lca 0) s = .next t ∧
      ((t.dieAt die).lcres = 0 ∧ (t.dieAt die).lca = lca ∧ (t.dieAt die).lcb = 0) ∧ t = { s with dies := t.dies } ∧
      t.ladder? lca = some { r with last := true } := by
  have some' : (r.current == 0) = false := beq_eq_false_iff_ne.mpr fun e => by
    rw [e, ladder?_zero] at hp; cases hp
  have hp1 : (s.markLast lca r).ladder? r.current = some p := by
    rw [State.markLast, putLadder_eq, ladder?_putRecord_ne _ _ other, hp]
  have entered : ∃ u q, enterPhase (s.markLast lca r) r.current true = u ∧ u = { s with dies := u.dies } ∧
      u.ladder? r.current = some q ∧ q.ended = false ∧ u.ladder? lca = some { r with last := true } := by
    obtain e | ⟨p', hp', e⟩ := enterPhase_cases (s.markLast lca r) r.current true
    · exact ⟨_, p, e, rfl, hp1, live, markLast_ladder? o⟩
    · obtain rfl : p = p' := Option.some.inj (hp1.symm.trans hp')
      refine ⟨_, { p with entered := true }, e, rfl, ladder?_putRecord hp1 rfl rfl, live, ?_⟩
      rw [putLadder_eq, ladder?_putRecord_ne _ _ other.symm, markLast_ladder? o]
  obtain ⟨u, q, enter, frame, hq, qlive, job⟩ := entered
  have done : closeJob s lca 0 = (0, u) := by
    simp only [closeJob_open o, some', enter, hq, qlive, Bool.false_eq_true, if_false]
  refine ⟨_, exec_closeJob done, lcResult_holds .., ?_, ?_⟩
  · rw [lcResult_dies, frame]
  · rw [lcResult_ladder?, job]

/-- No standing launch of the job is at the job's own place. -/
def Apart (s : State) (lca : Word) : Prop :=
  ∀ x ∈ s.ladders, x.2.standing = true → x.2.job = lca → ladderPlace x.1 ≠ ladderPlace lca

theorem markLast_away (o : OpenJob s lca r) (apart : Apart s lca) :
    ∀ x ∈ standings (s.markLast lca r) lca, ladderPlace lca ≠ ladderPlace x.1 := by
  intro x hx
  obtain ⟨mem, standing, job, -⟩ := mem_standings.mp hx
  obtain mem | rfl := mem_ladders_putRecord mem
  · exact (apart x mem standing job).symm
  · obtain ⟨-, -, hrec, -⟩ := ladder?_some.mp o.stands
    have own := record_mem_ladders (s := s) (d := hDie lca) (k := hCluster lca) (by rw [hrec, o.job]; decide)
    rw [hrec] at own
    exact (apart _ own standing job).symm

/-- A standing launch that a handle names is one of those that end, at its place. -/
theorem mem_standings_markLast (o : OpenJob s lca r) {d k : Nat} (launch : (s.record d k).kind = .launch)
    (standing : (s.record d k).standing = true) (job : (s.record d k).job = lca) (live : (s.record d k).ended = false) :
    (d, k) ≠ ladderPlace lca ∧
      (ladderHandle s.pod.module d k 1 (s.record d k).gen, s.record d k) ∈ standings (s.markLast lca r) lca := by
  have ne : (d, k) ≠ ladderPlace lca := by
    intro e
    obtain ⟨rfl, rfl⟩ := Prod.mk.inj e
    rw [(ladder?_some.mp o.stands).2.2.1, o.job] at launch
    cases launch
  have same : (s.markLast lca r).record d k = s.record d k := by
    rw [State.markLast, putLadder_eq, record_putRecord, if_neg ne]
  have listed := record_mem_ladders (s := s.markLast lca r) (d := d) (k := k) (by rw [same, launch]; decide)
  rw [same, launch] at listed
  exact ⟨ne, mem_standings.mpr ⟨listed, standing, job, live⟩⟩

/-- The job's record once its standing launches have ended, and the state in which the job has ended too (R53, R55). -/
def lastRecord (s : State) (lca : Word) (r : Ladder) : Ladder :=
  (endStandings (s.markLast lca r) lca).record (hDie lca) (hCluster lca)
def endJob (s : State) (lca : Word) (r : Ladder) : State :=
  endObject (endStandings (s.markLast lca r) lca) lca (lastRecord s lca r)

theorem endJob_counted (s : State) (lca : Word) (r : Ladder) :
    Counted ((endStandings (s.markLast lca r) lca).putLadder lca { lastRecord s lca r with ended := true }) (endJob s lca r) :=
  endObject_counted ..

theorem endJob_pod (s : State) (lca : Word) (r : Ladder) : (endJob s lca r).pod = s.pod := by
  rw [endJob, endObject_frame]
  exact endStandings_pod _ _

theorem endJob_clusters (s : State) (lca : Word) (r : Ladder) :
    (endJob s lca r).clusters = (endStandings (s.markLast lca r) lca).clusters := by
  rw [endJob, endObject_frame]

theorem endJob_onlyKept (s : State) (lca : Word) (r : Ladder) : OnlyKept s (endJob s lca r) :=
  (OnlyKept.of_clusters (s := s) (t := s.markLast lca r) rfl).trans
    ((endStandings_onlyKept ..).trans (OnlyKept.of_clusters (endJob_clusters ..)))

/-- A standing launch that ends does, and its kept entries are to be freed (R53, R84). -/
theorem endJob_ended {x : Word × Ladder} (hx : x ∈ standings (s.markLast lca r) lca) {d k : Nat}
    (place : (d, k) = ladderPlace x.1) (ne : (d, k) ≠ ladderPlace lca) : ((endJob s lca r).record d k).ended = true := by
  rw [((endJob_counted s lca r).record d k).ended, putLadder_eq, record_putRecord, if_neg ne]
  exact endStandings_ended hx place

theorem endJob_kept {x : Word × Ladder} (hx : x ∈ standings (s.markLast lca r) lca) {ck : Nat}
    (he : ∃ e ∈ (s.clusterAt ck).entries, e.2.launch = x.1) : x.1 ∈ ((endJob s lca r).clusterAt ck).heddle.kept := by
  rw [State.clusterAt, endJob_clusters]
  exact endStandings_kept hx he

section
variable (o : OpenJob s lca r) (apart : Apart s lca)
include o apart

theorem lastRecord_grown : Grown { r with last := true } (lastRecord s lca r) := by
  have grown := endStandings_grown (s.markLast lca r) lca (markLast_away o apart)
  rwa [(ladder?_some.mp (markLast_ladder? o)).2.2.1] at grown

theorem lastRecord_ladder? : (endStandings (s.markLast lca r) lca).ladder? lca = some (lastRecord s lca r) :=
  ladder?_of_grown (by rw [endStandings_pod]) (markLast_ladder? o) (lastRecord_grown o apart)

/-- The job's own record then is closed and ended (R53, R56). -/
theorem endJob_job : ((endJob s lca r).ladder? lca).map (fun x => (x.last, x.ended)) = some (true, true) := by
  have last := lastRecord_grown o apart
  have counted := (endJob_counted s lca r).record (hDie lca) (hCluster lca)
  rw [putLadder_eq, record_putRecord, if_pos rfl] at counted
  have stands := ladder?_putRecord (lastRecord_ladder? o apart) (q := { lastRecord s lca r with ended := true }) rfl rfl
  rw [ladder?_of_grown (by rw [(endJob_counted s lca r).frame]) stands counted]
  simp [counted.last, counted.ended, last.last]

/-- A close of it completes it: what remains is to fill its future (R54). -/
theorem closeJob_fills (first : r.current = 0) (fut : Fillable s r.space r.future) : closeJob s lca 0 =
    (0, fillEntry (endJob s lca r) (hCk r.future) (hSlot r.future) .full 0 (lastRecord s lca r).maxTime false) := by
  rw [closeJob_empty o first, completeJob_live (markLast_ladder? o) o.ended (lastRecord_ladder? o apart)]
  exact congrArg _ (fillCompletion_fillable ((endJob_onlyKept s lca r).fillable fut) ..)

end

/-- A close of a job that opened no phase completes it: its future is filled, and its standing launches end (R53, R54, R56). -/
theorem closed_empty (o : OpenJob s lca r) (first : r.current = 0) (fut : Fillable s r.space r.future) (apart : Apart s lca) :
    ∃ t time, exec (.lcmdCloseJob die lca 0) s = .next t ∧
      ((t.dieAt die).lcres = 0 ∧ (t.dieAt die).lca = lca ∧ (t.dieAt die).lcb = 0) ∧
      (t.ladder? lca).map (fun x => (x.last, x.ended)) = some (true, true) ∧ r.maxTime ≤ time ∧
      filled t r.future .full 0 time ∧
      ∀ d k, s.named d k → (s.record d k).kind = .launch → (s.record d k).standing = true → (s.record d k).job = lca →
        (s.record d k).ended = false →
        (t.record d k).ended = true ∧ ∀ ck,
          (∃ e ∈ (s.clusterAt ck).entries, e.2.launch = ladderHandle s.pod.module d k 1 (s.record d k).gen) →
          ladderHandle s.pod.module d k 1 (s.record d k).gen ∈ (t.clusterAt ck).heddle.kept := by
  have quiet := Quiet.fillEntry (endJob s lca r) (hCk r.future) (hSlot r.future) .full 0 (lastRecord s lca r).maxTime false
  refine ⟨_, (lastRecord s lca r).maxTime, exec_closeJob (closeJob_fills o apart first fut), lcResult_holds .., ?_,
    (lastRecord_grown o apart).time, filled_fillEntry .., fun d k named launch standing job live => ?_⟩
  · rw [lcResult_ladder?, quiet.ladder?]
    exact endJob_job o apart
  · obtain ⟨ne, hx⟩ := mem_standings_markLast o launch standing job live
    obtain ⟨hm, hd, hk, hg⟩ := named
    obtain ⟨-, -, die', index, -, -⟩ := ladderHandle_fields hm hd hk (by decide : 1 < 8) hg
    constructor
    · rw [lcResult_record, quiet.record]
      exact endJob_ended hx (by rw [ladderPlace, die', index]) ne
    · intro ck he
      rw [lcResult_clusterAt, fillEntry_kept]
      exact endJob_kept hx he

end
end Sys2Proof.Machine
end

section
/-! PROOFS. The ladder commands. -/

namespace Sys2Proof.Machine

/-- Settles O46: a clause for each way that a command can end, the refusals in their order, the wait, the new object and the
job that is done. -/
theorem ladderCommands : Obligations.LadderCommands := by
  unfold Obligations.LadderCommands
  intro s die lca lcb hm hd result refused next
  refine ⟨⟨fun h => ?_, fun h two => ?_, fun i j h two => ⟨fun live => ?_, fun live away => ?_, fun live srv ctx => ?_⟩⟩,
    ⟨fun h => ?_, fun h free => ?_, fun i h free => ⟨fun no => ?_, fun r hr => ⟨fun no => ?_, fun job _ last => ?_,
      fun job last ended => ?_, fun wait => ?_, fun job _ last ended no wait => ?_, ?_⟩⟩⟩,
    fun h => refused_closeJob (closeJob_malformed h), fun h => ?_⟩
  · exact refused_createJob (createJob_malformed h) (by decide)
  · exact refused_createJob (createJob_noRecord h two) (by decide)
  · rw [fld_extract] at live
    exact refused_createJob (createJob_live h two live) (by decide)
  · rw [fld_extract, fld_extract] at away
    rw [fld_extract] at live
    exact refused_createJob (createJob_away h two live away) (by decide)
  · simp only [fld_extract] at live srv ctx ⊢
    have ready : CreateReady s die lca lcb i j := ⟨h, two, live, srv, ctx⟩
    refine ⟨fun wait => ?_, fun no wait => ?_, fun slot gen u got => created_job ready hm hd got⟩
    · show Host.Outcome.next (if ladderWaits s die 1 lca lcb then s else _) = _
      rw [wait]; rfl
    · obtain ⟨u, made⟩ := createJob_noEntry ready no
      exact ⟨_, exec_createJob made wait, lcResult_holds ..⟩
  · exact refused_openPhase (openPhase_malformed h) (by decide)
  · exact refused_openPhase (openPhase_noRecord h free) (by decide)
  · exact refused_openPhase (openPhase_stale ⟨h, free⟩ no) (by decide)
  · exact refused_openPhase (openPhase_noJob ⟨h, free⟩ hr no) (by decide)
  · exact refused_openPhase (openPhase_closed ⟨h, free⟩ hr job last) (by decide)
  · exact refused_openPhase (openPhase_ended ⟨h, free⟩ hr job last ended) (by decide)
  · show Host.Outcome.next (if ladderWaits s die 2 lca lcb then s else _) = _
    rw [wait]; rfl
  · obtain ⟨u, made⟩ := openPhase_noEntry ⟨h, free⟩ ⟨hr, job, last, ended⟩ no
    exact ⟨_, exec_openPhase made wait, lcResult_holds ..⟩
  · intro slot gen u job _ last ended here other first got
    obtain ⟨t, run, res, phase, current, st, owner⟩ :=
      opened_phase ⟨h, free⟩ ⟨hr, job, last, ended⟩ other first here hm hd got
    rw [fld_extract, fld_extract]
    exact ⟨t, run, res, by rw [phase, newPhase, first]; rfl, current, st, owner⟩
  · subst h
    refine ⟨fun no => refused_closeJob (closeJob_stale no), fun r hr => ⟨fun no => refused_closeJob (closeJob_noJob hr no),
      fun job _ last => refused_closeJob (closeJob_closed hr job last), fun job _ last ended => ⟨?_, ?_⟩⟩⟩
    · intro p hp live _ _ other
      exact closed_phase ⟨hr, job, last, ended⟩ hp live other
    · intro first fut apart
      obtain ⟨t, time, run, res, done, later, fill, standing⟩ := closed_empty ⟨hr, job, last, ended⟩ first fut apart
      exact ⟨t, time, run, res, done, later, fill, fun d k named launch st own live _ _ => standing d k named launch st own live⟩

end Sys2Proof.Machine
end

section
/-! PROOFS. The end of a task, and of every task of a SPACE (R79, R275). -/

namespace Sys2Proof.Machine

/-- What every part of a kill keeps: no task is new, a core goes on with its task or lets it go, and ladder records are at most
counted. -/
structure Dwindles (s t : State) : Prop where
  live : ∀ x ∈ t.liveKeys, x ∈ s.liveKeys
  running : ∀ k, (t.coreAt k).running = (s.coreAt k).running ∨ (t.coreAt k).running = none
  record : ∀ d k, Grown (s.record d k) (t.record d k)

theorem Quiet.dwindles {s t : State} (h : Quiet s t) : Dwindles s t :=
  ⟨h.live, fun k => .inl (h.running k), fun d k => by rw [h.record]; exact Grown.refl _⟩

theorem Counted.dwindles {s t : State} (h : Counted s t) : Dwindles s t := by
  have c : t.clusters = s.clusters := by rw [h.frame]
  exact ⟨fun x hx => liveKeys_congr c ▸ hx, fun k => .inl (by rw [h.frame]; rfl), h.record⟩

namespace Dwindles

theorem refl (s : State) : Dwindles s s := (Quiet.refl s).dwindles

theorem trans {s t u : State} (h : Dwindles s t) (k : Dwindles t u) : Dwindles s u where
  live x hx := h.live x (k.live x hx)
  running j := by
    obtain e | e := k.running j
    · rw [e]; exact h.running j
    · exact .inr e
  record d i := (h.record d i).trans (k.record d i)

/-- A core that has let its task go has none. -/
theorem idle {s t : State} (h : Dwindles s t) {k : Nat} (hk : (s.coreAt k).running = none) : (t.coreAt k).running = none :=
  (h.running k).elim (·.trans hk) id

theorem foldl {α : Type} {f : State → α → State} (hf : ∀ s a, Dwindles s (f s a)) (l : List α) (s : State) :
    Dwindles s (l.foldl f s) :=
  List.foldlRecOn l f (motive := Dwindles s) (refl s) fun t h a _ => h.trans (hf t a)

/-- A state that differs in no task, core and ladder record. -/
theorem of_eq {s t : State} (core : t.core = s.core) (cur : t.cur = s.cur) (cores : t.cores = s.cores)
    (clusters : t.clusters = s.clusters) (dies : t.dies = s.dies) : Dwindles s t where
  live x hx := liveKeys_congr clusters ▸ hx
  running k := .inl (by simp only [State.coreAt, core, cur, cores])
  record d k := by simp only [State.record, State.dieAt, dies]; exact Grown.refl _

theorem send (s : State) (p : Packet) : Dwindles s (s.send p) := by
  unfold State.send
  simp only
  split <;> exact of_eq rfl rfl rfl rfl rfl

theorem setChannelStatus (s : State) (ck sp ch code : Nat) : Dwindles s (setChannelStatus s ck sp ch code) := by
  unfold Machine.setChannelStatus
  simp only
  split
  · exact refl s
  · refine Quiet.dwindles (Quiet.putCluster ?_); rfl

theorem freeName (s : State) (name : Word) : Dwindles s (freeName s name) := by
  unfold Machine.freeName
  simp only
  split
  · exact refl s
  · split
    · refine Quiet.dwindles (Quiet.putCluster ?_); rfl
    · exact refl s

/-- A core goes on with its task or lets it go. -/
theorem putCore {s : State} {k : Nat} {c : Core} (h : c.running = (s.coreAt k).running ∨ c.running = none) :
    Dwindles s (s.putCore k c) where
  live x hx := by rwa [liveKeys_congr (s := s) (by simp)] at hx
  running j := by
    rw [State.coreAt_putCore]; split
    next e => rw [e]; exact h
    next => exact .inl rfl
  record d i := by simp only [State.record, State.dieAt, State.putCore_dies]; exact Grown.refl _

end Dwindles

theorem putTask_dwindles {s : State} {ck slot : Nat} {t : Task} (h : t.st = .free) : Dwindles s (s.putTask ck slot t) := by
  unfold State.putTask
  refine Dwindles.trans (Quiet.putTasks (slot := slot) (t := t) ?_ fun ne => absurd h ne).dwindles
    (Dwindles.of_eq (State.writeBytes_core ..) ?_ ?_ ?_ ?_)
  all_goals rfl

/-- No task of a slot is live once a free one was put there. -/
theorem putTask_gone (s : State) (ck slot : Nat) {t : Task} (h : t.st = .free) (sp : Nat) :
    (ck, slot, sp) ∉ (s.putTask ck slot t).liveKeys := by
  intro hx
  obtain ⟨c, hc, u, hu, live, -⟩ := mem_liveKeys.mp hx
  obtain e | ⟨-, ne⟩ := mem_mput.mp hc
  · obtain ⟨-, rfl⟩ := Prod.mk.inj e
    obtain e | ⟨-, ne⟩ := mem_mput.mp hu
    · obtain ⟨-, rfl⟩ := Prod.mk.inj e
      exact live h
    · exact ne rfl
  · exact ne rfl

/-- The end of a task frees its slot, and beside it only fills, tells, counts and releases (R28, R32, R44, R64). -/
theorem endTask_frees (s : State) (ck slot : Nat) (e : TaskEnd) (time : Nat) : ∃ u t, t.st = .free ∧ Dwindles s u ∧
    Dwindles (u.putTask ck slot t) (endTask s ck slot e time) := by
  have mend := (Quiet.mendEntry s ck slot).dwindles
  unfold endTask
  generalize mendEntry s ck slot = s0 at mend ⊢
  obtain ⟨st, v⟩ := e.fill
  dsimp -zeta only
  extract_lets _ c t code homeHere entry fills s1 s2 report s3 cancelled poisoned s4 c1 s5 e1 mine p s6 keepEntry s7
  have filled : Dwindles s0 s1 := by
    simp only [s1]; split
    · exact (Quiet.fillEntry ..).dwindles
    · exact Dwindles.refl _
  have sent : Dwindles s1 s2 := by
    simp only [s2]; split
    · exact Dwindles.send ..
    · exact Dwindles.refl _
  have told : Dwindles s2 s3 := by
    simp only [s3]; split
    · split
      · exact Dwindles.refl _
      · exact Dwindles.setChannelStatus ..
    · exact Dwindles.refl _
  have counted : Dwindles s3 s4 := (Counted.countEnded ..).dwindles
  have released : Dwindles s4 (s4.putCluster ck c1) := by
    refine Quiet.dwindles (Quiet.putCluster ?_); rfl
  have named : Dwindles ((s4.putCluster ck c1).putTask ck slot { space := t.space }) s5 := Dwindles.freeName ..
  have discarded : Dwindles s5 s6 := Dwindles.of_eq rfl rfl rfl rfl rfl
  have last : Dwindles s6 (if keepEntry then drainRefill s7 ck slot else freeEntry s7 ck slot) := by
    have put : Dwindles s6 s7 := (Quiet.putEntry ..).dwindles
    refine put.trans ?_
    split
    · exact (Quiet.drainRefill ..).dwindles
    · exact (Quiet.freeEntry ..).dwindles
  refine ⟨_, _, ?_, mend.trans (filled.trans (sent.trans (told.trans (counted.trans released)))),
    named.trans (discarded.trans last)⟩
  rfl

theorem Dwindles.endTask (s : State) (ck slot : Nat) (e : TaskEnd) (time : Nat) : Dwindles s (endTask s ck slot e time) := by
  obtain ⟨u, t, free, before, after⟩ := endTask_frees s ck slot e time
  exact before.trans ((putTask_dwindles free).trans after)

theorem endTask_gone (s : State) (ck slot : Nat) (e : TaskEnd) (time sp : Nat) :
    (ck, slot, sp) ∉ (endTask s ck slot e time).liveKeys := by
  obtain ⟨u, t, free, -, after⟩ := endTask_frees s ck slot e time
  exact fun hx => putTask_gone u ck slot free sp (after.live _ hx)

theorem releaseQueues_tasks (c : Cluster) (x : Core) : (releaseQueues c x).tasks = c.tasks :=
  List.foldlRecOn x.queues _ (motive := fun b : Cluster => b.tasks = c.tasks) rfl fun b hb q _ => by
    split
    · exact hb
    · exact hb

namespace Dwindles

theorem listFree (s : State) (ck c : Nat) : Dwindles s (listFree s ck c) := (Quiet.putHeddle ..).dwindles

theorem dropFollower (ck : Nat) (s : State) (c : Nat) : Dwindles s (dropFollower ck s c) := by
  unfold Machine.dropFollower
  refine (Quiet.putCluster (releaseQueues_tasks _ _)).dwindles.trans (trans (putCore (.inl ?_)) (listFree ..))
  rfl

theorem disband (s : State) (k : Nat) : Dwindles s (disband s k) := by
  unfold Machine.disband
  simp only
  split
  · exact refl s
  · have drop := foldl (dropFollower (k / 8)) (followersOf s k) s
    generalize (followersOf s k).foldl (Machine.dropFollower (k / 8)) s = u at drop ⊢
    refine drop.trans ?_
    split
    · refine Dwindles.trans (Quiet.putCluster ?_).dwindles (putCore (.inl ?_)) <;> rfl
    · exact putCore (.inl rfl)

theorem freeCore (s : State) (k : Nat) : Dwindles s (freeCore s k) :=
  (disband s k).trans ((putCore (.inr rfl)).trans (listFree ..))

theorem orphanAsked (s : State) (k slot : Nat) (h : Word) : Dwindles s (orphanAsked s k slot h) := by
  unfold Machine.orphanAsked
  simp only
  split
  · exact refl s
  · exact of_eq rfl rfl rfl rfl rfl

theorem killCore (s : State) (k slot m : Nat) : Dwindles s (killCore s k slot m) :=
  (orphanAsked ..).trans ((endTask ..).trans (freeCore ..))

end Dwindles

theorem freeCore_running (s : State) (k : Nat) : ((freeCore s k).coreAt k).running = none :=
  (Dwindles.listFree ..).idle (by rw [State.coreAt_putCore_self])

theorem killCore_gone (s : State) (k slot m sp : Nat) : (k / 8, slot, sp) ∉ (killCore s k slot m).liveKeys := fun hx =>
  endTask_gone _ _ _ _ _ _ ((Dwindles.freeCore _ k).live _ hx)

/-- One task of a job that is killed ends, on a core or not (R275). -/
def killTask (m : Nat) (s : State) (x : Nat × Nat × Task) : State :=
  match (coreKeys x.1).find? (fun k => (s.coreAt k).running == some x.2.1) with
  | some k => killCore s k x.2.1 m
  | none => endTask s x.1 x.2.1 (.poison 0x303) (max x.2.2.pts m)

theorem killTasks_eq (s : State) (space m : Nat) :
    killTasks s space m = (s.liveTasks.filter (fun x => x.2.2.space == space)).foldl (killTask m) s := rfl

theorem killTask_dwindles (m : Nat) (s : State) (x : Nat × Nat × Task) : Dwindles s (killTask m s x) := by
  unfold killTask
  split
  · exact Dwindles.killCore ..
  · exact Dwindles.endTask ..

theorem mem_coreKeys {ck k : Nat} (h : k ∈ coreKeys ck) : k / 8 = ck := by
  obtain ⟨c, hc, rfl⟩ := List.mem_map.mp h
  have := List.mem_range.mp hc
  omega

theorem killTask_gone (m : Nat) (s : State) (x : Nat × Nat × Task) (sp : Nat) :
    (x.1, x.2.1, sp) ∉ (killTask m s x).liveKeys := by
  unfold killTask
  split
  next k hk =>
    have g := killCore_gone s k x.2.1 m sp
    rwa [mem_coreKeys (List.mem_of_find?_eq_some hk)] at g
  next => exact endTask_gone s x.1 x.2.1 _ _ sp

/-- The first of the cores that ran a task is the one that is freed, unless it is idle by then. -/
theorem killTask_stops (m : Nat) {s u : State} (h : Dwindles s u) {x : Nat × Nat × Task} {k : Nat}
    (runs : s.runsIn x.1 x.2.1 k) : ((killTask m u x).coreAt k).running = none := by
  obtain ⟨hit, pre, post, split, before⟩ := List.find?_eq_some_iff_append.mp runs
  obtain same | idle := h.running k
  · have first : (coreKeys x.1).find? (fun k => (u.coreAt k).running == some x.2.1) = some k := by
      refine List.find?_eq_some_iff_append.mpr ⟨by rw [same]; exact hit, pre, post, split, fun j hj => ?_⟩
      obtain e | e := h.running j
      · rw [e]; exact before j hj
      · simp [e]
    simp only [killTask, first, killCore, freeCore_running]
  · exact (killTask_dwindles m u x).idle idle

theorem killTasks_dwindles (s : State) (space m : Nat) : Dwindles s (killTasks s space m) :=
  killTasks_eq s space m ▸ Dwindles.foldl (killTask_dwindles m) _ _

/-- A kill leaves no task of its SPACE (R79, R275). -/
theorem killTasks_gone (s : State) (space m : Nat) : ∀ x ∈ (killTasks s space m).liveKeys, x.2.2 ≠ space := by
  rintro ⟨ck, slot, sp⟩ hx rfl
  obtain ⟨⟨_, _, t⟩, mem, e⟩ := List.mem_map.mp ((killTasks_dwindles s sp m).live _ hx)
  obtain ⟨rfl, rfl, own⟩ : _ = ck ∧ _ = slot ∧ t.space = sp := by simpa using e
  rw [killTasks_eq] at hx
  exact foldl_established (I := fun _ => True) (P := fun u => (_, _, sp) ∉ u.liveKeys) (fun _ _ _ => trivial)
    (fun u _ => killTask_gone m u _ sp) (fun u y hu h => hu ((killTask_dwindles m u y).live _ h)) _ _
    (List.mem_filter.mpr ⟨mem, by simpa using own⟩) trivial hx

/-- A kill stops the core of each task of its SPACE (R275). -/
theorem killTasks_stops {s : State} {space : Nat} (m : Nat) {x : Nat × Nat × Task} (hx : x ∈ s.liveTasks)
    (own : x.2.2.space = space) {k : Nat} (runs : s.runsIn x.1 x.2.1 k) :
    ((killTasks s space m).coreAt k).running = none := by
  rw [killTasks_eq]
  exact foldl_established (I := Dwindles s) (P := fun u => (u.coreAt k).running = none)
    (fun u y hu => hu.trans (killTask_dwindles m u y)) (fun u hu => killTask_stops m hu runs)
    (fun u y hu => (killTask_dwindles m u y).idle hu) _ _ (List.mem_filter.mpr ⟨hx, by simpa using own⟩) (Dwindles.refl s)

theorem killTasks_none {s : State} {space : Nat} (m : Nat) (h : ∀ x ∈ s.liveTasks, x.2.2.space ≠ space) :
    killTasks s space m = s := by
  rw [killTasks_eq, List.filter_eq_nil_iff.mpr fun x hx => by simpa using h x hx]; rfl

end Sys2Proof.Machine
end

section
/-! PROOFS. What a kill discards (R275). -/

namespace Sys2Proof.Machine

/-- A map of a table's values, at a key that it lists or one that it does not. -/
theorem mget_map_or {α : Type} (d : Nat → α) (f : α → α) (m : SMap α) (k : Nat) :
    mget d (m.map fun x => (x.1, f x.2)) k = f (mget d m k) ∨
      mget d m k = d k ∧ mget d (m.map fun x => (x.1, f x.2)) k = d k := by
  induction m with
  | nil => exact .inr ⟨rfl, rfl⟩
  | cons p m ih =>
    obtain ⟨j, v⟩ := p
    by_cases h : j = k
    · simp [mget, h]
    · simpa only [List.map_cons, mget, h, if_false] using ih

/-- The end of a killed job's standing launches changes nothing but what heddles are to free (R84). -/
theorem closeStanding_frame (s : State) (space : Nat) :
    closeStanding s space = { s with clusters := (closeStanding s space).clusters } :=
  List.foldlRecOn _ _ (motive := fun t : State => t = { s with clusters := t.clusters }) rfl fun t ht x _ => by
    rw [closeLaunches_frame x.1 _ t, ht]

theorem closeStanding_onlyKept (s : State) (space : Nat) : OnlyKept s (closeStanding s space) :=
  OnlyKept.foldl (f := fun (s : State) (x : Word × Ladder) => (launchHolders s x.1).foldl (closeLaunch x.1) s)
    (fun _ _ => OnlyKept.foldl (OnlyKept.closeLaunch _) _ _) _ _

theorem closeStanding_quiet (s : State) (space : Nat) : Quiet s (closeStanding s space) :=
  Quiet.foldl (f := fun (s : State) (x : Word × Ladder) => (launchHolders s x.1).foldl (closeLaunch x.1) s)
    (fun _ _ => Quiet.foldl (fun _ _ => Quiet.putHeddle ..) _ _) _ _

section
variable (space : Nat)

@[simp] theorem killCluster_tasks (c : Cluster) : (killCluster space c).tasks = c.tasks := by
  unfold killCluster; simp only; split <;> rfl

@[simp] theorem killCluster_entries (c : Cluster) : (killCluster space c).entries = c.entries := by
  unfold killCluster; simp only; split <;> rfl

@[simp] theorem killCluster_heddle (c : Cluster) : (killCluster space c).heddle = c.heddle := by
  unfold killCluster; simp only; split <;> rfl

theorem killCluster_inRange (c : Cluster) (slot : Nat) : (killCluster space c).inRange space slot = c.inRange space slot := by
  unfold killCluster
  simp only
  split
  · show (c.putCtx space _).inRange space slot = _
    simp only [Cluster.inRange, Cluster.ctxAt_putCtx, if_true]
  · rfl

theorem killLadder_kind (r : Ladder) : (killLadder space r).kind = r.kind := by
  unfold killLadder
  split
  · rfl
  · split <;> simp_all

theorem killLadder_space (r : Ladder) : (killLadder space r).space = r.space := by
  unfold killLadder
  split
  · rfl
  · split <;> rfl

/-- A killed job has ended, and so has its standing launch (R53, R275). -/
theorem killLadder_ended {r : Ladder} (own : r.space = space) (h : r.kind = .job ∨ r.kind = .launch ∧ r.standing = true) :
    (killLadder space r).ended = true := by
  have same : (r.space != space) = false := by simp [own]
  obtain job | ⟨launch, standing⟩ := h
  · simp only [killLadder, same, job, Bool.false_eq_true, if_false]
  · simp only [killLadder, same, launch, standing, Bool.false_eq_true, if_false, Bool.or_true]

/-- What clusters, dies and the pod discard of a killed job (R275). -/
def discardJob (s : State) : State :=
  { s with clusters := s.clusters.map (fun c => (c.1, killCluster space c.2))
           dies := s.dies.map (fun d => (d.1, killDie space d.2)), pod := killPod space s.pod }

variable (s : State)

theorem liveKeys_discardJob : (discardJob space s).liveKeys = s.liveKeys := by
  simp only [State.liveKeys, State.liveTasks, discardJob, List.flatMap_map, killCluster_tasks]

theorem clusterAt_discardJob (ck : Nat) : (discardJob space s).clusterAt ck = killCluster space (s.clusterAt ck) ∨
    (discardJob space s).clusterAt ck = s.clusterAt ck :=
  (mget_map_or _ _ s.clusters ck).imp id fun ⟨e, e'⟩ => e'.trans e.symm

theorem dieAt_discardJob (d : Nat) : (discardJob space s).dieAt d = killDie space (s.dieAt d) := by
  obtain e | ⟨e, e'⟩ := mget_map_or (fun _ => ({} : Die)) (killDie space) s.dies d
  · exact e
  · exact e'.trans (show ({} : Die) = killDie space (s.dieAt d) by rw [State.dieAt, e]; rfl)

/-- A record that stands is the killed job's one. -/
theorem record_discardJob {d k : Nat} (h : (s.record d k).kind ≠ .free) :
    (discardJob space s).record d k = killLadder space (s.record d k) := by
  rw [State.record, dieAt_discardJob]
  obtain e | ⟨e, -⟩ := mget_map_or (fun _ => ({} : Ladder)) (killLadder space) (s.dieAt d).ladder k
  · exact e
  · exact absurd (congrArg Ladder.kind e) h

variable {space s}

/-- A future that can be filled still can. -/
theorem fillable_discardJob {f : Word} (p : Fillable s space f) : Fillable (discardJob space s) space f := by
  obtain ⟨p1, p2, p3, p4, p5, p6, p7⟩ := p
  obtain e | e := clusterAt_discardJob space s (hCk f)
  · constructor
    · exact p1
    all_goals rw [e]
    case range => rwa [killCluster_inRange]
    all_goals simpa only [Cluster.entry, Cluster.busy, killCluster_entries, killCluster_heddle]
  · constructor
    · exact p1
    all_goals rwa [e]

end

end Sys2Proof.Machine
end

section
/-! PROOFS. Bring-up, the module that is down, and the kill of a job (R274, R275, R282). -/

namespace Sys2Proof.Machine

section
variable (s : State) (space code : Nat)

/-- A kill message of the SPACE and the code, the time of the first one, and the state in which it has been taken (R275). -/
def isKill (k : Nat × Nat × Nat) : Bool := k.1 == space && k.2.1 == code
def killTime : Nat := ((s.pod.kills.find? (isKill space code)).map (·.2.2)).getD 0
def takeKill : State :=
  { s with pod := { s.pod with kills := s.pod.kills.eraseIdx (s.pod.kills.findIdx (isKill space code)) } }

/-- The jobs that a kill ends, and the fill of one's future (R57). -/
def killedJobs : List (Word × Ladder) := s.ladders.filter fun x => x.2.kind == .job && x.2.space == space && !x.2.ended
def fillKilled (m : Nat) (s : State) (x : Word × Ladder) : State :=
  fillCompletion s space x.2.future (if code = 0 then .cancelled else .poisoned) (if code = 0 then 0 else wordOfNat code)
    (max m x.2.maxTime)

/-- A kill once the tasks of its SPACE and its standing launches have ended, and once the rest of it is discarded (R275). -/
def stopJob : State := closeStanding (killTasks (takeKill s space code) space (killTime s space code)) space
def killed : State := (killedJobs s space).foldl (fillKilled space code (killTime s space code)) (discardJob space (stopJob s space code))

theorem exec_killMessage : exec (.killMessage space code) s = .next (killed s space code) := rfl

theorem killed_quiet : Quiet (discardJob space (stopJob s space code)) (killed s space code) :=
  Quiet.foldl (fun _ _ => Quiet.fillCompletion ..) _ _

theorem stopJob_dwindles : Dwindles s (stopJob s space code) :=
  (Dwindles.of_eq rfl rfl rfl rfl rfl : Dwindles s (takeKill s space code)).trans
    ((killTasks_dwindles ..).trans (closeStanding_quiet ..).dwindles)

/-- A kill leaves no task of its SPACE (R79, R275). -/
theorem killed_tasks : ∀ x ∈ (killed s space code).liveTasks, x.2.2.space ≠ space := by
  intro x hx
  have key := (killed_quiet s space code).live _ (List.mem_map_of_mem hx)
  rw [liveKeys_discardJob] at key
  exact killTasks_gone _ space _ _ ((closeStanding_quiet ..).live _ key)

/-- Nor does a core go on with one. -/
theorem killed_cores {x : Nat × Nat × Task} (hx : x ∈ s.liveTasks) (own : x.2.2.space = space) {k : Nat}
    (runs : s.runsIn x.1 x.2.1 k) : ((killed s space code).coreAt k).running = none := by
  have stops := killTasks_stops (s := takeKill s space code) (killTime s space code) hx own runs
  rw [(killed_quiet s space code).running]
  exact (closeStanding_quiet ..).running k |>.trans stops

theorem killed_queues (d : Nat) : ∀ q ∈ ((killed s space code).dieAt d).launchQ ++ ((killed s space code).dieAt d).spilled,
    q.space ≠ space := by
  rw [(killed_quiet s space code).queue, (killed_quiet s space code).spilled, dieAt_discardJob]
  intro q hq
  obtain hq | hq := List.mem_append.mp hq <;> simpa using (List.mem_filter.mp hq).2

/-- The standing launches of the SPACE have ended (R53). -/
theorem killed_standing {d k : Nat} (launch : (s.record d k).kind = .launch) (standing : (s.record d k).standing = true)
    (own : (s.record d k).space = space) : ((killed s space code).record d k).ended = true := by
  have grown := (stopJob_dwindles s space code).record d k
  rw [(killed_quiet s space code).record, record_discardJob space _ (by rw [grown.kind, launch]; decide)]
  exact killLadder_ended _ (grown.space.trans own) (.inr ⟨grown.kind.trans launch, grown.standing.trans standing⟩)

theorem killed_jobs : ∀ j ∈ (killed s space code).pod.jobs, j.space ≠ space := by
  rw [(killed_quiet s space code).jobs]
  intro j hj
  simpa using (List.mem_filter.mp hj).2

theorem killed_updates : ∀ u ∈ (killed s space code).pod.com ++ (killed s space code).pod.qnt, u.space ≠ space := by
  rw [(killed_quiet s space code).com]
  intro u hu
  obtain hu | hu := List.mem_append.mp hu
  · simpa using (List.mem_filter.mp hu).2
  · simpa using (List.mem_filter.mp ((killed_quiet s space code).qnt u hu)).2

/-- Of the packets of the SPACE, wakes and answers alone stay (R275). -/
theorem killed_packets : ∀ p ∈ (killed s space code).packets, p.msg.space = space → p.msg.handler = 7 ∨ p.msg.handler = 15 := by
  intro p hp own
  obtain old | answer := (killed_quiet s space code).packets p hp
  · have kept : killedPacket space p = false := by
      simp only [State.packets, discardJob, killPod, List.mem_append, List.mem_filter, Bool.not_eq_true'] at old
      obtain (⟨-, kept⟩ | ⟨-, kept⟩) | ⟨-, kept⟩ := old
      · exact kept
      · exact kept
      · exact kept
    simp only [killedPacket, own, beq_self_eq_true, Bool.true_and, Bool.and_eq_false_iff, bne_eq_false_iff_eq] at kept
    exact kept.symm
  · exact .inl answer

end

section
variable {s : State} {space code : Nat} {h : Word} {r : Ladder}

theorem stopJob_idle (idle : ∀ x ∈ s.liveTasks, x.2.2.space ≠ space) :
    stopJob s space code = closeStanding (takeKill s space code) space := by
  rw [stopJob, killTasks_none _ (by exact idle)]

/-- The kill of a job without a task: its future is filled where it stands. -/
theorem killed_single (one : killedJobs s space = [(h, r)]) (idle : ∀ x ∈ s.liveTasks, x.2.2.space ≠ space)
    (fut : Fillable s space r.future) : killed s space code =
      fillEntry (discardJob space (closeStanding (takeKill s space code) space)) (hCk r.future) (hSlot r.future)
        (if code = 0 then .cancelled else .poisoned) (if code = 0 then 0 else wordOfNat code)
        (max (killTime s space code) r.maxTime) false := by
  have keeps : OnlyKept s (closeStanding (takeKill s space code) space) :=
    (OnlyKept.of_clusters (s := s) (t := takeKill s space code) rfl).trans (closeStanding_onlyKept ..)
  rw [killed, one, stopJob_idle idle, List.foldl_cons, List.foldl_nil, fillKilled,
    fillCompletion_fillable (fillable_discardJob (keeps.fillable fut))]

theorem killTime_of_first {i time : Nat} (first : s.pod.kills.findIdx (isKill space code) = i)
    (at' : s.pod.kills[i]? = some (space, code, time)) : killTime s space code = time := by
  rw [killTime, List.find?_eq_getElem?_findIdx, first, at']; rfl

/-- Every job of a SPACE whose dies discarded it has ended. -/
theorem discardJob_ended {x : Word × Ladder} (hx : x ∈ (discardJob space s).ladders) (job : x.2.kind = .job)
    (own : x.2.space = space) : x.2.ended = true := by
  obtain ⟨h, q⟩ := x
  obtain ⟨d, die, k, hd, hk, -, -⟩ := mem_ladders.mp hx
  obtain ⟨⟨_, die⟩, -, e⟩ := List.mem_map.mp hd
  obtain ⟨rfl, rfl⟩ := Prod.mk.inj e
  obtain ⟨⟨_, q⟩, -, e⟩ := List.mem_map.mp hk
  obtain ⟨rfl, rfl⟩ := Prod.mk.inj e
  rw [killLadder_kind] at job
  rw [killLadder_space] at own
  exact killLadder_ended space own (.inl job)

end

/-- The links of bring-up (R13, R282). -/
theorem linksAtStart_at (populated : List Nat) (m : Nat) {port : Nat} (h : port < 8) :
    mget (fun _ => Link.pam4) (linksAtStart populated m) port = if (neighbour populated m port).isNone then .down else .pam4 := by
  have at' : ∀ l : List Nat, mget (fun _ => Link.pam4)
      ((l.filter fun p => (neighbour populated m p).isNone).map fun p => (p, Link.down)) port =
      if (neighbour populated m port).isNone ∧ port ∈ l then .down else .pam4 := by
    intro l
    induction l with
    | nil => simp
    | cons p l ih =>
      by_cases lone : (neighbour populated m p).isNone = true
      · by_cases e : p = port
        · subst e; simp [mget, lone]
        · simp [mget, lone, e, ih, Ne.symm e]
      · by_cases e : p = port
        · subst e; simp [lone, ih]
        · simp [lone, ih, Ne.symm e]
  rw [linksAtStart, at']
  simp [h]

/-- A module that is down makes no step but a reset (R282). -/
theorem step_down {s : State} (down : s.down = true)
    (no : ∀ ok ms, s.moves ≠ .event (.powerOn ok) :: ms ∧ s.moves ≠ .event (.resetRequest ok) :: ms) :
    step s = .fault .awaitingReset := by
  unfold step stepWith
  simp only [down, Bool.true_and, if_true]
  split
  next e ms moves =>
    have : isReset e = false := by
      cases e
      case powerOn ok => exact absurd moves (no ok ms).1
      case resetRequest ok => exact absurd moves (no ok ms).2
      all_goals rfl
    simp [this]
  next => rfl
  next => rfl

theorem step_reset {s : State} {ok : Bool} {ms : List Move}
    (moves : s.moves = .event (.powerOn ok) :: ms ∨ s.moves = .event (.resetRequest ok) :: ms) : goesOn s := by
  obtain e | e := moves <;>
  · simp only [goesOn, step, stepWith, e, isReset, Bool.not_true, Bool.and_false, Bool.false_eq_true, if_false]
    exact ⟨_, rfl⟩

/-- Settles O54: what a kill ends and discards it leaves to the fills of its jobs' futures, which bring back none of it. -/
theorem bringUpAndKill : Obligations.BringUpAndKill := by
  unfold Obligations.BringUpAndKill
  refine ⟨?_, fun s down => ⟨fun ok ms moves => step_reset moves, step_down down⟩, fun space code s => ⟨?_, ?_⟩⟩
  · rintro ok s i (rfl | rfl)
    all_goals
      exact ⟨bringUp s ok, rfl, rfl, rfl, rfl, rfl, rfl, rfl, rfl, rfl, rfl, rfl, rfl, rfl, rfl, rfl, rfl, rfl, rfl,
        fun port => linksAtStart_at _ _, rfl⟩
  · exact ⟨_, exec_killMessage .., killed_tasks s space code, fun x hx own k runs => killed_cores s space code hx own runs,
      killed_queues s space code, fun d k launch standing own => killed_standing s space code launch standing own,
      killed_jobs s space code, killed_updates s space code, killed_packets s space code⟩
  · intro h r one idle fut i time first at'
    have single := killed_single (code := code) one idle fut
    rw [killTime_of_first first at', closeStanding_frame] at single
    refine ⟨_, exec_killMessage .., ?_⟩
    rw [single]
    refine ⟨fun j => rfl, ?_, ?_, ?_, fun x hx => discardJob_ended (by exact hx)⟩
    · rintro rfl
      exact filled_fillEntry ..
    · intro ne
      rw [if_neg ne, if_neg ne]
      exact filled_fillEntry ..
    · rw [← first]; rfl

end Sys2Proof.Machine
end
